-- ==== Sys2Proof/Word.lean ====
section
/-! DEFINITION. The word types of the Catevos T9 and their plainest arithmetic. -/

namespace Sys2Proof

/-- A 64-bit register, limb or slot. -/
abbrev U64 := BitVec 64

/-- One byte of memory, or a tag byte (R33). -/
abbrev Byte := BitVec 8

/-- A Leroth word: 576 bits, two's complement, weight 2^-266 at position 0 (R18). -/
abbrev L576 := BitVec 576

/-- An 18-bit fabric coordinate (R262). -/
abbrev Coord := BitVec 18

/-- The field of `x` that starts at bit `lo` and is `w` bits wide, as a number (R2). -/
def bits (x lo w : Nat) : Nat := (x >>> lo) % 2 ^ w

/-- Bit `i` of `x` (R2). -/
def bit (x i : Nat) : Bool := x.testBit i

end Sys2Proof
end

