-- ==== Sys2Proof/Syntax.lean ====
section
/-! DEFINITION. The commands of the T9: one constructor of Instr for each row of the operation table, with its operands. Slot instructions of a tile core carry the fields of their slot (R114 to R131); events carry what reaches the block from outside (measured values, received data, the result of a test). -/

namespace Sys2Proof

abbrev TileN := Fin 168
abbrev StationN := Fin 28
abbrev ChanN := Fin 128
abbrev PortN := Fin 16
abbrev RingN := Fin 64
abbrev CidN := Fin 256

/-! ### Slot instructions of a tile core -/

/-- A slot of tile `t` with the common header of R115; `b` is true in the second of two equal slots (1 of 0 and 1; 4 of 3 and 4). -/
structure Hd where
  t : TileN
  b : Bool := false
  pg : BitVec 3 := 0#3
  pn : Bool := false
deriving DecidableEq, Repr

/-- Format SR (R118). -/
structure FSR where
  sd : BitVec 5
  sa : BitVec 5
  sb : BitVec 5
deriving DecidableEq, Repr

/-- Format SI (R118). -/
structure FSI where
  sd : BitVec 5
  sa : BitVec 5
  imm : BitVec 42
deriving DecidableEq, Repr

/-- Format PR (R118). -/
structure FPR where
  pd : BitVec 3
  sa : BitVec 5
  sb : BitVec 5
deriving DecidableEq, Repr

/-- Format PI (R118). -/
structure FPI where
  pd : BitVec 3
  sa : BitVec 5
  imm : BitVec 42
deriving DecidableEq, Repr

/-- Format PP (R118). -/
structure FPP where
  pd : BitVec 3
  pa : BitVec 3
  pb : BitVec 3
deriving DecidableEq, Repr

/-- Format AM (R124); `r` is sd, vd or the row. -/
structure FAM where
  r : BitVec 5
  aa : BitVec 4
  mode : BitVec 2
  sx : BitVec 5
  imm : BitVec 33
deriving DecidableEq, Repr

/-- Format AA (R124). -/
structure FAA where
  ad : BitVec 4
  aa : BitVec 4
  sx : BitVec 5
  imm : BitVec 38
deriving DecidableEq, Repr

/-- The fields of LRSTEP (R126). -/
structure FStep where
  aa : BitVec 4
  ac : BitVec 4
  index : BitVec 5
  floor : BitVec 10
  pb : BitVec 2
  negate : Bool
  first : Bool
  inc : Bool
  stride : BitVec 16
  sinc : Bool
deriving DecidableEq, Repr

/-- The fields of LRLOAD (R126); `o` is the field o / 64. -/
structure FLoad where
  aa : BitVec 4
  ac : BitVec 4
  fmt : BitVec 4
  dir : Bool
  o : BitVec 2
  pa : BitVec 2
deriving DecidableEq, Repr

/-- Format V (R128). -/
structure FV where
  vd : BitVec 5
  va : BitVec 5
  vb : BitVec 5
  vc : BitVec 5
  ctl : BitVec 16
  imm : BitVec 8
deriving DecidableEq, Repr

inductive SrOp where
  | add | sub | and | or | xor | shl | shr | sra | min | max | minu | maxu | mul | mulhs | mulhu
  | div | divu | rem | remu | clz | ctz | popc
deriving DecidableEq, Repr

inductive SiOp where
  | addi | subi | andi | ori | xori | shli | shri | srai | muli
deriving DecidableEq, Repr

inductive CmpOp where
  | eq | ne | lt | ltu | le | leu
deriving DecidableEq, Repr

inductive PpOp where
  | pand | por | pxor | pandn
deriving DecidableEq, Repr

inductive LdOp where
  | ldb | ldbu | ldh | ldhu | ldw | ldwu | ldd
deriving DecidableEq, Repr

inductive StOp where
  | stb | sth | stw | std
deriving DecidableEq, Repr

inductive AmoOp where
  | add | swap | maxu
deriving DecidableEq, Repr

inductive VOp where
  | vadd | vsub | vmul | vfma | vmin | vmax | vabs | vneg | vcmp | vsel | vcvt | vunpk
  | vexp2 | vrcp | vrsqrt | vlog2 | vsigm | vacc | vacsq | vacx | vwrd | vwclr | vmoment | vrng | vupd
deriving DecidableEq, Repr

/-- A decoded slot instruction. -/
inductive SlotOp where
  | nop
  | sr (op : SrOp) (f : FSR)
  | si (op : SiOp) (f : FSI)
  | li (sd : BitVec 5) (imm : BitVec 47)
  | lih (sd : BitVec 5) (imm : BitVec 17)
  | cmp (op : CmpOp) (f : FPR)
  | cmpi (op : CmpOp) (f : FPI)
  | pp (op : PpOp) (f : FPP)
  | mfsr (sd : BitVec 5) (num : BitVec 8)
  | mtsr (sa : BitVec 5) (num : BitVec 8)
  | jmp (target : BitVec 16)
  | call (target : BitVec 16) (sd : BitVec 5)
  | jmpr (sa : BitVec 5)
  | loop (fin : BitVec 16) (sa : BitVec 5)
  | loopi (fin : BitVec 16) (count : BitVec 19)
  | lpop
  | wait (sa : BitVec 5)
  | evclr (sa : BitVec 5)
  | fin (code : BitVec 16)
  | brk (code : BitVec 16)
  | ld (op : LdOp) (f : FAM)
  | st (op : StOp) (f : FAM)
  | vld (f : FAM)
  | vst (f : FAM)
  | wld (f : FAM)
  | wst (f : FAM)
  | amo (op : AmoOp) (sd : BitVec 5) (aa : BitVec 4) (sx : BitVec 5)
  | aaddi (ad aa : BitVec 4) (imm : BitVec 38)
  | aadd (ad aa : BitVec 4) (sx : BitVec 5)
  | amovs (ad : BitVec 4) (sx : BitVec 5)
  | smova (sd : BitVec 5) (aa : BitVec 4)
  | lrnop
  | lrstep (f : FStep)
  | lrload (f : FLoad)
  | lrprep (sa : BitVec 5)
  | lrdcfg (aa : BitVec 4)
  | lrclose (park : Bool)
  | lrdrain (set : Bool)
  | lrsusp (aa : BitVec 4)
  | lrrest (aa : BitVec 4)
  | lrsync
  | v (op : VOp) (f : FV)
  | vins (d a : BitVec 5) (lane : BitVec 6)
  | vext (d a : BitVec 5) (lane : BitVec 6)
  | vsplat (d a : BitVec 5)
  | vmov (d a : BitVec 5)
  | pmovs (d : BitVec 3) (a : BitVec 5)
  | smovp (d : BitVec 5) (a : BitVec 3)
  | shst (ch : BitVec 7) (aa : BitVec 4) (evt : Bool) (bit : BitVec 6)
  | shstat (d : BitVec 5) (ch : BitVec 7)
  | shstop (ch : BitVec 7)
  | fence (kind : BitVec 2)
  | sig (a : BitVec 5) (bit : BitVec 6)
  | sigh (code : BitVec 16)
deriving DecidableEq, Repr

/-- A slot of a long word: slot number, header and instruction. -/
structure SlotIn where
  k : Nat
  pg : BitVec 3
  pn : Bool
  op : SlotOp
deriving DecidableEq, Repr

/-! ### What reaches the block from outside -/

/-- An access that reaches a station: entry `k` of the outstanding accesses of tile `t`; an access of a station-master core, which is not checked (R199); a transfer of another source, of class `cls`, whose effect a command of its own gives (`other`: what STATION_ACCESS adds is its errors and link retries, R195); or corrections that the devices of a station report (R195). -/
inductive StReq where
  | tile (t : TileN) (k : Nat)
  | smRead (addr len : Nat)
  | smWrite (addr : Nat) (data : List Byte)
  | smAmo (op : AmoOp) (addr : Nat) (x : U64)
  | other (addr cls : Nat) (write : Bool)
  | devices (st : StationN) (n : Nat)
deriving DecidableEq, Repr

/-- A symbol of a sector's codeword in error: the sector, the symbol and the error value (R189). In a yard or tile store, the byte at `addr` (R209); `addr` from 2^48 on names bytes of the accumulator stores, which lie outside the device map: 2^48 + 294,912 × tile + byte. -/
structure Upset where
  addr : Nat
  symbol : Fin 68
  value : Byte
deriving DecidableEq, Repr

/-- An island of R406 other than an Ulusen port. -/
inductive Island where
  | tile (t : TileN)
  | station (n : Fin 28)
  | yard (h : Fin 2)
  | shunt (h : Fin 2)
  | cxl (p : Fin 4)
deriving DecidableEq, Repr

/-- What the controller reads in a station tick (R413, R415, R442): draws in W, hottest sensors, tile temperatures that changed, inlet and outlet in °C, flow in 0.01 L/min, input in 0.1 V. -/
structure Sensors where
  now : BitVec 12
  west : BitVec 12
  east : BitVec 12
  hotW : Byte
  hotE : Byte
  temps : List (TileN × Byte)
  inlet : Byte
  outlet : Byte
  flow : BitVec 16
  vin : BitVec 16
deriving DecidableEq, Repr

/-- What memory training, the identity readings and the start of firmware show (R192 to R194, R212, R392): the bridge trained; devices trained by 4 × station + device and the identities they report; CXL links trained and degraded, identity bytes (64 a port) and capacities in 256 MiB; station-master cores started. -/
structure Trained where
  bridge : Bool
  devices : BitVec 112
  ids : List U64
  cxlUp : BitVec 4
  cxlSlow : BitVec 4
  cxlIds : List Byte
  cxlCap : List (BitVec 14)
  firmware : BitVec 4
deriving DecidableEq, Repr

/-- Which waiting command the dispatcher tries to start: the first of a ring, or the replay command of a collective (256 and more: of the adopted partner). -/
inductive CmdSel where
  | ring (k : RingN)
  | replay (key : Fin 512)
deriving DecidableEq, Repr

/-- The registers of the configuration space that R363 names: the vendor and device identity, the revision and class code, and Link Status. -/
inductive CfgReg where
  | ident | cls | linkStatus
deriving DecidableEq, Repr

/-- An access of the host by which it uses BAR2 (R363, R364; DESIGN CHOICE for all but the first two, log entry 72): a read of `n` bytes at window offset `o`; a write, poisoned or not; a read of a register of the configuration space; the size of BAR2 set there, 64 GiB doubled `k` times; bus mastering set on or off there (R381); PERST_N of the slot asserted or ended (R438); and the width (x8 instead of x16) and rate (0 to 5: 2.5, 5, 8, 16, 32 or 64 GT/s) at which the link now carries such accesses. -/
inductive Bar2 where
  | read (o n : Nat)
  | write (o : Nat) (d : List Byte) (poison : Bool)
  | config (r : CfgReg)
  | resize (k : Fin 4)
  | busMaster (on : Bool)
  | perst (low : Bool)
  | link (x8 : Bool) (rate : Fin 6)
deriving DecidableEq, Repr

/-- A place on the management bus (R445): the 7-bit address and the offset there. -/
structure BusAt where
  addr : BitVec 7
  off : Byte
deriving DecidableEq, Repr

/-! ### Commands -/

/-- The commands of the module, in the order of the operation table. -/
inductive Instr where
  /-- REGISTER_WRITE (R6). -/
  | registerWrite (o : BitVec 26) (v : U64)
  /-- NOP (R115). -/
  | nop (h : Hd) (k : Fin 8)
  /-- ADD (R119). -/
  | add (h : Hd) (f : FSR)
  /-- SUB (R119). -/
  | sub (h : Hd) (f : FSR)
  /-- AND (R119). -/
  | and (h : Hd) (f : FSR)
  /-- OR (R119). -/
  | or (h : Hd) (f : FSR)
  /-- XOR (R119). -/
  | xor (h : Hd) (f : FSR)
  /-- SHL (R119). -/
  | shl (h : Hd) (f : FSR)
  /-- SHR (R119). -/
  | shr (h : Hd) (f : FSR)
  /-- SRA (R119). -/
  | sra (h : Hd) (f : FSR)
  /-- MIN (R119). -/
  | min (h : Hd) (f : FSR)
  /-- MAX (R119). -/
  | max (h : Hd) (f : FSR)
  /-- MINU (R119). -/
  | minu (h : Hd) (f : FSR)
  /-- MAXU (R119). -/
  | maxu (h : Hd) (f : FSR)
  /-- MUL (R119). -/
  | mul (h : Hd) (f : FSR)
  /-- MULHS (R119). -/
  | mulhs (h : Hd) (f : FSR)
  /-- MULHU (R119). -/
  | mulhu (h : Hd) (f : FSR)
  /-- DIV (R120). -/
  | div (h : Hd) (f : FSR)
  /-- DIVU (R120). -/
  | divu (h : Hd) (f : FSR)
  /-- REM (R120). -/
  | rem (h : Hd) (f : FSR)
  /-- REMU (R120). -/
  | remu (h : Hd) (f : FSR)
  /-- CLZ (R119). -/
  | clz (h : Hd) (f : FSR)
  /-- CTZ (R119). -/
  | ctz (h : Hd) (f : FSR)
  /-- POPC (R119). -/
  | popc (h : Hd) (f : FSR)
  /-- ADDI (R119). -/
  | addi (h : Hd) (f : FSI)
  /-- SUBI (R119). -/
  | subi (h : Hd) (f : FSI)
  /-- ANDI (R119). -/
  | andi (h : Hd) (f : FSI)
  /-- ORI (R119). -/
  | ori (h : Hd) (f : FSI)
  /-- XORI (R119). -/
  | xori (h : Hd) (f : FSI)
  /-- SHLI (R119). -/
  | shli (h : Hd) (f : FSI)
  /-- SHRI (R119). -/
  | shri (h : Hd) (f : FSI)
  /-- SRAI (R119). -/
  | srai (h : Hd) (f : FSI)
  /-- MULI (R119). -/
  | muli (h : Hd) (f : FSI)
  /-- LI (R119). -/
  | li (h : Hd) (sd : BitVec 5) (imm : BitVec 47)
  /-- LIH (R119). -/
  | lih (h : Hd) (sd : BitVec 5) (imm : BitVec 17)
  /-- CMPEQ (R119). -/
  | cmpeq (h : Hd) (f : FPR)
  /-- CMPNE (R119). -/
  | cmpne (h : Hd) (f : FPR)
  /-- CMPLT (R119). -/
  | cmplt (h : Hd) (f : FPR)
  /-- CMPLTU (R119). -/
  | cmpltu (h : Hd) (f : FPR)
  /-- CMPLE (R119). -/
  | cmple (h : Hd) (f : FPR)
  /-- CMPLEU (R119). -/
  | cmpleu (h : Hd) (f : FPR)
  /-- CMPEQI (R119). -/
  | cmpeqi (h : Hd) (f : FPI)
  /-- CMPNEI (R119). -/
  | cmpnei (h : Hd) (f : FPI)
  /-- CMPLTI (R119). -/
  | cmplti (h : Hd) (f : FPI)
  /-- CMPLTUI (R119). -/
  | cmpltui (h : Hd) (f : FPI)
  /-- CMPLEI (R119). -/
  | cmplei (h : Hd) (f : FPI)
  /-- CMPLEUI (R119). -/
  | cmpleui (h : Hd) (f : FPI)
  /-- PAND (R119). -/
  | pand (h : Hd) (f : FPP)
  /-- POR (R119). -/
  | por (h : Hd) (f : FPP)
  /-- PXOR (R119). -/
  | pxor (h : Hd) (f : FPP)
  /-- PANDN (R119). -/
  | pandn (h : Hd) (f : FPP)
  /-- MFSR (R109). -/
  | mfsr (h : Hd) (sd : BitVec 5) (num : BitVec 8)
  /-- MTSR (R109). -/
  | mtsr (h : Hd) (sa : BitVec 5) (num : BitVec 8)
  /-- JMP (R121). -/
  | jmp (h : Hd) (target : BitVec 16)
  /-- CALL (R121). -/
  | call (h : Hd) (target : BitVec 16) (sd : BitVec 5)
  /-- JMPR (R121). -/
  | jmpr (h : Hd) (sa : BitVec 5)
  /-- LOOP (R122). -/
  | loop (h : Hd) (fin : BitVec 16) (sa : BitVec 5)
  /-- LOOPI (R122). -/
  | loopi (h : Hd) (fin : BitVec 16) (count : BitVec 19)
  /-- LPOP (R122). -/
  | lpop (h : Hd)
  /-- WAIT (R133). -/
  | wait (h : Hd) (sa : BitVec 5)
  /-- EVCLR (R133). -/
  | evclr (h : Hd) (sa : BitVec 5)
  /-- END (R123). -/
  | endProgram (h : Hd) (code : BitVec 16)
  /-- BRK (R121). -/
  | brk (h : Hd) (code : BitVec 16)
  /-- LDB (R125). -/
  | ldb (h : Hd) (f : FAM)
  /-- LDBU (R125). -/
  | ldbu (h : Hd) (f : FAM)
  /-- LDH (R125). -/
  | ldh (h : Hd) (f : FAM)
  /-- LDHU (R125). -/
  | ldhu (h : Hd) (f : FAM)
  /-- LDW (R125). -/
  | ldw (h : Hd) (f : FAM)
  /-- LDWU (R125). -/
  | ldwu (h : Hd) (f : FAM)
  /-- LDD (R125). -/
  | ldd (h : Hd) (f : FAM)
  /-- STB (R125). -/
  | stb (h : Hd) (f : FAM)
  /-- STH (R125). -/
  | sth (h : Hd) (f : FAM)
  /-- STW (R125). -/
  | stw (h : Hd) (f : FAM)
  /-- STD (R125). -/
  | std (h : Hd) (f : FAM)
  /-- VLD (R125). -/
  | vld (h : Hd) (f : FAM)
  /-- VST (R125). -/
  | vst (h : Hd) (f : FAM)
  /-- WLD (R125). -/
  | wld (h : Hd) (f : FAM)
  /-- WST (R125). -/
  | wst (h : Hd) (f : FAM)
  /-- AMOADD (R125). -/
  | amoadd (h : Hd) (sd : BitVec 5) (aa : BitVec 4) (sx : BitVec 5)
  /-- AMOSWAP (R125). -/
  | amoswap (h : Hd) (sd : BitVec 5) (aa : BitVec 4) (sx : BitVec 5)
  /-- AMOMAXU (R125). -/
  | amomaxu (h : Hd) (sd : BitVec 5) (aa : BitVec 4) (sx : BitVec 5)
  /-- AADDI (R125). -/
  | aaddi (h : Hd) (ad aa : BitVec 4) (imm : BitVec 38)
  /-- AADD (R125). -/
  | aadd (h : Hd) (ad aa : BitVec 4) (sx : BitVec 5)
  /-- AMOVS (R125). -/
  | amovs (h : Hd) (ad : BitVec 4) (sx : BitVec 5)
  /-- SMOVA (R125). -/
  | smova (h : Hd) (sd : BitVec 5) (aa : BitVec 4)
  /-- LOAD_RESPONSE (R117). -/
  | loadResponse (t : TileN) (k : Nat)
  /-- LRNOP (R126). -/
  | lrnop (h : Hd)
  /-- LRSTEP (R127). -/
  | lrstep (h : Hd) (f : FStep)
  /-- LRLOAD (R126). -/
  | lrload (h : Hd) (f : FLoad)
  /-- LRPREP (R126). -/
  | lrprep (h : Hd) (sa : BitVec 5)
  /-- LRDCFG (R126). -/
  | lrdcfg (h : Hd) (aa : BitVec 4)
  /-- LRCLOSE (R126). -/
  | lrclose (h : Hd) (park : Bool)
  /-- LRDRAIN (R126). -/
  | lrdrain (h : Hd) (set : Bool)
  /-- LRSUSP (R126). -/
  | lrsusp (h : Hd) (aa : BitVec 4)
  /-- LRREST (R126). -/
  | lrrest (h : Hd) (aa : BitVec 4)
  /-- LRSYNC (R126). -/
  | lrsync (h : Hd)
  /-- LR_QUEUE_DISPATCH (R78). -/
  | lrQueueDispatch (t : TileN)
  /-- SHADOW_LOAD_START (R76). -/
  | shadowLoadStart (t : TileN)
  /-- SHADOW_LOAD_COMPLETE (R76). -/
  | shadowLoadComplete (t : TileN)
  /-- DRAIN_START (R91). -/
  | drainStart (t : TileN)
  /-- HISTORY_APPEND_WAIT_END (R72). -/
  | historyAppendWaitEnd (t : TileN)
  /-- DRAIN_COMPLETE (R91). -/
  | drainComplete (t : TileN)
  /-- DRAIN_STOP (R92). -/
  | drainStop (t : TileN)
  /-- TIL_LR_SUSPEND_SUSPEND (R95). -/
  | tilLrSuspendSuspend (t : TileN)
  /-- SUSPEND_RECORD_WRITTEN (R95). -/
  | suspendRecordWritten (t : TileN)
  /-- TIL_LR_SUSPEND_RESTORE (R97). -/
  | tilLrSuspendRestore (t : TileN)
  /-- LANE_ROW_RESTORE_COMPLETE (R97). -/
  | laneRowRestoreComplete (t : TileN)
  /-- BALLAST_TAPER (R99). -/
  | ballastTaper (t : TileN)
  /-- VADD (R145). -/
  | vadd (h : Hd) (f : FV)
  /-- VSUB (R145). -/
  | vsub (h : Hd) (f : FV)
  /-- VMUL (R145). -/
  | vmul (h : Hd) (f : FV)
  /-- VFMA (R145). -/
  | vfma (h : Hd) (f : FV)
  /-- VMIN (R146). -/
  | vmin (h : Hd) (f : FV)
  /-- VMAX (R146). -/
  | vmax (h : Hd) (f : FV)
  /-- VABS (R146). -/
  | vabs (h : Hd) (f : FV)
  /-- VNEG (R146). -/
  | vneg (h : Hd) (f : FV)
  /-- VCMP (R146). -/
  | vcmp (h : Hd) (f : FV)
  /-- VSEL (R146). -/
  | vsel (h : Hd) (f : FV)
  /-- VCVT (R147). -/
  | vcvt (h : Hd) (f : FV)
  /-- VUNPK (R147). -/
  | vunpk (h : Hd) (f : FV)
  /-- VEXP2 (R156). -/
  | vexp2 (h : Hd) (f : FV)
  /-- VRCP (R150). -/
  | vrcp (h : Hd) (f : FV)
  /-- VRSQRT (R150). -/
  | vrsqrt (h : Hd) (f : FV)
  /-- VLOG2 (R150). -/
  | vlog2 (h : Hd) (f : FV)
  /-- VSIGM (R150). -/
  | vsigm (h : Hd) (f : FV)
  /-- VACC (R151). -/
  | vacc (h : Hd) (f : FV)
  /-- VACSQ (R151). -/
  | vacsq (h : Hd) (f : FV)
  /-- VACX (R151). -/
  | vacx (h : Hd) (f : FV)
  /-- VWRD (R148). -/
  | vwrd (h : Hd) (f : FV)
  /-- VWCLR (R151). -/
  | vwclr (h : Hd) (f : FV)
  /-- VMOMENT (R152). -/
  | vmoment (h : Hd) (f : FV)
  /-- VRNG (R155). -/
  | vrng (h : Hd) (f : FV)
  /-- VUPD (R149). -/
  | vupd (h : Hd) (f : FV)
  /-- VINS (R131). -/
  | vins (h : Hd) (d a : BitVec 5) (lane : BitVec 6)
  /-- VEXT (R131). -/
  | vext (h : Hd) (d a : BitVec 5) (lane : BitVec 6)
  /-- VSPLAT (R131). -/
  | vsplat (h : Hd) (d a : BitVec 5)
  /-- VMOV (R131). -/
  | vmov (h : Hd) (d a : BitVec 5)
  /-- PMOVS (R131). -/
  | pmovs (h : Hd) (d : BitVec 3) (a : BitVec 5)
  /-- SMOVP (R131). -/
  | smovp (h : Hd) (d : BitVec 5) (a : BitVec 3)
  /-- SHST (R218). -/
  | shst (h : Hd) (ch : BitVec 7) (aa : BitVec 4) (evt : Bool) (bit : BitVec 6)
  /-- SHSTAT (R131). -/
  | shstat (h : Hd) (d : BitVec 5) (ch : BitVec 7)
  /-- SHSTOP (R228). -/
  | shstop (h : Hd) (ch : BitVec 7)
  /-- FENCE (R132). -/
  | fence (h : Hd) (kind : BitVec 2)
  /-- SIG (R131). -/
  | sig (h : Hd) (a : BitVec 5) (bit : BitVec 6)
  /-- SIGH (R131). -/
  | sigh (h : Hd) (code : BitVec 16)
  /-- SIG_DELIVERY (R131). -/
  | sigDelivery (k : Nat)
  /-- WAIT_RELEASE (R133). -/
  | waitRelease (t : TileN)
  /-- LRSYNC_RELEASE (R126). -/
  | lrsyncRelease (t : TileN)
  /-- FENCE_RELEASE (R132). -/
  | fenceRelease (t : TileN)
  /-- END_COMPLETE (R123). -/
  | endComplete (t : TileN)
  /-- DEFERRED_EXCEPTION (R135). -/
  | deferredException (t : TileN)
  /-- CORE_RUN (R143). -/
  | coreRun (t : TileN)
  /-- CORE_HALT (R143). -/
  | coreHalt (t : TileN)
  /-- CORE_SAVE (R138). -/
  | coreSave (t : TileN)
  /-- CORE_RESTORE (R140). -/
  | coreRestore (t : TileN)
  /-- CORE_STEP (R143). -/
  | coreStep (t : TileN)
  /-- CONTEXT_SAVE_COMPLETE (R138). -/
  | contextSaveComplete (t : TileN)
  /-- CONTEXT_RESTORE_COMPLETE (R140). -/
  | contextRestoreComplete (t : TileN)
  /-- EXPRESS_SLAB_START (R180). -/
  | expressSlabStart (u : StationN)
  /-- EXPRESS_CHUNK_READ (R168). -/
  | expressChunkRead (u : StationN)
  /-- EXPRESS_PARTIAL_ARRIVAL (R168). -/
  | expressPartialArrival (k : Nat)
  /-- STATION_ACCESS (R186). -/
  | stationAccess (q : StReq) (ups : List Upset) (retries : Nat) (exhausted : Bool)
  /-- COW_PUSH_SEND (R205). -/
  | cowPushSend (n : StationN)
  /-- COW_DRAIN_SECTOR (R207). -/
  | cowDrainSector (n : StationN) (k : Fin 8)
  /-- COW_SWEEP (R207). -/
  | cowSweep (n : StationN) (k : Fin 8)
  /-- SCRUB_PASS_START (R197). -/
  | scrubPassStart (n : StationN)
  /-- SCRUB_KICK (R197). -/
  | scrubKick (n : StationN)
  /-- SCRUB_CODEWORD (R197). -/
  | scrubCodeword (n : StationN) (ups : List Upset)
  /-- GDDR7_REFRESH (R196). -/
  | gddr7Refresh (n : StationN) (d : Fin 4)
  /-- RETRAIN_PERIOD (R196). -/
  | retrainPeriod (n : StationN)
  /-- RETRAIN_REQ (R196). -/
  | retrainReq (n : StationN)
  /-- CONSUMED (R215). -/
  | consumed (n : StationN)
  /-- CXL_ACCESS (R211). -/
  | cxlAccess (q : StReq) (fault : Bool)
  /-- CXL_LINK_DOWN (R213). -/
  | cxlLinkDown (p : Fin 4) (lost : Nat)
  /-- SHN_START (R234). -/
  | shnStart (ch : ChanN)
  /-- SHN_START_CHAIN (R218). -/
  | shnStartChain (ch : ChanN)
  /-- SHN_STOP (R228). -/
  | shnStop (ch : ChanN)
  /-- SHN_RESUME (R229). -/
  | shnResume (ch : ChanN)
  /-- SHN_CLEAR (R229). -/
  | shnClear (ch : ChanN)
  /-- SHN_DESCRIPTOR_BEGIN (R221). -/
  | shnDescriptorBegin (ch : ChanN)
  /-- SHN_DESCRIPTOR_WRITES_ACCEPTED (R231). -/
  | shnDescriptorWritesAccepted (ch : ChanN)
  /-- SHN_READBACK_RETURN (R231). -/
  | shnReadbackReturn (ch : ChanN)
  /-- SHN_ERROR_STOP (R229). -/
  | shnErrorStop (ch : ChanN)
  /-- SHN_REMOTE_TIMEOUT (R229). -/
  | shnRemoteTimeout (ch : ChanN)
  /-- PORT_ENABLE (R249). -/
  | portEnable (p : PortN) (v : Bool)
  /-- PORT_RETRAIN (R257). -/
  | portRetrain (p : PortN)
  /-- CABLE_PRESENCE (R436). -/
  | cablePresence (p : PortN) (here : Bool)
  /-- CABLE_IDENTITY_READ (R247). -/
  | cableIdentityRead (p : PortN) (d : List Byte)
  /-- LANE_TRAINED (R249). -/
  | laneTrained (p : PortN) (good : BitVec 16) (nums : List (Fin 16))
  /-- ALIGN_LOCK (R249). -/
  | alignLock (p : PortN)
  /-- VERIFY_REPORT (R250). -/
  | verifyReport (p : PortN) (coord : BitVec 18) (role : BitVec 4) (letter : Bool) (good : BitVec 16) (degrade : Bool)
  /-- PING_TIMER (R251). -/
  | pingTimer (p : PortN)
  /-- TRAINING_TIMEOUT (R249). -/
  | trainingTimeout (p : PortN)
  /-- CODEWORD_DECODE (R246). -/
  | codewordDecode (p : PortN) (start : Bool) (syms : List (BitVec 10))
  /-- FRAME_CELL (R243). -/
  | frameCell (p : PortN)
  /-- FLOW (R244). -/
  | flow (p : PortN)
  /-- MARK (R254). -/
  | mark (p : PortN)
  /-- PING (R251). -/
  | ping (p : PortN)
  /-- ECHO_CELL (R251). -/
  | echoCell (p : PortN)
  /-- TUNE (R252). -/
  | tune (p : PortN)
  /-- TUNE_DONE (R244). -/
  | tuneDone (p : PortN)
  /-- TUNE_INTERVAL (R252). -/
  | tuneInterval (p : PortN) (lane : Fin 16) (tap : Fin 5) (action : BitVec 2)
  /-- NAP (R256). -/
  | nap (p : PortN)
  /-- NAP_ACK (R256). -/
  | napAck (p : PortN)
  /-- NAP_IDLE_EXPIRY (R256). -/
  | napIdleExpiry (p : PortN)
  /-- PORT_WAKE (R256). -/
  | portWake (p : PortN)
  /-- REPLAY_HOLDOFF_EXPIRY (R246). -/
  | replayHoldoffExpiry (p : PortN)
  /-- LINK_LOST (R257). -/
  | linkLost (p : PortN)
  /-- PACKET_RECEIVE (R264). -/
  | packetReceive (p : PortN)
  /-- PACKET_ROUTE (R270). -/
  | packetRoute (q : Fin 17) (v : Fin 6)
  /-- ESCAPE_WAIT_EXPIRY (R270). -/
  | escapeWaitExpiry (q : Fin 17) (v : Fin 6)
  /-- WR (R265). -/
  | wr
  /-- RD (R265). -/
  | rd
  /-- AMOADD_PACKET (R265). -/
  | amoaddPacket
  /-- AMOSWAP_PACKET (R265). -/
  | amoswapPacket
  /-- AMOMAXU_PACKET (R265). -/
  | amomaxuPacket
  /-- ACC (R293). -/
  | acc
  /-- ACCW (R291). -/
  | accw
  /-- MIR (R331). -/
  | mir
  /-- MGT_PACKET (R378). -/
  | mgtPacket
  /-- MAPREQ (R281). -/
  | mapreq
  /-- ECHO (R279). -/
  | echo
  /-- TAIL (R318). -/
  | tail (p : PortN)
  /-- TIME (R313). -/
  | time (p : PortN)
  /-- WRACK (R265). -/
  | wrack
  /-- RDATA (R265). -/
  | rdata
  /-- MIRACK (R332). -/
  | mirack
  /-- MGTACK (R378). -/
  | mgtack
  /-- TAG_RELEASE_TIMER (R450). -/
  | tagReleaseTimer (k : BitVec 12)
  /-- RATE_RECOVERY (R279). -/
  | rateRecovery (d : BitVec 18)
  /-- CONGESTION_SAMPLE (R280). -/
  | congestionSample
  /-- MAP_LATCH (R283). -/
  | mapLatch (clear : Bool)
  /-- STAMP_WRITE (R275). -/
  | stampWrite (v : Fin 2)
  /-- TIMETABLE_WRITE (R275). -/
  | timetableWrite (d : Fin 2) (e : Option (Fin 64)) (v m : U64)
  /-- COLL (R288). -/
  | coll (q : CmdSel)
  /-- COLLECTIVE_ZEROING_END (R288). -/
  | collectiveZeroingEnd (k : Fin 512)
  /-- CONTRIBUTION_SEND (R292). -/
  | contributionSend (k : Fin 512)
  /-- REPORT_RECEIVE (R299). -/
  | reportReceive (k : Fin 512)
  /-- REPLAY_COMMAND_COMPLETE (R300). -/
  | replayCommandComplete (k : Fin 512)
  /-- HOLD_EXPIRY (R302). -/
  | holdExpiry
  /-- COLLECTIVE_TIMEOUT (R303). -/
  | collectiveTimeout (k : Fin 512)
  /-- LIST_TICKET_DONE (R307). -/
  | listTicketDone (k : Fin 512)
  /-- RTIME_WRITE (R312). -/
  | rtimeWrite (v : U64)
  /-- TIME_EXCHANGE_TIMER (R313). -/
  | timeExchangeTimer
  /-- DISCIPLINE_TIMEOUT (R315). -/
  | disciplineTimeout
  /-- CUT_ORDER (R316). -/
  | cutOrder (id : BitVec 16)
  /-- CUT_POINT (R320). -/
  | cutPoint
  /-- TAIL_ORDER_TIMEOUT (R318). -/
  | tailOrderTimeout (p : PortN)
  /-- LOG_TIMEOUT (R325). -/
  | logTimeout
  /-- SNAPSHOT_PART_CONFIRM (R327). -/
  | snapshotPartConfirm (k : Fin 179) (ok : Bool)
  /-- CUT_ABANDON (R329). -/
  | cutAbandon
  /-- CUT_RESTORE (R336). -/
  | cutRestore
  /-- RESUME_TIME_REACHED (R336). -/
  | resumeTimeReached
  /-- MIRACK_TIMEOUT (R332). -/
  | mirackTimeout (k : BitVec 12)
  /-- RESYNC (R332). -/
  | resync
  /-- CHECK_SLOT_FILLED (R343). -/
  | checkSlotFilled (k : Fin 16)
  /-- CHECK_START (R344). -/
  | checkStart (k : Fin 16)
  /-- CHECK_COMPARE (R345). -/
  | checkCompare (k : Fin 16) (flips : List (Fin 2048 × L576))
  /-- CHECK_SLOT_TIMEOUT (R344). -/
  | checkSlotTimeout (k : Fin 16)
  /-- POSSESSION_TIMER (R347). -/
  | possessionTimer (d : Fin 2)
  /-- POSSESSION_START (R348). -/
  | possessionStart (d : Fin 2)
  /-- POSSESSION_TEST_END (R348). -/
  | possessionTestEnd (d : Fin 2) (pass : Bool) (stage : Byte) (trim : BitVec 5) (droop : Byte)
  /-- POSSESSION_RETURN (R348). -/
  | possessionReturn (d : Fin 2)
  /-- ITG_POSS_REQ (R349). -/
  | itgPossReq (t : Byte) (force calOnly : Bool)
  /-- TILE_FAIL (R352). -/
  | tileFail (t : TileN)
  /-- TILE_STOP_TIMEOUT (R352). -/
  | tileStopTimeout (t : TileN)
  /-- REPLAY_DONE (R361). -/
  | replayDone
  /-- RING_TAIL_WRITE (R366). -/
  | ringTailWrite (k : RingN) (v : BitVec 16)
  /-- COMMAND_FETCH (R366). -/
  | commandFetch (k : RingN) (entry : BitVec 1024)
  /-- RUN (R369). -/
  | run (q : CmdSel)
  /-- XVLOAD (R170). -/
  | xvload (q : CmdSel)
  /-- XMV (R171). -/
  | xmv (q : CmdSel)
  /-- ATTN (R158). -/
  | attn (q : CmdSel)
  /-- OPTSTEP (R372). -/
  | optstep (q : CmdSel)
  /-- SHUNT (R368). -/
  | shunt (q : CmdSel)
  /-- MGT (R378). -/
  | mgt (q : CmdSel)
  /-- MGT_TIMEOUT (R378). -/
  | mgtTimeout (k : BitVec 12)
  /-- RELEASE (R371). -/
  | release (q : CmdSel)
  /-- ATTACH_UPDATE (R401). -/
  | attachUpdate (k : RingN)
  /-- ATTACH_UPDATE_WRITE_DONE (R401). -/
  | attachUpdateWriteDone (back : Option (List Byte))
  /-- ATTACH_ATTEST (R399). -/
  | attachAttest (k : RingN)
  /-- MANAGEMENT_ORDER (R380). -/
  | managementOrder (ms : BitVec 4)
  /-- CQ_HEAD_WRITE (R374). -/
  | cqHeadWrite (k : RingN) (v : BitVec 16)
  /-- RING_ENABLE (R384). -/
  | ringEnable (k : RingN) (v : Bool)
  /-- RING_RESET (R381). -/
  | ringReset (k : RingN)
  /-- IDLE_RESET (R381). -/
  | idleReset
  /-- FUNCTION_RESET (R381). -/
  | functionReset (down : Bool)
  /-- BOARD_RESET (R381). -/
  | boardReset
  /-- BAR2_ACCESS (R364). -/
  | bar2Access (q : Bar2)
  /-- BOOT_START (R392). -/
  | bootStart
  /-- PCIE_LINK_UP (R392). -/
  | pcieLinkUp
  /-- BOOT_IMAGE_READ_DONE (R387). -/
  | bootImageReadDone (err : Bool)
  /-- BOOT_TILE_TEST_DONE (R393). -/
  | bootTileTestDone (bad : List TileN) (cal : List (TileN × BitVec 5 × Byte))
  /-- BOOT_TRAINING_DONE (R392). -/
  | bootTrainingDone (x : Trained)
  /-- RECOVERY_GO (R396). -/
  | recoveryGo (d : List Byte)
  /-- RECOVERY_DONE (R396). -/
  | recoveryDone
  /-- POWER_TICK (R413). -/
  | powerTick (x : Sensors)
  /-- SUPPLY_DROOP (R411). -/
  | supplyDroop (t : TileN)
  /-- DROOP_RECOVERY (R411). -/
  | droopRecovery (t : TileN)
  /-- ISLAND_SLEEP (R407). -/
  | islandSleep (x : Island)
  /-- ISLAND_WAKE (R407). -/
  | islandWake (x : Island)
  /-- ISLAND_WAKE_COMPLETE (R406). -/
  | islandWakeComplete (x : Island)
  /-- INPUT_RISE (R439). -/
  | inputRise
  /-- INPUT_LOSS (R439). -/
  | inputLoss (high : Bool)
  /-- VIN_LOW_TIMER (R446). -/
  | vinLowTimer
  /-- REFERENCE_LOSS (R440). -/
  | referenceLoss (k : Fin 3)
  /-- LEAK_DETECT (R442). -/
  | leakDetect
  /-- MGMT_BUS_READ (R445). -/
  | mgmtBusRead (o : BusAt) (n : Byte)
  /-- MGMT_BUS_WRITE (R445). -/
  | mgmtBusWrite (o : BusAt) (d : List Byte)
  /-- FREEZE_ALL (R423). -/
  | freezeAll
  /-- THAW_ALL (R423). -/
  | thawAll
  /-- BOX_FREEZE_WRITE (R423). -/
  | boxFreezeWrite (n : Fin 224) (v : Bool)
  /-- TRACE_ENABLE (R434). -/
  | traceEnable (d : Fin 2) (v : Bool)
  /-- FRAME_BOUNDARY (R241). -/
  | frameBoundary (p : PortN) (n : Nat)
  /-- SOFT_START_COMPLETE (R439). -/
  | softStartComplete
  /-- OVERVOLTAGE_RELEASE (R439). -/
  | overvoltageRelease
  /-- FIRMWARE_START_TIMEOUT (R396). -/
  | firmwareStartTimeout
  /-- DEVICE_STOPPED_RESPONDING (R215). -/
  | deviceStoppedResponding (n : StationN) (d : Fin 4)
deriving DecidableEq, Repr

end Sys2Proof
end

