-- ==== Sys2Proof/Machine/SlotWord.lean ====
section
/-! DEFINITION. Slot words of the tile core (R114, R115): the encoding of every slot instruction (R118, R119, R121, R124 to R126, R128, R129, R131), its decoding, and which instructions a slot may hold. -/

namespace Sys2Proof

/-! ### Opcodes -/

def SrOp.code : SrOp → BitVec 8
  | .add => 0x01 | .sub => 0x02 | .and => 0x03 | .or => 0x04 | .xor => 0x05 | .shl => 0x06 | .shr => 0x07 | .sra => 0x08
  | .min => 0x09 | .max => 0x0A | .minu => 0x0B | .maxu => 0x0C | .mul => 0x0D | .mulhs => 0x0E | .mulhu => 0x0F
  | .div => 0x10 | .divu => 0x11 | .rem => 0x12 | .remu => 0x13 | .clz => 0x14 | .ctz => 0x15 | .popc => 0x16

def srOps : List SrOp :=
  [.add, .sub, .and, .or, .xor, .shl, .shr, .sra, .min, .max, .minu, .maxu, .mul, .mulhs, .mulhu, .div, .divu, .rem, .remu, .clz, .ctz, .popc]

def SiOp.code : SiOp → BitVec 8
  | .addi => 0x21 | .subi => 0x22 | .andi => 0x23 | .ori => 0x24 | .xori => 0x25 | .shli => 0x26 | .shri => 0x27 | .srai => 0x28 | .muli => 0x2D

def siOps : List SiOp := [.addi, .subi, .andi, .ori, .xori, .shli, .shri, .srai, .muli]

/-- Opcode of a compare; its immediate form has 0x20 added. -/
def CmpOp.code : CmpOp → BitVec 8
  | .eq => 0x40 | .ne => 0x41 | .lt => 0x42 | .ltu => 0x43 | .le => 0x44 | .leu => 0x45

def cmpOps : List CmpOp := [.eq, .ne, .lt, .ltu, .le, .leu]

def PpOp.code : PpOp → BitVec 8
  | .pand => 0x48 | .por => 0x49 | .pxor => 0x4A | .pandn => 0x4B

def ppOps : List PpOp := [.pand, .por, .pxor, .pandn]

def LdOp.code : LdOp → BitVec 8
  | .ldb => 0x01 | .ldbu => 0x02 | .ldh => 0x03 | .ldhu => 0x04 | .ldw => 0x05 | .ldwu => 0x06 | .ldd => 0x07

def ldOps : List LdOp := [.ldb, .ldbu, .ldh, .ldhu, .ldw, .ldwu, .ldd]

def StOp.code : StOp → BitVec 8
  | .stb => 0x09 | .sth => 0x0A | .stw => 0x0B | .std => 0x0C

def stOps : List StOp := [.stb, .sth, .stw, .std]

def AmoOp.code : AmoOp → BitVec 8
  | .add => 0x18 | .swap => 0x19 | .maxu => 0x1A

def amoOps : List AmoOp := [.add, .swap, .maxu]

def VOp.code : VOp → BitVec 8
  | .vadd => 0x01 | .vsub => 0x02 | .vmul => 0x03 | .vfma => 0x04 | .vmin => 0x05 | .vmax => 0x06 | .vabs => 0x07 | .vneg => 0x08
  | .vcmp => 0x0A | .vsel => 0x0B | .vcvt => 0x10 | .vunpk => 0x11 | .vexp2 => 0x18 | .vrcp => 0x19 | .vrsqrt => 0x1A | .vlog2 => 0x1B
  | .vsigm => 0x1C | .vacc => 0x20 | .vacsq => 0x21 | .vacx => 0x22 | .vwrd => 0x23 | .vwclr => 0x24 | .vmoment => 0x25
  | .vrng => 0x28 | .vupd => 0x29

def vOps : List VOp :=
  [.vadd, .vsub, .vmul, .vfma, .vmin, .vmax, .vabs, .vneg, .vcmp, .vsel, .vcvt, .vunpk, .vexp2, .vrcp, .vrsqrt, .vlog2, .vsigm,
   .vacc, .vacsq, .vacx, .vwrd, .vwclr, .vmoment, .vrng, .vupd]

/-! ### Encoding -/

def b1 (b : Bool) : BitVec 1 := BitVec.ofBool b

/-- The 52 bits above the header, with the opcode. -/
def SlotOp.body : SlotOp → BitVec 8 × BitVec 52
  | .nop => (0x00, 0#52)
  | .sr o f => (o.code, 0#37 ++ f.sb ++ f.sa ++ f.sd)
  | .si o f => (o.code, f.imm ++ f.sa ++ f.sd)
  | .li sd i => (0x30, i ++ sd)
  | .lih sd i => (0x31, 0#30 ++ i ++ sd)
  | .cmp o f => (o.code, 0#37 ++ f.sb ++ f.sa ++ 0#2 ++ f.pd)
  | .cmpi o f => (o.code + 0x20, f.imm ++ f.sa ++ 0#2 ++ f.pd)
  | .pp o f => (o.code, 0#39 ++ f.pb ++ 0#2 ++ f.pa ++ 0#2 ++ f.pd)
  | .mfsr sd n => (0x50, 0#34 ++ n ++ 0#5 ++ sd)
  | .mtsr sa n => (0x51, 0#34 ++ n ++ sa ++ 0#5)
  | .jmp t => (0x01, 0#36 ++ t)
  | .call t sd => (0x02, 0#31 ++ sd ++ t)
  | .jmpr sa => (0x03, 0#31 ++ sa ++ 0#16)
  | .loop e sa => (0x04, 0#31 ++ sa ++ e)
  | .loopi e n => (0x05, 0#12 ++ n ++ 0#5 ++ e)
  | .lpop => (0x06, 0#52)
  | .wait sa => (0x08, 0#31 ++ sa ++ 0#16)
  | .evclr sa => (0x09, 0#31 ++ sa ++ 0#16)
  | .fin c => (0x0A, 0#36 ++ c)
  | .brk c => (0x0B, 0#36 ++ c)
  | .ld o f => (o.code, f.imm ++ 0#3 ++ f.sx ++ f.mode ++ f.aa ++ f.r)
  | .st o f => (o.code, f.imm ++ 0#3 ++ f.sx ++ f.mode ++ f.aa ++ f.r)
  | .vld f => (0x10, f.imm ++ 0#3 ++ f.sx ++ f.mode ++ f.aa ++ f.r)
  | .vst f => (0x11, f.imm ++ 0#3 ++ f.sx ++ f.mode ++ f.aa ++ f.r)
  | .wld f => (0x12, f.imm ++ 0#3 ++ f.sx ++ f.mode ++ f.aa ++ f.r)
  | .wst f => (0x13, f.imm ++ 0#3 ++ f.sx ++ f.mode ++ f.aa ++ f.r)
  | .amo o sd aa sx => (o.code, 0#33 ++ 0#3 ++ sx ++ 0#2 ++ aa ++ sd)
  | .aaddi ad aa i => (0x20, i ++ 0#5 ++ aa ++ 0#1 ++ ad)
  | .aadd ad aa sx => (0x21, 0#38 ++ sx ++ aa ++ 0#1 ++ ad)
  | .amovs ad sx => (0x22, 0#38 ++ sx ++ 0#4 ++ 0#1 ++ ad)
  | .smova sd aa => (0x23, 0#43 ++ aa ++ sd)
  | .lrnop => (0x00, 0#52)
  | .lrstep f => (0x01, 0#7 ++ b1 f.sinc ++ f.stride ++ b1 f.inc ++ b1 f.first ++ b1 f.negate ++ f.pb ++ f.floor ++ f.index ++ f.ac ++ f.aa)
  | .lrload f => (0x02, 0#35 ++ f.pa ++ f.o ++ b1 f.dir ++ f.fmt ++ f.ac ++ f.aa)
  | .lrprep sa => (0x03, 0#47 ++ sa)
  | .lrdcfg aa => (0x04, 0#48 ++ aa)
  | .lrclose p => (0x05, 0#51 ++ b1 p)
  | .lrdrain x => (0x06, 0#51 ++ b1 x)
  | .lrsusp aa => (0x07, 0#48 ++ aa)
  | .lrrest aa => (0x08, 0#48 ++ aa)
  | .lrsync => (0x09, 0#52)
  | .v o f => (o.code, 0#8 ++ f.imm ++ f.ctl ++ f.vc ++ f.vb ++ f.va ++ f.vd)
  | .vins d a l => (0x01, 0#31 ++ l ++ 0#5 ++ a ++ d)
  | .vext d a l => (0x02, 0#31 ++ l ++ 0#5 ++ a ++ d)
  | .vsplat d a => (0x03, 0#42 ++ a ++ d)
  | .vmov d a => (0x04, 0#42 ++ a ++ d)
  | .pmovs d a => (0x05, 0#42 ++ a ++ 0#2 ++ d)
  | .smovp d a => (0x06, 0#44 ++ a ++ d)
  | .shst c aa e b => (0x08, 0#34 ++ b ++ b1 e ++ aa ++ c)
  | .shstat d c => (0x09, 0#30 ++ c ++ 0#10 ++ d)
  | .shstop c => (0x0A, 0#45 ++ c)
  | .fence k => (0x10, 0#50 ++ k)
  | .sig a b => (0x11, 0#31 ++ b ++ 0#5 ++ a ++ 0#5)
  | .sigh c => (0x12, 0#36 ++ c)

/-- The 64-bit word of a slot. -/
def SlotIn.word (x : SlotIn) : U64 :=
  let (o, b) := x.op.body
  b ++ b1 x.pn ++ x.pg ++ o

/-! ### Which slot may hold what -/

/-- R119: the divisions are in slot 1 alone. -/
def SrOp.divs : SrOp → Bool
  | .div => true | .divu => true | .rem => true | .remu => true
  | .add => false | .sub => false | .and => false | .or => false | .xor => false | .shl => false | .shr => false | .sra => false
  | .min => false | .max => false | .minu => false | .maxu => false | .mul => false | .mulhs => false | .mulhu => false
  | .clz => false | .ctz => false | .popc => false

/-- R119: sb is 0. -/
def SrOp.oneSource : SrOp → Bool
  | .clz => true | .ctz => true | .popc => true
  | .add => false | .sub => false | .and => false | .or => false | .xor => false | .shl => false | .shr => false | .sra => false
  | .min => false | .max => false | .minu => false | .maxu => false | .mul => false | .mulhs => false | .mulhu => false
  | .div => false | .divu => false | .rem => false | .remu => false

/-- Slots an instruction may stand in (R114, R119). -/
def SlotOp.slots : SlotOp → List Nat
  | .nop => [0, 1, 2, 3, 4, 6, 7]
  | .sr o _ => if o.divs then [1] else [0, 1]
  | .si _ _ | .li _ _ | .lih _ _ | .cmp _ _ | .cmpi _ _ | .pp _ _ => [0, 1]
  | .mfsr _ _ | .mtsr _ _ => [0]
  | .jmp _ | .call _ _ | .jmpr _ | .loop _ _ | .loopi _ _ | .lpop | .wait _ | .evclr _ | .fin _ | .brk _ => [2]
  | .ld _ _ | .st _ _ | .vld _ | .vst _ | .wld _ | .wst _ | .amo _ _ _ _ | .aaddi _ _ _ | .aadd _ _ _ | .amovs _ _ | .smova _ _ => [3, 4]
  | .lrnop | .lrstep _ | .lrload _ | .lrprep _ | .lrdcfg _ | .lrclose _ | .lrdrain _ | .lrsusp _ | .lrrest _ | .lrsync => [5]
  | .v _ _ => [6]
  | .vins _ _ _ | .vext _ _ _ | .vsplat _ _ | .vmov _ _ | .pmovs _ _ | .smovp _ _ | .shst _ _ _ _ | .shstat _ _ | .shstop _ | .fence _
  | .sig _ _ | .sigh _ => [7]

/-- A register field that names a Leroth row holds it in its low 2 bits (R128). -/
def rowField (x : BitVec 5) : Bool := x.extractLsb' 2 3 == 0#3

/-- Fields of a memory access are well formed (R124). -/
def FAM.wf (f : FAM) : Bool := f.mode != 3#2 || f.imm == 0#33

/-- Reserved field values (R115, R119, R124, R128, R131). Outside mode 3 sx may hold any value, and the bits [16:14] of WLD and WST must be 0, as the spec does not say of either whether it is reserved (DESIGN CHOICE, log entry 95). -/
def SlotOp.wf : SlotOp → Bool
  | .sr o f => !o.oneSource || f.sb == 0#5
  | .ld _ f | .st _ f | .vld f | .vst f => f.wf
  | .wld f | .wst f => f.wf && rowField f.r
  | .v o f =>
    (match o with
     | .vacc => rowField f.vd
     | .vacsq => rowField f.vd
     | .vacx => rowField f.vd
     | .vwclr => rowField f.vd
     | .vwrd => rowField f.va
     | .vmoment => rowField f.va && rowField f.vb
     | _ => true)
  | .fence k => k != 3#2
  | .nop | .si _ _ | .li _ _ | .lih _ _ | .cmp _ _ | .cmpi _ _ | .pp _ _ | .mfsr _ _ | .mtsr _ _ | .jmp _ | .call _ _ | .jmpr _
  | .loop _ _ | .loopi _ _ | .lpop | .wait _ | .evclr _ | .fin _ | .brk _ | .amo _ _ _ _ | .aaddi _ _ _ | .aadd _ _ _ | .amovs _ _
  | .smova _ _ | .lrnop | .lrstep _ | .lrload _ | .lrprep _ | .lrdcfg _ | .lrclose _ | .lrdrain _ | .lrsusp _ | .lrrest _ | .lrsync
  | .vins _ _ _ | .vext _ _ _ | .vsplat _ _ | .vmov _ _ | .pmovs _ _ | .smovp _ _ | .shst _ _ _ _ | .shstat _ _ | .shstop _
  | .sig _ _ | .sigh _ => true

/-- A slot that decodes: the instruction is listed for the slot and no reserved field is nonzero (R115). -/
def SlotIn.wf (x : SlotIn) : Bool := x.op.slots.contains x.k && x.op.wf

/-! ### Decoding -/

/-- Bits [lo + n - 1 : lo] of a slot word. -/
def fld (w : U64) (lo n : Nat) : BitVec n := w.extractLsb' lo n

/-- Bits from `lo` up are 0. -/
def topZero (w : U64) (lo : Nat) : Bool := decide (w.toNat < 2 ^ lo)

/-- `x` where `c` holds. -/
def given (c : Bool) (x : SlotOp) : Option SlotOp := if c then some x else none

/-- The scalar slot (R118). The field sa of MFSR, which reads no scalar register, may hold any value (DESIGN CHOICE, log entry 95). -/
def scalarOf (o : BitVec 8) (w : U64) : Option SlotOp :=
  match srOps.find? (fun p => p.code == o), siOps.find? (fun p => p.code == o), cmpOps.find? (fun p => p.code == o),
    cmpOps.find? (fun p => p.code + 0x20 == o), ppOps.find? (fun p => p.code == o) with
  | some p, _, _, _, _ => given (topZero w 27) (.sr p ⟨fld w 12 5, fld w 17 5, fld w 22 5⟩)
  | _, some p, _, _, _ => some (.si p ⟨fld w 12 5, fld w 17 5, fld w 22 42⟩)
  | _, _, some p, _, _ => given (topZero w 27 && fld w 15 2 == 0#2) (.cmp p ⟨fld w 12 3, fld w 17 5, fld w 22 5⟩)
  | _, _, _, some p, _ => given (fld w 15 2 == 0#2) (.cmpi p ⟨fld w 12 3, fld w 17 5, fld w 22 42⟩)
  | _, _, _, _, some p => given (topZero w 25 && fld w 15 2 == 0#2 && fld w 20 2 == 0#2) (.pp p ⟨fld w 12 3, fld w 17 3, fld w 22 3⟩)
  | _, _, _, _, _ =>
    if o = 0x30 then some (.li (fld w 12 5) (fld w 17 47))
    else if o = 0x31 then given (topZero w 34) (.lih (fld w 12 5) (fld w 17 17))
    else if o = 0x50 then given (topZero w 30) (.mfsr (fld w 12 5) (fld w 22 8))
    else if o = 0x51 then given (topZero w 30 && fld w 12 5 == 0#5) (.mtsr (fld w 17 5) (fld w 22 8))
    else none

def branchOf (o : BitVec 8) (w : U64) : Option SlotOp :=
  let t := fld w 12 16
  let r := fld w 28 5
  let t0 := t == 0#16
  if o = 0x01 then given (topZero w 28) (.jmp t)
  else if o = 0x02 then given (topZero w 33) (.call t r)
  else if o = 0x03 then given (topZero w 33 && t0) (.jmpr r)
  else if o = 0x04 then given (topZero w 33) (.loop t r)
  else if o = 0x05 then given (topZero w 52 && r == 0#5) (.loopi t (fld w 33 19))
  else if o = 0x06 then given (topZero w 12) .lpop
  else if o = 0x08 then given (topZero w 33 && t0) (.wait r)
  else if o = 0x09 then given (topZero w 33 && t0) (.evclr r)
  else if o = 0x0A then given (topZero w 28) (.fin t)
  else if o = 0x0B then given (topZero w 28) (.brk t)
  else none

/-- The memory format (R124). -/
def amOf (w : U64) : FAM := ⟨fld w 12 5, fld w 17 4, fld w 21 2, fld w 23 5, fld w 31 33⟩

def addressOf (o : BitVec 8) (w : U64) : Option SlotOp :=
  let z := fld w 28 3 == 0#3
  match ldOps.find? (fun p => p.code == o), stOps.find? (fun p => p.code == o), amoOps.find? (fun p => p.code == o) with
  | some p, _, _ => given z (.ld p (amOf w))
  | _, some p, _ => given z (.st p (amOf w))
  | _, _, some p => given (topZero w 28 && fld w 21 2 == 0#2) (.amo p (fld w 12 5) (fld w 17 4) (fld w 23 5))
  | _, _, _ =>
    if o = 0x10 then given z (.vld (amOf w))
    else if o = 0x11 then given z (.vst (amOf w))
    else if o = 0x12 then given z (.wld (amOf w))
    else if o = 0x13 then given z (.wst (amOf w))
    else if o = 0x20 then given (fld w 16 1 == 0#1 && fld w 21 5 == 0#5) (.aaddi (fld w 12 4) (fld w 17 4) (fld w 26 38))
    else if o = 0x21 then given (fld w 16 1 == 0#1 && topZero w 26) (.aadd (fld w 12 4) (fld w 17 4) (fld w 21 5))
    else if o = 0x22 then given (fld w 16 1 == 0#1 && topZero w 26 && fld w 17 4 == 0#4) (.amovs (fld w 12 4) (fld w 21 5))
    else if o = 0x23 then given (topZero w 21) (.smova (fld w 12 5) (fld w 17 4))
    else none

def laneOf (o : BitVec 8) (w : U64) : Option SlotOp :=
  let bb := fun (i : Nat) => w.getLsbD i
  if o = 0x00 then given (topZero w 12) .lrnop
  else if o = 0x01 then given (topZero w 57)
    (.lrstep ⟨fld w 12 4, fld w 16 4, fld w 20 5, fld w 25 10, fld w 35 2, bb 37, bb 38, bb 39, fld w 40 16, bb 56⟩)
  else if o = 0x02 then given (topZero w 29) (.lrload ⟨fld w 12 4, fld w 16 4, fld w 20 4, bb 24, fld w 25 2, fld w 27 2⟩)
  else if o = 0x03 then given (topZero w 17) (.lrprep (fld w 12 5))
  else if o = 0x04 then given (topZero w 16) (.lrdcfg (fld w 12 4))
  else if o = 0x05 then given (topZero w 13) (.lrclose (bb 12))
  else if o = 0x06 then given (topZero w 13) (.lrdrain (bb 12))
  else if o = 0x07 then given (topZero w 16) (.lrsusp (fld w 12 4))
  else if o = 0x08 then given (topZero w 16) (.lrrest (fld w 12 4))
  else if o = 0x09 then given (topZero w 12) .lrsync
  else none

/-- The vector slot; the fields of format V that an instruction does not use are not read, for R128 reserves none of them (DESIGN CHOICE, log entry 93). -/
def vectorOf (o : BitVec 8) (w : U64) : Option SlotOp :=
  match vOps.find? fun p => p.code == o with
  | some p => given (topZero w 56) (.v p ⟨fld w 12 5, fld w 17 5, fld w 22 5, fld w 27 5, fld w 32 16, fld w 48 8⟩)
  | none => none

/-- The move/shunt slot (R131); the fields d, a and b of format M that an instruction does not use are not read, for R131 reserves none of them (DESIGN CHOICE, log entry 95). -/
def moveOf (o : BitVec 8) (w : U64) : Option SlotOp :=
  let d := fld w 12 5
  let a := fld w 17 5
  let z := topZero w 27
  if o = 0x01 then given (topZero w 33) (.vins d a (fld w 27 6))
  else if o = 0x02 then given (topZero w 33) (.vext d a (fld w 27 6))
  else if o = 0x03 then given z (.vsplat d a)
  else if o = 0x04 then given z (.vmov d a)
  else if o = 0x05 then given z (.pmovs (fld w 12 3) a)
  else if o = 0x06 then given z (.smovp d (fld w 17 3))
  else if o = 0x08 then given (topZero w 30) (.shst (fld w 12 7) (fld w 19 4) (w.getLsbD 23) (fld w 24 6))
  else if o = 0x09 then given (topZero w 34) (.shstat d (fld w 27 7))
  else if o = 0x0A then given (topZero w 19) (.shstop (fld w 12 7))
  else if o = 0x10 then given (topZero w 14) (.fence (fld w 12 2))
  else if o = 0x11 then given (topZero w 33) (.sig a (fld w 27 6))
  else if o = 0x12 then given (topZero w 28) (.sigh (fld w 12 16))
  else none

/-- The instruction that word `w` spells in slot `k`; none where R115 raises illegal-instruction. -/
def decodeSlot (k : Nat) (w : U64) : Option SlotIn :=
  let o := fld w 0 8
  let op := if o = 0#8 && k != 5 then given (topZero w 12) .nop else
    match k with
    | 0 => scalarOf o w
    | 1 => scalarOf o w
    | 2 => branchOf o w
    | 3 => addressOf o w
    | 4 => addressOf o w
    | 5 => laneOf o w
    | 6 => vectorOf o w
    | 7 => moveOf o w
    | _ => none
  match op with
  | none => none
  | some p => let x : SlotIn := ⟨k, fld w 8 3, w.getLsbD 11, p⟩
              if x.wf then some x else none

end Sys2Proof
end

