-- ==== Sys2Proof/WellFormed.lean ====
section
/-! DEFINITION. Well-formed commands: a slot instruction stands where its slot admits it with no reserved field set (R115), and what an event carries has the length the spec gives it. -/

namespace Sys2Proof

/-! ### Slot instructions -/

/-- The tile and the slot that a slot instruction stands for. -/
def slotOf : Instr → Option (Nat × SlotIn)
  | .registerWrite _ _ => none
  | .nop h k => some (h.t.val, ⟨k.val, h.pg, h.pn, if k = 5 then .lrnop else .nop⟩)
  | .add h f => some (h.t.val, ⟨(if h.b then 1 else 0), h.pg, h.pn, .sr .add f⟩)
  | .sub h f => some (h.t.val, ⟨(if h.b then 1 else 0), h.pg, h.pn, .sr .sub f⟩)
  | .and h f => some (h.t.val, ⟨(if h.b then 1 else 0), h.pg, h.pn, .sr .and f⟩)
  | .or h f => some (h.t.val, ⟨(if h.b then 1 else 0), h.pg, h.pn, .sr .or f⟩)
  | .xor h f => some (h.t.val, ⟨(if h.b then 1 else 0), h.pg, h.pn, .sr .xor f⟩)
  | .shl h f => some (h.t.val, ⟨(if h.b then 1 else 0), h.pg, h.pn, .sr .shl f⟩)
  | .shr h f => some (h.t.val, ⟨(if h.b then 1 else 0), h.pg, h.pn, .sr .shr f⟩)
  | .sra h f => some (h.t.val, ⟨(if h.b then 1 else 0), h.pg, h.pn, .sr .sra f⟩)
  | .min h f => some (h.t.val, ⟨(if h.b then 1 else 0), h.pg, h.pn, .sr .min f⟩)
  | .max h f => some (h.t.val, ⟨(if h.b then 1 else 0), h.pg, h.pn, .sr .max f⟩)
  | .minu h f => some (h.t.val, ⟨(if h.b then 1 else 0), h.pg, h.pn, .sr .minu f⟩)
  | .maxu h f => some (h.t.val, ⟨(if h.b then 1 else 0), h.pg, h.pn, .sr .maxu f⟩)
  | .mul h f => some (h.t.val, ⟨(if h.b then 1 else 0), h.pg, h.pn, .sr .mul f⟩)
  | .mulhs h f => some (h.t.val, ⟨(if h.b then 1 else 0), h.pg, h.pn, .sr .mulhs f⟩)
  | .mulhu h f => some (h.t.val, ⟨(if h.b then 1 else 0), h.pg, h.pn, .sr .mulhu f⟩)
  | .div h f => some (h.t.val, ⟨1, h.pg, h.pn, .sr .div f⟩)
  | .divu h f => some (h.t.val, ⟨1, h.pg, h.pn, .sr .divu f⟩)
  | .rem h f => some (h.t.val, ⟨1, h.pg, h.pn, .sr .rem f⟩)
  | .remu h f => some (h.t.val, ⟨1, h.pg, h.pn, .sr .remu f⟩)
  | .clz h f => some (h.t.val, ⟨(if h.b then 1 else 0), h.pg, h.pn, .sr .clz f⟩)
  | .ctz h f => some (h.t.val, ⟨(if h.b then 1 else 0), h.pg, h.pn, .sr .ctz f⟩)
  | .popc h f => some (h.t.val, ⟨(if h.b then 1 else 0), h.pg, h.pn, .sr .popc f⟩)
  | .addi h f => some (h.t.val, ⟨(if h.b then 1 else 0), h.pg, h.pn, .si .addi f⟩)
  | .subi h f => some (h.t.val, ⟨(if h.b then 1 else 0), h.pg, h.pn, .si .subi f⟩)
  | .andi h f => some (h.t.val, ⟨(if h.b then 1 else 0), h.pg, h.pn, .si .andi f⟩)
  | .ori h f => some (h.t.val, ⟨(if h.b then 1 else 0), h.pg, h.pn, .si .ori f⟩)
  | .xori h f => some (h.t.val, ⟨(if h.b then 1 else 0), h.pg, h.pn, .si .xori f⟩)
  | .shli h f => some (h.t.val, ⟨(if h.b then 1 else 0), h.pg, h.pn, .si .shli f⟩)
  | .shri h f => some (h.t.val, ⟨(if h.b then 1 else 0), h.pg, h.pn, .si .shri f⟩)
  | .srai h f => some (h.t.val, ⟨(if h.b then 1 else 0), h.pg, h.pn, .si .srai f⟩)
  | .muli h f => some (h.t.val, ⟨(if h.b then 1 else 0), h.pg, h.pn, .si .muli f⟩)
  | .li h sd imm => some (h.t.val, ⟨(if h.b then 1 else 0), h.pg, h.pn, .li sd imm⟩)
  | .lih h sd imm => some (h.t.val, ⟨(if h.b then 1 else 0), h.pg, h.pn, .lih sd imm⟩)
  | .cmpeq h f => some (h.t.val, ⟨(if h.b then 1 else 0), h.pg, h.pn, .cmp .eq f⟩)
  | .cmpne h f => some (h.t.val, ⟨(if h.b then 1 else 0), h.pg, h.pn, .cmp .ne f⟩)
  | .cmplt h f => some (h.t.val, ⟨(if h.b then 1 else 0), h.pg, h.pn, .cmp .lt f⟩)
  | .cmpltu h f => some (h.t.val, ⟨(if h.b then 1 else 0), h.pg, h.pn, .cmp .ltu f⟩)
  | .cmple h f => some (h.t.val, ⟨(if h.b then 1 else 0), h.pg, h.pn, .cmp .le f⟩)
  | .cmpleu h f => some (h.t.val, ⟨(if h.b then 1 else 0), h.pg, h.pn, .cmp .leu f⟩)
  | .cmpeqi h f => some (h.t.val, ⟨(if h.b then 1 else 0), h.pg, h.pn, .cmpi .eq f⟩)
  | .cmpnei h f => some (h.t.val, ⟨(if h.b then 1 else 0), h.pg, h.pn, .cmpi .ne f⟩)
  | .cmplti h f => some (h.t.val, ⟨(if h.b then 1 else 0), h.pg, h.pn, .cmpi .lt f⟩)
  | .cmpltui h f => some (h.t.val, ⟨(if h.b then 1 else 0), h.pg, h.pn, .cmpi .ltu f⟩)
  | .cmplei h f => some (h.t.val, ⟨(if h.b then 1 else 0), h.pg, h.pn, .cmpi .le f⟩)
  | .cmpleui h f => some (h.t.val, ⟨(if h.b then 1 else 0), h.pg, h.pn, .cmpi .leu f⟩)
  | .pand h f => some (h.t.val, ⟨(if h.b then 1 else 0), h.pg, h.pn, .pp .pand f⟩)
  | .por h f => some (h.t.val, ⟨(if h.b then 1 else 0), h.pg, h.pn, .pp .por f⟩)
  | .pxor h f => some (h.t.val, ⟨(if h.b then 1 else 0), h.pg, h.pn, .pp .pxor f⟩)
  | .pandn h f => some (h.t.val, ⟨(if h.b then 1 else 0), h.pg, h.pn, .pp .pandn f⟩)
  | .mfsr h sd num => some (h.t.val, ⟨0, h.pg, h.pn, .mfsr sd num⟩)
  | .mtsr h sa num => some (h.t.val, ⟨0, h.pg, h.pn, .mtsr sa num⟩)
  | .jmp h target => some (h.t.val, ⟨2, h.pg, h.pn, .jmp target⟩)
  | .call h target sd => some (h.t.val, ⟨2, h.pg, h.pn, .call target sd⟩)
  | .jmpr h sa => some (h.t.val, ⟨2, h.pg, h.pn, .jmpr sa⟩)
  | .loop h fin sa => some (h.t.val, ⟨2, h.pg, h.pn, .loop fin sa⟩)
  | .loopi h fin count => some (h.t.val, ⟨2, h.pg, h.pn, .loopi fin count⟩)
  | .lpop h => some (h.t.val, ⟨2, h.pg, h.pn, .lpop⟩)
  | .wait h sa => some (h.t.val, ⟨2, h.pg, h.pn, .wait sa⟩)
  | .evclr h sa => some (h.t.val, ⟨2, h.pg, h.pn, .evclr sa⟩)
  | .endProgram h code => some (h.t.val, ⟨2, h.pg, h.pn, .fin code⟩)
  | .brk h code => some (h.t.val, ⟨2, h.pg, h.pn, .brk code⟩)
  | .ldb h f => some (h.t.val, ⟨(if h.b then 4 else 3), h.pg, h.pn, .ld .ldb f⟩)
  | .ldbu h f => some (h.t.val, ⟨(if h.b then 4 else 3), h.pg, h.pn, .ld .ldbu f⟩)
  | .ldh h f => some (h.t.val, ⟨(if h.b then 4 else 3), h.pg, h.pn, .ld .ldh f⟩)
  | .ldhu h f => some (h.t.val, ⟨(if h.b then 4 else 3), h.pg, h.pn, .ld .ldhu f⟩)
  | .ldw h f => some (h.t.val, ⟨(if h.b then 4 else 3), h.pg, h.pn, .ld .ldw f⟩)
  | .ldwu h f => some (h.t.val, ⟨(if h.b then 4 else 3), h.pg, h.pn, .ld .ldwu f⟩)
  | .ldd h f => some (h.t.val, ⟨(if h.b then 4 else 3), h.pg, h.pn, .ld .ldd f⟩)
  | .stb h f => some (h.t.val, ⟨(if h.b then 4 else 3), h.pg, h.pn, .st .stb f⟩)
  | .sth h f => some (h.t.val, ⟨(if h.b then 4 else 3), h.pg, h.pn, .st .sth f⟩)
  | .stw h f => some (h.t.val, ⟨(if h.b then 4 else 3), h.pg, h.pn, .st .stw f⟩)
  | .std h f => some (h.t.val, ⟨(if h.b then 4 else 3), h.pg, h.pn, .st .std f⟩)
  | .vld h f => some (h.t.val, ⟨(if h.b then 4 else 3), h.pg, h.pn, .vld f⟩)
  | .vst h f => some (h.t.val, ⟨(if h.b then 4 else 3), h.pg, h.pn, .vst f⟩)
  | .wld h f => some (h.t.val, ⟨(if h.b then 4 else 3), h.pg, h.pn, .wld f⟩)
  | .wst h f => some (h.t.val, ⟨(if h.b then 4 else 3), h.pg, h.pn, .wst f⟩)
  | .amoadd h sd aa sx => some (h.t.val, ⟨(if h.b then 4 else 3), h.pg, h.pn, .amo .add sd aa sx⟩)
  | .amoswap h sd aa sx => some (h.t.val, ⟨(if h.b then 4 else 3), h.pg, h.pn, .amo .swap sd aa sx⟩)
  | .amomaxu h sd aa sx => some (h.t.val, ⟨(if h.b then 4 else 3), h.pg, h.pn, .amo .maxu sd aa sx⟩)
  | .aaddi h ad aa imm => some (h.t.val, ⟨(if h.b then 4 else 3), h.pg, h.pn, .aaddi ad aa imm⟩)
  | .aadd h ad aa sx => some (h.t.val, ⟨(if h.b then 4 else 3), h.pg, h.pn, .aadd ad aa sx⟩)
  | .amovs h ad sx => some (h.t.val, ⟨(if h.b then 4 else 3), h.pg, h.pn, .amovs ad sx⟩)
  | .smova h sd aa => some (h.t.val, ⟨(if h.b then 4 else 3), h.pg, h.pn, .smova sd aa⟩)
  | .loadResponse _ _ => none
  | .lrnop h => some (h.t.val, ⟨5, h.pg, h.pn, .lrnop⟩)
  | .lrstep h f => some (h.t.val, ⟨5, h.pg, h.pn, .lrstep f⟩)
  | .lrload h f => some (h.t.val, ⟨5, h.pg, h.pn, .lrload f⟩)
  | .lrprep h sa => some (h.t.val, ⟨5, h.pg, h.pn, .lrprep sa⟩)
  | .lrdcfg h aa => some (h.t.val, ⟨5, h.pg, h.pn, .lrdcfg aa⟩)
  | .lrclose h park => some (h.t.val, ⟨5, h.pg, h.pn, .lrclose park⟩)
  | .lrdrain h set => some (h.t.val, ⟨5, h.pg, h.pn, .lrdrain set⟩)
  | .lrsusp h aa => some (h.t.val, ⟨5, h.pg, h.pn, .lrsusp aa⟩)
  | .lrrest h aa => some (h.t.val, ⟨5, h.pg, h.pn, .lrrest aa⟩)
  | .lrsync h => some (h.t.val, ⟨5, h.pg, h.pn, .lrsync⟩)
  | .lrQueueDispatch _ => none
  | .shadowLoadStart _ => none
  | .shadowLoadComplete _ => none
  | .drainStart _ => none
  | .historyAppendWaitEnd _ => none
  | .drainComplete _ => none
  | .drainStop _ => none
  | .tilLrSuspendSuspend _ => none
  | .suspendRecordWritten _ => none
  | .tilLrSuspendRestore _ => none
  | .laneRowRestoreComplete _ => none
  | .ballastTaper _ => none
  | .vadd h f => some (h.t.val, ⟨6, h.pg, h.pn, .v .vadd f⟩)
  | .vsub h f => some (h.t.val, ⟨6, h.pg, h.pn, .v .vsub f⟩)
  | .vmul h f => some (h.t.val, ⟨6, h.pg, h.pn, .v .vmul f⟩)
  | .vfma h f => some (h.t.val, ⟨6, h.pg, h.pn, .v .vfma f⟩)
  | .vmin h f => some (h.t.val, ⟨6, h.pg, h.pn, .v .vmin f⟩)
  | .vmax h f => some (h.t.val, ⟨6, h.pg, h.pn, .v .vmax f⟩)
  | .vabs h f => some (h.t.val, ⟨6, h.pg, h.pn, .v .vabs f⟩)
  | .vneg h f => some (h.t.val, ⟨6, h.pg, h.pn, .v .vneg f⟩)
  | .vcmp h f => some (h.t.val, ⟨6, h.pg, h.pn, .v .vcmp f⟩)
  | .vsel h f => some (h.t.val, ⟨6, h.pg, h.pn, .v .vsel f⟩)
  | .vcvt h f => some (h.t.val, ⟨6, h.pg, h.pn, .v .vcvt f⟩)
  | .vunpk h f => some (h.t.val, ⟨6, h.pg, h.pn, .v .vunpk f⟩)
  | .vexp2 h f => some (h.t.val, ⟨6, h.pg, h.pn, .v .vexp2 f⟩)
  | .vrcp h f => some (h.t.val, ⟨6, h.pg, h.pn, .v .vrcp f⟩)
  | .vrsqrt h f => some (h.t.val, ⟨6, h.pg, h.pn, .v .vrsqrt f⟩)
  | .vlog2 h f => some (h.t.val, ⟨6, h.pg, h.pn, .v .vlog2 f⟩)
  | .vsigm h f => some (h.t.val, ⟨6, h.pg, h.pn, .v .vsigm f⟩)
  | .vacc h f => some (h.t.val, ⟨6, h.pg, h.pn, .v .vacc f⟩)
  | .vacsq h f => some (h.t.val, ⟨6, h.pg, h.pn, .v .vacsq f⟩)
  | .vacx h f => some (h.t.val, ⟨6, h.pg, h.pn, .v .vacx f⟩)
  | .vwrd h f => some (h.t.val, ⟨6, h.pg, h.pn, .v .vwrd f⟩)
  | .vwclr h f => some (h.t.val, ⟨6, h.pg, h.pn, .v .vwclr f⟩)
  | .vmoment h f => some (h.t.val, ⟨6, h.pg, h.pn, .v .vmoment f⟩)
  | .vrng h f => some (h.t.val, ⟨6, h.pg, h.pn, .v .vrng f⟩)
  | .vupd h f => some (h.t.val, ⟨6, h.pg, h.pn, .v .vupd f⟩)
  | .vins h d a lane => some (h.t.val, ⟨7, h.pg, h.pn, .vins d a lane⟩)
  | .vext h d a lane => some (h.t.val, ⟨7, h.pg, h.pn, .vext d a lane⟩)
  | .vsplat h d a => some (h.t.val, ⟨7, h.pg, h.pn, .vsplat d a⟩)
  | .vmov h d a => some (h.t.val, ⟨7, h.pg, h.pn, .vmov d a⟩)
  | .pmovs h d a => some (h.t.val, ⟨7, h.pg, h.pn, .pmovs d a⟩)
  | .smovp h d a => some (h.t.val, ⟨7, h.pg, h.pn, .smovp d a⟩)
  | .shst h ch aa evt bit => some (h.t.val, ⟨7, h.pg, h.pn, .shst ch aa evt bit⟩)
  | .shstat h d ch => some (h.t.val, ⟨7, h.pg, h.pn, .shstat d ch⟩)
  | .shstop h ch => some (h.t.val, ⟨7, h.pg, h.pn, .shstop ch⟩)
  | .fence h kind => some (h.t.val, ⟨7, h.pg, h.pn, .fence kind⟩)
  | .sig h a bit => some (h.t.val, ⟨7, h.pg, h.pn, .sig a bit⟩)
  | .sigh h code => some (h.t.val, ⟨7, h.pg, h.pn, .sigh code⟩)
  | .sigDelivery _ => none
  | .waitRelease _ => none
  | .lrsyncRelease _ => none
  | .fenceRelease _ => none
  | .endComplete _ => none
  | .deferredException _ => none
  | .coreRun _ => none
  | .coreHalt _ => none
  | .coreSave _ => none
  | .coreRestore _ => none
  | .coreStep _ => none
  | .contextSaveComplete _ => none
  | .contextRestoreComplete _ => none
  | .expressSlabStart _ => none
  | .expressChunkRead _ => none
  | .expressPartialArrival _ => none
  | .stationAccess _ _ _ _ => none
  | .cowPushSend _ => none
  | .cowDrainSector _ _ => none
  | .cowSweep _ _ => none
  | .scrubPassStart _ => none
  | .scrubKick _ => none
  | .scrubCodeword _ _ => none
  | .gddr7Refresh _ _ => none
  | .retrainPeriod _ => none
  | .retrainReq _ => none
  | .consumed _ => none
  | .cxlAccess _ _ => none
  | .cxlLinkDown _ _ => none
  | .shnStart _ => none
  | .shnStartChain _ => none
  | .shnStop _ => none
  | .shnResume _ => none
  | .shnClear _ => none
  | .shnDescriptorBegin _ => none
  | .shnDescriptorWritesAccepted _ => none
  | .shnReadbackReturn _ => none
  | .shnErrorStop _ => none
  | .shnRemoteTimeout _ => none
  | .portEnable _ _ => none
  | .portRetrain _ => none
  | .cablePresence _ _ => none
  | .cableIdentityRead _ _ => none
  | .laneTrained _ _ _ => none
  | .alignLock _ => none
  | .verifyReport _ _ _ _ _ _ => none
  | .pingTimer _ => none
  | .trainingTimeout _ => none
  | .codewordDecode _ _ _ => none
  | .frameCell _ => none
  | .flow _ => none
  | .mark _ => none
  | .ping _ => none
  | .echoCell _ => none
  | .tune _ => none
  | .tuneDone _ => none
  | .tuneInterval _ _ _ _ => none
  | .nap _ => none
  | .napAck _ => none
  | .napIdleExpiry _ => none
  | .portWake _ => none
  | .replayHoldoffExpiry _ => none
  | .linkLost _ => none
  | .packetReceive _ => none
  | .packetRoute _ _ => none
  | .escapeWaitExpiry _ _ => none
  | .wr => none
  | .rd => none
  | .amoaddPacket => none
  | .amoswapPacket => none
  | .amomaxuPacket => none
  | .acc => none
  | .accw => none
  | .mir => none
  | .mgtPacket => none
  | .mapreq => none
  | .echo => none
  | .tail _ => none
  | .time _ => none
  | .wrack => none
  | .rdata => none
  | .mirack => none
  | .mgtack => none
  | .tagReleaseTimer _ => none
  | .rateRecovery _ => none
  | .congestionSample => none
  | .mapLatch _ => none
  | .stampWrite _ => none
  | .timetableWrite _ _ _ _ => none
  | .coll _ => none
  | .collectiveZeroingEnd _ => none
  | .contributionSend _ => none
  | .reportReceive _ => none
  | .replayCommandComplete _ => none
  | .holdExpiry => none
  | .collectiveTimeout _ => none
  | .listTicketDone _ => none
  | .rtimeWrite _ => none
  | .timeExchangeTimer => none
  | .disciplineTimeout => none
  | .cutOrder _ => none
  | .cutPoint => none
  | .tailOrderTimeout _ => none
  | .logTimeout => none
  | .snapshotPartConfirm _ _ => none
  | .cutAbandon => none
  | .cutRestore => none
  | .resumeTimeReached => none
  | .mirackTimeout _ => none
  | .resync => none
  | .checkSlotFilled _ => none
  | .checkStart _ => none
  | .checkCompare _ _ => none
  | .checkSlotTimeout _ => none
  | .possessionTimer _ => none
  | .possessionStart _ => none
  | .possessionTestEnd _ _ _ _ _ => none
  | .possessionReturn _ => none
  | .itgPossReq _ _ _ => none
  | .tileFail _ => none
  | .tileStopTimeout _ => none
  | .replayDone => none
  | .ringTailWrite _ _ => none
  | .commandFetch _ _ => none
  | .run _ => none
  | .xvload _ => none
  | .xmv _ => none
  | .attn _ => none
  | .optstep _ => none
  | .shunt _ => none
  | .mgt _ => none
  | .mgtTimeout _ => none
  | .release _ => none
  | .attachUpdate _ => none
  | .attachUpdateWriteDone _ => none
  | .attachAttest _ => none
  | .managementOrder _ => none
  | .cqHeadWrite _ _ => none
  | .ringEnable _ _ => none
  | .ringReset _ => none
  | .idleReset => none
  | .functionReset _ => none
  | .boardReset => none
  | .bar2Access _ => none
  | .bootStart => none
  | .pcieLinkUp => none
  | .bootImageReadDone _ => none
  | .bootTileTestDone _ _ => none
  | .bootTrainingDone _ => none
  | .recoveryGo _ => none
  | .recoveryDone => none
  | .powerTick _ => none
  | .supplyDroop _ => none
  | .droopRecovery _ => none
  | .islandSleep _ => none
  | .islandWake _ => none
  | .islandWakeComplete _ => none
  | .inputRise => none
  | .inputLoss _ => none
  | .vinLowTimer => none
  | .referenceLoss _ => none
  | .leakDetect => none
  | .mgmtBusRead _ _ => none
  | .mgmtBusWrite _ _ => none
  | .freezeAll => none
  | .thawAll => none
  | .boxFreezeWrite _ _ => none
  | .traceEnable _ _ => none
  | .frameBoundary _ _ => none
  | .softStartComplete => none
  | .overvoltageRelease => none
  | .firmwareStartTimeout => none
  | .deviceStoppedResponding _ _ => none

/-! ### What events carry -/

/-- What STATION_ACCESS and CXL_ACCESS carry: at least one byte. -/
def StReq.wf : StReq → Bool
  | .tile _ _ => true
  | .smRead _ n => decide (0 < n)
  | .smWrite _ d => decide (0 < d.length)
  | .smAmo _ a _ => a % 8 == 0
  | .other _ cls _ => decide (cls < 8)
  | .devices _ n => decide (0 < n)

/-- Two readings of each identity: 112 devices and four ports of 64 bytes (R194, R212). -/
def Trained.wf (x : Trained) : Bool := x.ids.length == 112 && x.cxlIds.length == 256 && x.cxlCap.length == 4

/-- A BAR2 access moves at least one byte. -/
def Bar2.wf : Bar2 → Bool
  | .read _ n => decide (0 < n)
  | .write _ d _ => decide (0 < d.length)
  | .config _ => true
  | .resize _ => true
  | .busMaster _ => true
  | .perst _ => true
  | .link _ _ => true

/-- Whether what an event carries has the shape the spec gives it. -/
def carries : Instr → Bool
  | .stationAccess q _ retries _ => q.wf && decide (retries ≤ 3)
  | .cxlAccess q _ => q.wf
  | .cableIdentityRead _ d => d.length == 128
  | .laneTrained _ _ nums => nums.length == 16
  | .codewordDecode _ _ syms => syms.length == 544
  | .bar2Access q => q.wf
  | .bootTrainingDone x => x.wf
  | _ => true

/-- A well-formed command. -/
def Instr.wf (i : Instr) : Bool :=
  match slotOf i with
  | some (_, x) => x.wf
  | none => carries i

end Sys2Proof
end

