-- ==== Sys2Proof/Decode.lean ====
section
/-! DEFINITION. The operation table gives no row any bits: the commands of the module come over its buses and links and are spelled by no word. Slot words of long words are decoded in Machine/SlotWord.lean. -/

namespace Sys2Proof

/-- The command that a word spells by the bits of the operation table: none, for no row has bits. -/
def decodeTableWord (_nbits _w : Nat) : Option Instr := none

end Sys2Proof
end

