-- ==== Sys2Proof/Machine/Grid.lean ====
section
/-! DEFINITION. Arithmetic on the Leroth grid: operand decoding (R21, R54, R55), addends and their truncation (R22 to R28), tags (R33 to R35), windows (R37), the single rounding (R44 to R49), block scales (R64, R65) and floors (R41). Grid quantities are integers in units of position 0 (2^-266). -/

namespace Sys2Proof.Machine

/-! ### Tags (R33) -/

def tNan : Byte := 0x01#8
def tPinf : Byte := 0x02#8
def tNinf : Byte := 0x04#8
def tOvf : Byte := 0x08#8
def tWov : Byte := 0x10#8
def tFlo : Byte := 0x20#8
def tSat : Byte := 0x40#8
def tRpl : Byte := 0x80#8

/-- Whether tag `t` has a bit of `m` set. -/
def hasTag (t m : Byte) : Bool := t &&& m != 0#8

/-- The special state of an element, read from its tag (R35). -/
inductive Spec where
  | nan | pinf | ninf | fin
deriving DecidableEq, Repr

def specOf (t : Byte) : Spec :=
  if hasTag t tNan || (hasTag t tPinf && hasTag t tNinf) then .nan
  else if hasTag t tPinf then .pinf
  else if hasTag t tNinf then .ninf
  else .fin

/-! ### Formats -/

/-- A decoded operand: `(-1)^neg × m × 2^q`, or a special value. -/
inductive Dec where
  | nan
  | inf (neg : Bool)
  | fin (neg : Bool) (m : Nat) (q : Int)
deriving DecidableEq, Repr

/-- Exponent bits, fraction bits and bias of the unscaled form of a format code (R52, R54). -/
def fmtEFB (c : Nat) : Nat × Nat × Nat :=
  match c with
  | 0 => (8, 7, 127)
  | 1 => (8, 23, 127)
  | 2 => (4, 3, 7)
  | 3 => (5, 2, 15)
  | 4 => (2, 1, 1)
  | 5 => (4, 3, 7)
  | 6 => (5, 2, 15)
  | _ => (2, 1, 1)

/-- Element size in bits of a format code (R52). -/
def fmtBits (c : Nat) : Nat :=
  match c with
  | 0 => 16
  | 1 => 32
  | 2 | 3 | 5 | 6 => 8
  | 4 | 7 => 4
  | _ => 576

/-- Block-scaled format codes (R52). -/
def fmtBlock (c : Nat) : Bool := c == 5 || c == 6 || c == 7

/-- The unscaled code of a block-scaled code. -/
def fmtBase (c : Nat) : Nat := if fmtBlock c then c - 3 else c

/-- Decoding of an element (R55). -/
def decodeEl (c x : Nat) : Dec :=
  let (eb, fb, bias) := fmtEFB c
  let s := x.testBit (fb + eb)
  let ex := bits x fb eb
  let fr := bits x 0 fb
  let b := fmtBase c
  if (b == 0 || b == 1 || b == 3) && ex == 2 ^ eb - 1 then (if fr == 0 then .inf s else .nan)
  else if b == 2 && ex == 15 && fr == 7 then .nan
  else if ex == 0 then .fin s fr (1 - (bias : Int) - fb)
  else .fin s (2 ^ fb + fr) ((ex : Int) - bias - fb)

/-- A scale byte applied to a decoded element (R58). -/
def scaleDec (sc : Nat) (d : Dec) : Dec :=
  if sc = 255 then .nan else
  match d with
  | .fin s m q => .fin s m (q + sc - 127)
  | d => d

/-- Whether the decoded operand is zero. -/
def Dec.isZero : Dec → Bool
  | .fin _ m _ => m == 0
  | _ => false

/-- Part `k` of a finite fp32 operand (R24). -/
def partDec (k : Nat) (d : Dec) : Dec :=
  match d with
  | .fin s m q => .fin s (bits m (16 - 8 * k) 8) (q + 16 - 8 * k)
  | d => d

/-! ### Addends -/

/-- An addend as it enters an accumulator (R30): `k × 2^l`, its tag bits, and whether it is an exact addend (a special or out-of-range one adds nothing and needs no band). -/
structure Term where
  k : Int
  l : Nat
  tag : Byte
  exact : Bool
deriving DecidableEq, Repr

/-- A special addend (R34), negated where `neg` is set (R25). -/
def specialTerm (t : Byte) (neg : Bool) : Term :=
  let t := if neg && t == tPinf then tNinf else if neg && t == tNinf then tPinf else t
  ⟨0, 0, t, false⟩

/-- The finite addend `(-1)^s × m × 2^l0` (position units) truncated at floor `f` (R28, R30), out of range at 2^522 (R26). -/
def finTerm (s : Bool) (m : Nat) (l0 : Int) (f : Nat) : Term :=
  if 0 ≤ l0 ∧ m * 2 ^ l0.toNat ≥ 2 ^ 522 then
    ⟨0, 0, tOvf ||| (if s then tNinf else tPinf), false⟩
  else
    let v : Int := if s then -(m : Int) else m
    if (f : Int) ≤ l0 then ⟨v, l0.toNat, 0#8, true⟩
    else
      let d := ((f : Int) - l0).toNat
      let k := v >>> d
      ⟨k, f, if k * 2 ^ d = v then 0#8 else tFlo, true⟩

/-- The product of two decoded operands under R22, R25, R28 and R34. `za` and `zb` say whether the whole operand is zero (R24). -/
def prodTerm (a b : Dec) (za zb neg : Bool) (f : Nat) : Term :=
  match a, b with
  | .nan, _ => specialTerm tNan neg
  | _, .nan => specialTerm tNan neg
  | .inf s, .inf t => specialTerm (if s != t then tNinf else tPinf) neg
  | .inf s, .fin t _ _ => if zb then specialTerm tNan neg else specialTerm (if s != t then tNinf else tPinf) neg
  | .fin s _ _, .inf t => if za then specialTerm tNan neg else specialTerm (if s != t then tNinf else tPinf) neg
  | .fin s m q, .fin t n r => finTerm ((s != t) != neg) (m * n) (q + r + 266) f

/-- A plain addend (R23). -/
def plainTerm (a : Dec) (f : Nat) : Term :=
  match a with
  | .nan => specialTerm tNan false
  | .inf s => specialTerm (if s then tNinf else tPinf) false
  | .fin s m q => finTerm s m (q + 266) f

/-- A square (R23, R151). -/
def squareTerm (a : Dec) (f : Nat) : Term :=
  match a with
  | .nan => specialTerm tNan false
  | .inf _ => specialTerm tPinf false
  | .fin _ m q => finTerm false (m * m) (2 * q + 266) f

/-- What an addend adds, in units of position 0. -/
def Term.val (t : Term) : Int := t.k * 2 ^ t.l

/-- A value on the grid as a Leroth word. -/
def toWord (v : Int) : L576 := BitVec.ofInt 576 v

/-- In range (R20). -/
def inRange (v : Int) : Bool := decide (v.natAbs < 2 ^ 522)

/-- A word plus an addend, and the tag joined (R13, R35). -/
def addTerm (w : L576) (tag : Byte) (t : Term) : L576 × Byte := (w + toWord t.val, tag ||| t.tag)

/-- The position of the highest set bit of a nonzero number (0 for 0). -/
def topBit (n : Nat) : Nat := Nat.log2 n

/-! ### Rounding -/

/-- Rounding parameters of an output format (R45): precision, exponents, bias, largest finite value `lm × 2^le`. -/
structure OutFmt where
  p : Nat
  emin : Int
  emax : Int
  bias : Int
  lm : Nat
  le : Int
deriving DecidableEq, Repr

def outFmt (c : Nat) : OutFmt :=
  match fmtBase c with
  | 0 => ⟨8, -126, 127, 127, 255, 120⟩
  | 1 => ⟨24, -126, 127, 127, 16777215, 104⟩
  | 2 => ⟨4, -6, 8, 7, 7, 6⟩
  | 3 => ⟨3, -14, 15, 15, 7, 13⟩
  | _ => ⟨2, 0, 2, 1, 3, 1⟩

/-- Encode sign, exponent field and fraction in format `c`. -/
def encEl (c : Nat) (s : Bool) (e f : Nat) : Nat :=
  let (eb, fb, _) := fmtEFB c
  (if s then 2 ^ (eb + fb) else 0) + e * 2 ^ fb + f

/-- Encodings of the largest finite value, infinity and canonical NaN (R45, R48; E4M3 has one NaN, E2M1 neither). -/
def encLargest (c : Nat) (s : Bool) : Nat :=
  match fmtBase c with
  | 0 => encEl 0 s 254 127
  | 1 => encEl 1 s 254 8388607
  | 2 => encEl 2 s 15 6
  | 3 => encEl 3 s 30 3
  | _ => encEl 4 s 3 1

def encInf (c : Nat) (s : Bool) : Nat :=
  match fmtBase c with
  | 0 => encEl 0 s 255 0
  | 1 => encEl 1 s 255 0
  | 2 => encEl 2 s 15 7
  | 3 => encEl 3 s 31 0
  | _ => encEl 4 s 3 1

def encNan (c : Nat) : Nat :=
  match fmtBase c with
  | 0 => 0x7FC0
  | 1 => 0x7FC00000
  | 2 => 0x7F
  | 3 => 0x7E
  | _ => 0

/-- The rounding modes of R44. -/
inductive RMode where
  | rne | rna | rtz | rdn | rup | sr
deriving DecidableEq, Repr

/-- The mode a 3-bit field encodes; 0b110 and 0b111 are illegal (R44). -/
def rmode (n : Nat) : Option RMode :=
  match n with
  | 0 => some .rne
  | 1 => some .rna
  | 2 => some .rtz
  | 3 => some .rdn
  | 4 => some .rup
  | 5 => some .sr
  | _ => none

/-- A converted element: its encoding and the tag bits the conversion forms. -/
structure Conv where
  enc : Nat
  tag : Byte
deriving DecidableEq, Repr

/-- Overflow (R47). -/
def overflowOut (c : Nat) (s : Bool) (m : RMode) (sat : Bool) : Conv :=
  let big : Conv := ⟨encLargest c s, tOvf ||| tSat⟩
  let inf : Conv := if sat || fmtBase c == 4 then big else ⟨encInf c s, tOvf⟩
  match m with
  | .rtz => big
  | .rup => if s then big else inf
  | .rdn => if s then inf else big
  | _ => inf

/-- The single rounding of a finite word value (R46), with group scale exponent `k` (R64; 0 for an unscaled format) and stochastic draw `u`. -/
def roundOut (c : Nat) (k : Int) (md : RMode) (sat : Bool) (u : Nat) (w : Int) : Conv :=
  if w = 0 then ⟨0, 0#8⟩ else
  let f := outFmt c
  let s := decide (w < 0)
  let m := w.natAbs
  if m ≥ 2 ^ 522 then overflowOut c s md sat else
  let e : Int := (topBit m : Int) - 266
  let q := (max e (f.emin + k) - (f.p - 1) + 266).toNat
  let keep := m >>> q
  let rest := m - keep * 2 ^ q
  let half := 2 ^ (q - 1)
  let up := match md with
    | .rne => decide (rest > half) || (rest == half && keep % 2 == 1)
    | .rna => decide (rest ≥ half)
    | .rtz => false
    | .rup => decide (rest > 0) && !s
    | .rdn => decide (rest > 0) && s
    | .sr => decide (u < (rest * 2 ^ 32) >>> q)
  let keep := if up then keep + 1 else keep
  let (keep, q) := if keep == 2 ^ f.p then (keep / 2, q + 1) else (keep, q)
  if keep * 2 ^ q > f.lm * 2 ^ (f.le + 266 + k).toNat then overflowOut c s md sat
  else if keep ≥ 2 ^ (f.p - 1) then
    ⟨encEl c s ((q : Int) - 266 + f.p - 1 + f.bias - k).toNat (keep - 2 ^ (f.p - 1)), 0#8⟩
  else ⟨encEl c s 0 keep, 0#8⟩

/-- Conversion of an element whose tag gives a special state (R48). -/
def specialOut (c : Nat) (sat : Bool) (sp : Spec) : Conv :=
  match sp with
  | .nan => ⟨encNan c, 0#8⟩
  | .fin => ⟨0, 0#8⟩
  | .pinf => if fmtBase c == 4 || sat then ⟨encLargest c false, tSat⟩ else ⟨encInf c false, 0#8⟩
  | .ninf => if fmtBase c == 4 || sat then ⟨encLargest c true, tSat⟩ else ⟨encInf c true, 0#8⟩

/-- Conversion of an element: special state from its tag (R35, R48), else the rounded word (R46). -/
def convEl (c : Nat) (k : Int) (md : RMode) (sat : Bool) (u : Nat) (w : Int) (tag : Byte) : Conv :=
  match specOf tag with
  | .fin => roundOut c k md sat u w
  | sp => specialOut c sat sp

/-- The special bit a NaN or infinite input sets (R62). -/
def specTag (sp : Spec) : Byte :=
  match sp with
  | .nan => tNan
  | .pinf => tPinf
  | .ninf => tNinf
  | .fin => 0#8

/-- The grid value of an encoded finite element under scale exponent `k` (0 for a special encoding). -/
def gridOf (c : Nat) (k : Int) (x : Nat) : Int :=
  match decodeEl c x with
  | .fin s m q =>
    let v : Int := (m * 2 ^ (q + k + 266).toNat : Nat)
    if s then -v else v
  | _ => 0

/-- Whether an encoding is a nonzero subnormal of its format. -/
def isSubnormal (c x : Nat) : Bool :=
  let (eb, fb, _) := fmtEFB c
  bits x fb eb == 0 && bits x 0 fb != 0

/-- Whether an encoding is a zero of either sign. -/
def isZeroEnc (c x : Nat) : Bool :=
  let (eb, fb, _) := fmtEFB c
  bits x 0 (fb + eb) == 0

/-! ### Windows (R37) -/

/-- The window of `w` at base `f` and width `n`, where the word fits. -/
def windowOf (w : Int) (f n : Nat) : Option Nat :=
  let v := w >>> f
  if v * 2 ^ f = w ∧ -(2 ^ (n - 1) : Int) ≤ v ∧ v ≤ 2 ^ (n - 1) - 1 then some (v % 2 ^ n).toNat else none

/-- Placement of a word in a window (R20, R37): a word that is not in range does not fit, whatever the base. -/
def placeWindow (w : Int) (f n : Nat) : Option Nat := if inRange w then windowOf w f n else none

/-- A field of `n` bits read as two's complement (`sext`, R10). -/
def sextNat (v n : Nat) : Int :=
  let v := v % 2 ^ n
  if v ≥ 2 ^ (n - 1) then (v : Int) - 2 ^ n else v

/-- The word a window restores to. -/
def unwindow (v f n : Nat) : Int := sextNat v n * 2 ^ f

/-! ### Block scales (R65) -/

/-- The scale byte of a group of (word value, tag) pairs. -/
def blockScale (c : Nat) (g : List (Int × Byte)) : Nat :=
  if g.any fun e => specOf e.2 == .nan then 255 else
  let mx := g.foldl (fun a e => if specOf e.2 == .fin then max a e.1.natAbs else a) 0
  if mx = 0 then 127 else
  let f := outFmt c
  let k : Int := (topBit mx : Int) - 266 - f.emax
  let k := if mx > f.lm * 2 ^ (f.le + 266 + k).toNat then k + 1 else k
  let k := min (max k (-127)) 127
  (k + 127).toNat

/-! ### Floor tables (R40 to R42) -/

/-- A floor-table entry as a number. -/
abbrev FloorEnt := Nat

def FloorEnt.floor (e : FloorEnt) : Nat := bits e 0 10
def FloorEnt.firstFloor (e : FloorEnt) : Nat := bits e 10 10
def FloorEnt.headroom (e : FloorEnt) : Nat := bits e 20 4
def FloorEnt.raise (e : FloorEnt) : Nat := bits e 24 5
def FloorEnt.wide (e : FloorEnt) : Bool := bit e 29
def FloorEnt.histValid (e : FloorEnt) : Bool := bit e 30
def FloorEnt.histZero (e : FloorEnt) : Bool := bit e 31
def FloorEnt.histTop (e : FloorEnt) : Nat := bits e 32 10
def FloorEnt.replays (e : FloorEnt) : Nat := bits e 42 2
def FloorEnt.minFloor (e : FloorEnt) : Nat := bits e 44 10

/-- `x` with the `w` bits from `lo` replaced by `v`. -/
def setBits (x lo w v : Nat) : Nat := x - bits x lo w * 2 ^ lo + (v % 2 ^ w) * 2 ^ lo

/-- R40: the entry is legal. -/
def FloorEnt.legal (e : FloorEnt) : Bool :=
  e.raise != 0 && decide (e.floor ≤ 521) && decide (e.firstFloor ≤ 521) && decide (e.minFloor ≤ 521)

/-- choose_floor of R41. -/
def chooseFloor (e : FloorEnt) : FloorEnt :=
  let w : Int := if e.wide then 64 else 32
  let f : Int :=
    if !e.histValid then e.firstFloor
    else if e.histZero then e.floor
    else (e.histTop : Int) + e.headroom - w + 2
  let f := (min (max f e.minFloor) 521).toNat
  setBits (setBits e 0 10 f) 42 2 0

/-- The floor and replays of an entry after a replay (R42). -/
def raiseFloor (e : FloorEnt) : FloorEnt :=
  setBits (setBits e 0 10 (min 521 (e.floor + e.raise))) 42 2 (e.replays + 1)

end Sys2Proof.Machine
end

