-- ==== Sys2Proof/Config.lean ====
section
/-! DEFINITION. What the spec leaves open: free values. Each is an opaque constant, so that nothing can be proved of its value; a step draws `free` at the counter State.freeCount, which it then advances. -/

namespace Sys2Proof.Config

/-- A free value: the n-th use of an unstated value; callers cut it to the width they need. -/
opaque free : Nat → Nat

/-- The status byte that the summary word of a collective shows which completes before it holds every final report (R304 defines it over all the blocks), of what its members' descriptors share: the same on every member and in every run (R14, R301). -/
opaque earlyStatus : List Nat → BitVec 8

/-- What an LRSTEP leaves in a register that it increments under both inc and sinc (R127), of its value and the two sums: the same in every run (R14). -/
opaque twoSums : Nat → Nat → Nat → Nat

/-- Ed448 verification (R387, R388): public key, message and signature bytes to a verdict. The spec names the algorithm by its standard. -/
opaque ed448Verify : List Byte → List Byte → List Byte → Bool

/-- Ed448 signature (R399): the private key's derivation input and message to 114 signature bytes. -/
opaque ed448Sign : List Byte → List Byte → List Byte

/-- The Ed448 public key of a private key's derivation input. -/
opaque ed448Public : List Byte → List Byte

/-- The secret of the unclonable function of this part (R397): 57 bytes. -/
opaque siliconKey : List Byte

/-- The private key with which Kryler signed this part's certificate (R398), and the slot of that key. -/
opaque krylerKey : List Byte
opaque certSlot : BitVec 8

/-- The frame cell of VERIFY (R249), whose layout the manual does not print: coordinate, role, letter, good-lane mask and degrade_en. -/
opaque reportCell : Nat → Nat → Bool → Nat → Bool → BitVec 128

/-- What the training frame of a logical lane carries in place of the frame cell (R249), whose layout the manual does not print: the lane's number and the sender's good-lane mask. -/
opaque laneCell : Nat → Nat → BitVec 128

/-- Where in the yard the boot ROM puts the image (R392). -/
opaque imagePlace : Nat

/-- The boot ROM's measurement (R398): SHAKE256 of its contents, which the manual does not print. -/
opaque romDigest : List Byte

/-- The fuse contents as bytes (R398): security version, revoked slots, digests of the Kryler keys, digest of the owner key, serial number. -/
opaque fuseBytes : Nat → Nat → List (List Byte) → Option (List Byte) → Nat → List Byte

end Sys2Proof.Config
end

