-- ==== Sys2Proof/Machine/Shake.lean ====
section
/-! DEFINITION. SHAKE256 (FIPS 202) and the counter-keyed draw built on it (R153); the tree digests of tickets (R306) use it too. -/

namespace Sys2Proof.Machine

/-- `n` bytes of `x`, least significant first (le of R153, R3). -/
def leBytes (x n : Nat) : List Byte :=
  match n with
  | 0 => []
  | n + 1 => BitVec.ofNat 8 x :: leBytes (x / 256) n

/-- The number that little-endian bytes spell. -/
def ofLe : List Byte → Nat
  | [] => 0
  | b :: l => b.toNat + 256 * ofLe l

/-- Keccak's round constants, from its degree-8 LFSR (FIPS 202 algorithm 5). -/
def keccakRc (r : Nat) : BitVec 64 :=
  let lfsr := fun (n : Nat) => n.rec (motive := fun _ => Nat) 1 fun _ x => let y := x * 2; if y ≥ 256 then (y ^^^ 0x171) else y
  (List.range 7).foldl (fun a j => if (lfsr ((j + 7 * r) % 255)).testBit 0 then a ||| (1#64 <<< (2 ^ j - 1)) else a) 0#64

def keccakRot : List Nat := [0, 1, 62, 28, 27, 36, 44, 6, 55, 20, 3, 10, 43, 25, 39, 41, 45, 15, 21, 8, 18, 2, 61, 56, 14]

/-- Lane (x, y) of a state held as 25 lanes, lane x + 5y. -/
def klane (a : List (BitVec 64)) (i : Nat) : BitVec 64 := a.getD i 0#64

/-- One round of Keccak-f[1600]. -/
def keccakRound (a : List (BitVec 64)) (rc : BitVec 64) : List (BitVec 64) :=
  let c := (List.range 5).map fun x => klane a x ^^^ klane a (x + 5) ^^^ klane a (x + 10) ^^^ klane a (x + 15) ^^^ klane a (x + 20)
  let d := (List.range 5).map fun x => klane c ((x + 4) % 5) ^^^ (klane c ((x + 1) % 5)).rotateLeft 1
  let t := (List.range 25).map fun i => (klane a i ^^^ klane d (i % 5)).rotateLeft (keccakRot.getD i 0)
  -- pi: B[y, 2x + 3y] := A[x, y]; so B at (x', y') takes A[(x' + 3y') mod 5, x']
  let b := (List.range 25).map fun i => klane t ((i % 5 + 3 * (i / 5)) % 5 + 5 * (i % 5))
  let e := (List.range 25).map fun i =>
    let y := 5 * (i / 5)
    klane b i ^^^ (~~~(klane b (y + (i + 1) % 5)) &&& klane b (y + (i % 5 + 2) % 5))
  match e with
  | [] => []
  | l :: r => (l ^^^ rc) :: r

def keccakF (a : List (BitVec 64)) : List (BitVec 64) :=
  (List.range 24).foldl (fun a r => keccakRound a (keccakRc r)) a

/-- XOR a 136-byte block into the state. -/
def absorbBlock (a : List (BitVec 64)) (blk : List Byte) : List (BitVec 64) :=
  keccakF ((List.range 25).map fun i =>
    if i < 17 then klane a i ^^^ BitVec.ofNat 64 (ofLe ((blk.drop (8 * i)).take 8)) else klane a i)

/-- Absorb padded input, `n` blocks at most. -/
def absorb : Nat → List (BitVec 64) → List Byte → List (BitVec 64)
  | 0, a, _ => a
  | n + 1, a, l => if l.isEmpty then a else absorb n (absorbBlock a (l.take 136)) (l.drop 136)

/-- The pad10*1 padding with SHAKE's suffix 1111. -/
def shakePad (m : List Byte) : List Byte :=
  let r := 136 - m.length % 136
  if r = 1 then m ++ [0x9F#8]
  else m ++ 0x1F#8 :: (List.replicate (r - 2) 0#8 ++ [0x80#8])

/-- Squeeze `n` blocks. -/
def squeeze : Nat → List (BitVec 64) → List Byte
  | 0, _ => []
  | n + 1, a => ((a.take 17).flatMap fun x => leBytes x.toNat 8) ++ squeeze n (keccakF a)

/-- SHAKE256(m, n): n output bytes. -/
def shake256 (m : List Byte) (n : Nat) : List Byte :=
  let p := shakePad m
  (squeeze ((n + 135) / 136) (absorb (p.length / 136) (List.replicate 25 0#64) p)).take n

/-- rng32 of R153. -/
def rng32 (seed tensor i stream : Nat) : Nat :=
  let i := i % 2 ^ 64
  let msg := 0x01#8 :: (leBytes stream 1 ++ leBytes seed 8 ++ leBytes tensor 4 ++ leBytes (i / 32) 8)
  ofLe (((shake256 msg 128).drop (4 * (i % 32))).take 4)

/-- Ticket of a run of chunks (R306): `leaves` from the chunk bytes. -/
def ticketLeaf (tid c : Nat) (chunk : List Byte) : List Byte :=
  shake256 (0x02#8 :: (leBytes tid 4 ++ leBytes c 8 ++ chunk)) 32

def ticketOf (tid c0 n : Nat) (leaves : List (List Byte)) : List Byte :=
  shake256 (0x03#8 :: (leBytes tid 4 ++ leBytes c0 8 ++ leBytes n 8 ++ leaves.flatten)) 32

def listTicket (ts : List (List Byte)) : List Byte := shake256 (0x04#8 :: ts.flatten) 32

end Sys2Proof.Machine
end

