-- ==== Sys2Proof/Machine/Map.lean ====
section
/-! DEFINITION. Sparse data by a numeric key, as a list in one canonical form: keys strictly rising, and no entry equal to what an unlisted key reads as. Memory, register files, buffers and per-unit states are all held so. -/

namespace Sys2Proof.Machine

/-- A sparse table: (key, value) pairs, keys rising. -/
abbrev Map (V : Type) := List (Nat × V)

/-- What key `k` holds; an unlisted key holds `d k`. -/
def Map.get {V : Type} (d : Nat → V) : Map V → Nat → V
  | [], k => d k
  | (a, v) :: m, k => if k = a then v else if k < a then d k else Map.get d m k

/-- `m` with key `k` holding `v`; an entry equal to the default is not listed. -/
def Map.set {V : Type} [DecidableEq V] (d : Nat → V) : Map V → Nat → V → Map V
  | [], k, v => if v = d k then [] else [(k, v)]
  | (a, w) :: m, k, v =>
    if k = a then (if v = d k then m else (k, v) :: m)
    else if k < a then (if v = d k then (a, w) :: m else (k, v) :: (a, w) :: m)
    else (a, w) :: Map.set d m k v

/-- The canonical form: every key above `lo`, keys rising, no entry equal to its default. -/
def Map.wfFrom {V : Type} [DecidableEq V] (d : Nat → V) : Nat → Map V → Bool
  | _, [] => true
  | lo, (a, v) :: m => decide (lo ≤ a) && decide (v ≠ d a) && Map.wfFrom d (a + 1) m

/-- The canonical form of a sparse table. -/
def Map.wf {V : Type} [DecidableEq V] (d : Nat → V) (m : Map V) : Bool := Map.wfFrom d 0 m

/-- Remove every entry whose key `p` selects (those keys then read as their default). -/
def Map.drop {V : Type} (p : Nat → Bool) (m : Map V) : Map V := m.filter (fun e => !p e.1)

/-- Write the values of `l` at consecutive keys from `k`. -/
def Map.setList {V : Type} [DecidableEq V] (d : Nat → V) : Map V → Nat → List V → Map V
  | m, _, [] => m
  | m, k, v :: l => Map.setList d (Map.set d m k v) (k + 1) l

/-- The `n` values held at consecutive keys from `k`. -/
def Map.getList {V : Type} (d : Nat → V) (m : Map V) : Nat → Nat → List V
  | _, 0 => []
  | k, n + 1 => Map.get d m k :: Map.getList d m (k + 1) n

end Sys2Proof.Machine
end

