-- ==== Sys2Proof/Machine/Regs.lean ====
section
/-! DEFINITION. The register table of the T9: every register with its BAR0 offset, and every field with its bits, access code and reset value, as the register tables of the spec give them (R101 to R106, R109, R110, R141 to R144, R183, R198, R214 to R216, R233 to R235, R258 to R261, R282 to R284, R309 to R311, R338 to R341, R360 to R363, R382 to R384, R402, R403, R417 to R419, R433, R434, R446). -/

namespace Sys2Proof.Machine

/-- The access codes of R6. -/
inductive Acc where
  | RO | RW | W1C | W1S | WO | RWL
deriving DecidableEq, Repr

/-- The Reset column (R9): a value; `cfg` with the value shipped (0 where none is given, R391); `cfg` for timetable A and 0 for B (R273); `cfg` with a value shipped for each index (R236); the register's own index (HST_VEC_MAP). -/
inductive Rst where
  | val (n : Nat) | cfg (shipped : Nat) | cfgA (shipped : Nat) | cfgBy (shipped : List Nat) | idx
deriving DecidableEq, Repr

/-- The register blocks of R365 (EXP: the express units of the MST range; MSX: the MSI-X table). -/
inductive Block where
  | TIL | MST | EXP | SHN | ULP | RTR | COL | CUT | ITG | HST | BTC | PWR | DBG | MSX
deriving DecidableEq, Repr

/-- A register, indexed at most twice: index (i, j) lies at `base + i * s1 + j * s2`. -/
structure Reg where
  id : Nat
  blk : Block
  base : Nat
  n1 : Nat := 1
  s1 : Nat := 0
  n2 : Nat := 1
  s2 : Nat := 0
deriving DecidableEq, Repr

/-- A field of a register. -/
structure Fld where
  id : Nat
  reg : Reg
  lo : Nat
  w : Nat
  acc : Acc
  rst : Rst
deriving DecidableEq, Repr

/-- BAR0 offset of register `r` at index (i, j). -/
def Reg.off (r : Reg) (i j : Nat) : Nat := r.base + i * r.s1 + j * r.s2

/-- The one index under which fields of `r` at (i, j) are held. -/
def Reg.ix (r : Reg) (i j : Nat) : Nat := i * r.n2 + j

/-- The index (i, j) of `r` that lies at BAR0 offset `o`, if one does. -/
def Reg.at (r : Reg) (o : Nat) : Option (Nat × Nat) :=
  if o < r.base then none else
  let d := o - r.base
  let i := if r.s1 = 0 then 0 else min (d / r.s1) (r.n1 - 1)
  let e := d - i * r.s1
  let j := if r.s2 = 0 then 0 else min (e / r.s2) (r.n2 - 1)
  if e - j * r.s2 = 0 then some (i, j) else none

/-- A field's value after a reset, before any configuration record (R9, R391). -/
def Fld.rst0 (f : Fld) (i : Nat) : Nat :=
  match f.rst with
  | .val n => n
  | .cfg n => n
  | .cfgA n => if i = 0 then n else 0
  | .cfgBy l => l.getD i 0
  | .idx => i

/-- Whether the field is loaded from the configuration record at index `i` (R9, R273). -/
def Fld.isCfg (f : Fld) (i : Nat) : Bool :=
  match f.rst with
  | .cfg _ => true
  | .cfgA _ => i == 0
  | .cfgBy _ => true
  | _ => false

/-- The key under which a field is held. -/
def Fld.key (f : Fld) (i : Nat) : Nat := f.id * 65536 + i

def TIL_LR_STATUS : Reg := ⟨0, .TIL, 0x101C000, 168, 0x20000, 1, 0x0⟩
def TIL_LR_CONTROL : Reg := ⟨1, .TIL, 0x101C008, 168, 0x20000, 1, 0x0⟩
def TIL_LR_SAVE_ADDR : Reg := ⟨2, .TIL, 0x101C010, 168, 0x20000, 1, 0x0⟩
def TIL_LR_SUSPEND : Reg := ⟨3, .TIL, 0x101C018, 168, 0x20000, 1, 0x0⟩
def TIL_LR_FAULT : Reg := ⟨4, .TIL, 0x101C020, 168, 0x20000, 1, 0x0⟩
def TIL_LR_STEPS : Reg := ⟨5, .TIL, 0x101C040, 168, 0x20000, 1, 0x0⟩
def TIL_LR_STEP_CYCLES : Reg := ⟨6, .TIL, 0x101C048, 168, 0x20000, 1, 0x0⟩
def TIL_LR_SPILL_CYCLES : Reg := ⟨7, .TIL, 0x101C050, 168, 0x20000, 1, 0x0⟩
def TIL_LR_SLOT_STALLS : Reg := ⟨8, .TIL, 0x101C058, 168, 0x20000, 1, 0x0⟩
def TIL_LR_PROMOTIONS : Reg := ⟨9, .TIL, 0x101C060, 168, 0x20000, 1, 0x0⟩
def TIL_LR_INTERLOCK_CYCLES : Reg := ⟨10, .TIL, 0x101C068, 168, 0x20000, 1, 0x0⟩
def TIL_LR_BALLAST_CYCLES : Reg := ⟨11, .TIL, 0x101C070, 168, 0x20000, 1, 0x0⟩
def TIL_LR_DRAIN_ELEMENTS : Reg := ⟨12, .TIL, 0x101C078, 168, 0x20000, 1, 0x0⟩
def TIL_LR_BAND_HIST : Reg := ⟨13, .TIL, 0x101C080, 168, 0x20000, 8, 0x8⟩
def TIL_CORE_CONTROL : Reg := ⟨14, .TIL, 0x101D000, 168, 0x20000, 1, 0x0⟩
def TIL_CORE_STATUS : Reg := ⟨15, .TIL, 0x101D008, 168, 0x20000, 1, 0x0⟩
def TIL_CORE_CTX_ADDR : Reg := ⟨16, .TIL, 0x101D010, 168, 0x20000, 1, 0x0⟩
def TIL_CORE_START : Reg := ⟨17, .TIL, 0x101D018, 168, 0x20000, 1, 0x0⟩
def TIL_CS_STATUS : Reg := ⟨18, .TIL, 0x101D100, 168, 0x20000, 1, 0x0⟩
def TIL_CS_CAUSE : Reg := ⟨19, .TIL, 0x101D108, 168, 0x20000, 1, 0x0⟩
def TIL_CS_EPC : Reg := ⟨20, .TIL, 0x101D110, 168, 0x20000, 1, 0x0⟩
def TIL_CS_EADDR : Reg := ⟨21, .TIL, 0x101D118, 168, 0x20000, 1, 0x0⟩
def TIL_CS_LR_EPC : Reg := ⟨22, .TIL, 0x101D120, 168, 0x20000, 1, 0x0⟩
def TIL_CS_TILE_ID : Reg := ⟨23, .TIL, 0x101D128, 168, 0x20000, 1, 0x0⟩
def TIL_CS_TILE_BASE : Reg := ⟨24, .TIL, 0x101D130, 168, 0x20000, 1, 0x0⟩
def TIL_CS_EVT : Reg := ⟨25, .TIL, 0x101D138, 168, 0x20000, 1, 0x0⟩
def TIL_CS_CYCLE : Reg := ⟨26, .TIL, 0x101D140, 168, 0x20000, 1, 0x0⟩
def TIL_CS_RTIME : Reg := ⟨27, .TIL, 0x101D148, 168, 0x20000, 1, 0x0⟩
def TIL_CS_VSEED : Reg := ⟨28, .TIL, 0x101D150, 168, 0x20000, 1, 0x0⟩
def TIL_CS_VTID : Reg := ⟨29, .TIL, 0x101D158, 168, 0x20000, 1, 0x0⟩
def TIL_CS_VFLAGS : Reg := ⟨30, .TIL, 0x101D160, 168, 0x20000, 1, 0x0⟩
def TIL_CS_SHN_GRANT_LO : Reg := ⟨31, .TIL, 0x101D168, 168, 0x20000, 1, 0x0⟩
def TIL_CS_SHN_GRANT_HI : Reg := ⟨32, .TIL, 0x101D170, 168, 0x20000, 1, 0x0⟩
def TIL_CS_CMDARG : Reg := ⟨33, .TIL, 0x101D178, 168, 0x20000, 1, 0x0⟩
def MST_STATUS : Reg := ⟨34, .MST, 0x400000, 28, 0x10000, 1, 0x0⟩
def MST_CONTROL : Reg := ⟨35, .MST, 0x400008, 28, 0x10000, 1, 0x0⟩
def MST_CE : Reg := ⟨36, .MST, 0x400040, 28, 0x10000, 1, 0x0⟩
def MST_UE : Reg := ⟨37, .MST, 0x400048, 28, 0x10000, 1, 0x0⟩
def MST_POISON_READS : Reg := ⟨38, .MST, 0x400050, 28, 0x10000, 1, 0x0⟩
def MST_LINK_RETRIES : Reg := ⟨39, .MST, 0x400058, 28, 0x10000, 1, 0x0⟩
def MST_ODECC : Reg := ⟨40, .MST, 0x400060, 28, 0x10000, 1, 0x0⟩
def MST_SCRUB_PASSES : Reg := ⟨41, .MST, 0x400068, 28, 0x10000, 1, 0x0⟩
def MST_RETRAINS : Reg := ⟨42, .MST, 0x400070, 28, 0x10000, 1, 0x0⟩
def MST_PUSHES : Reg := ⟨43, .MST, 0x400080, 28, 0x10000, 1, 0x0⟩
def MST_ERR_HEAD : Reg := ⟨44, .MST, 0x400100, 28, 0x10000, 1, 0x0⟩
def MST_ERR_LOG_LO : Reg := ⟨45, .MST, 0x400200, 28, 0x10000, 16, 0x10⟩
def MST_ERR_LOG_HI : Reg := ⟨46, .MST, 0x400208, 28, 0x10000, 16, 0x10⟩
def MST_COW_BASE : Reg := ⟨47, .MST, 0x400400, 28, 0x10000, 8, 0x20⟩
def MST_COW_LIMIT : Reg := ⟨48, .MST, 0x400408, 28, 0x10000, 8, 0x20⟩
def MST_COW_DEST : Reg := ⟨49, .MST, 0x400410, 28, 0x10000, 8, 0x20⟩
def MST_COW_CURSOR : Reg := ⟨50, .MST, 0x400418, 28, 0x10000, 8, 0x20⟩
def MST_COW_DEST_CTL : Reg := ⟨51, .MST, 0x400500, 28, 0x10000, 8, 0x8⟩
def MST_EXP_STATUS : Reg := ⟨52, .EXP, 0x40E000, 28, 0x10000, 1, 0x0⟩
def MST_EXP_BYTES : Reg := ⟨53, .EXP, 0x40E040, 28, 0x10000, 1, 0x0⟩
def MST_EXP_STEP_CYCLES : Reg := ⟨54, .EXP, 0x40E048, 28, 0x10000, 1, 0x0⟩
def MST_EXP_SPILL_CYCLES : Reg := ⟨55, .EXP, 0x40E050, 28, 0x10000, 1, 0x0⟩
def MST_EXP_WIDE : Reg := ⟨56, .EXP, 0x40E058, 28, 0x10000, 1, 0x0⟩
def MST_EXP_SIDING_BYTES : Reg := ⟨57, .EXP, 0x40E060, 28, 0x10000, 1, 0x0⟩
def MST_PROT_LO : Reg := ⟨58, .MST, 0x5C0000, 64, 0x10, 1, 0x0⟩
def MST_PROT_HI : Reg := ⟨59, .MST, 0x5C0008, 64, 0x10, 1, 0x0⟩
def MST_PROT_VIOL : Reg := ⟨60, .MST, 0x5C0400, 1, 0x0, 1, 0x0⟩
def MST_PROT_COUNT : Reg := ⟨61, .MST, 0x5C0408, 1, 0x0, 1, 0x0⟩
def MST_CXL_STATUS : Reg := ⟨62, .MST, 0x5D0000, 4, 0x1000, 1, 0x0⟩
def MST_CXL_POISON : Reg := ⟨63, .MST, 0x5D0040, 4, 0x1000, 1, 0x0⟩
def MST_CXL_LOST : Reg := ⟨64, .MST, 0x5D0048, 4, 0x1000, 1, 0x0⟩
def MST_CXL_ID : Reg := ⟨65, .MST, 0x5D0100, 4, 0x1000, 8, 0x8⟩
def SHN_CH_SRC : Reg := ⟨66, .SHN, 0x600000, 128, 0x100, 1, 0x0⟩
def SHN_CH_DST : Reg := ⟨67, .SHN, 0x600008, 128, 0x100, 1, 0x0⟩
def SHN_CH_COUNT : Reg := ⟨68, .SHN, 0x600010, 128, 0x100, 1, 0x0⟩
def SHN_CH_CONTROL : Reg := ⟨69, .SHN, 0x600018, 128, 0x100, 1, 0x0⟩
def SHN_CH_CHAIN : Reg := ⟨70, .SHN, 0x600020, 128, 0x100, 1, 0x0⟩
def SHN_CH_STATUS : Reg := ⟨71, .SHN, 0x600028, 128, 0x100, 1, 0x0⟩
def SHN_CH_CUR : Reg := ⟨72, .SHN, 0x600030, 128, 0x100, 1, 0x0⟩
def SHN_CH_ERR : Reg := ⟨73, .SHN, 0x600038, 128, 0x100, 1, 0x0⟩
def SHN_CH_BYTES : Reg := ⟨74, .SHN, 0x600040, 128, 0x100, 1, 0x0⟩
def ULP_STATUS : Reg := ⟨75, .ULP, 0x700000, 16, 0x10000, 1, 0x0⟩
def ULP_CONTROL : Reg := ⟨76, .ULP, 0x700008, 16, 0x10000, 1, 0x0⟩
def ULP_ROLE : Reg := ⟨77, .ULP, 0x700010, 16, 0x10000, 1, 0x0⟩
def ULP_LANEMAP_TX0 : Reg := ⟨78, .ULP, 0x700018, 16, 0x10000, 1, 0x0⟩
def ULP_LANEMAP_TX1 : Reg := ⟨79, .ULP, 0x700020, 16, 0x10000, 1, 0x0⟩
def ULP_LANEMAP_RX0 : Reg := ⟨80, .ULP, 0x700028, 16, 0x10000, 1, 0x0⟩
def ULP_LANEMAP_RX1 : Reg := ⟨81, .ULP, 0x700030, 16, 0x10000, 1, 0x0⟩
def ULP_FC_CONFIG : Reg := ⟨82, .ULP, 0x700038, 16, 0x10000, 1, 0x0⟩
def ULP_CABLE : Reg := ⟨83, .ULP, 0x700040, 16, 0x10000, 16, 0x8⟩
def ULP_PEER : Reg := ⟨84, .ULP, 0x7000C0, 16, 0x10000, 1, 0x0⟩
def ULP_RTT : Reg := ⟨85, .ULP, 0x7000C8, 16, 0x10000, 1, 0x0⟩
def ULP_FC_CAP : Reg := ⟨86, .ULP, 0x7000D0, 16, 0x10000, 1, 0x0⟩
def ULP_FC_STATUS : Reg := ⟨87, .ULP, 0x7000D8, 16, 0x10000, 1, 0x0⟩
def ULP_CW : Reg := ⟨88, .ULP, 0x700100, 16, 0x10000, 1, 0x0⟩
def ULP_CW_CORR : Reg := ⟨89, .ULP, 0x700108, 16, 0x10000, 1, 0x0⟩
def ULP_SYM_CORR : Reg := ⟨90, .ULP, 0x700110, 16, 0x10000, 1, 0x0⟩
def ULP_CW_UNCORR : Reg := ⟨91, .ULP, 0x700118, 16, 0x10000, 1, 0x0⟩
def ULP_REPLAYS : Reg := ⟨92, .ULP, 0x700120, 16, 0x10000, 1, 0x0⟩
def ULP_TX_CELLS : Reg := ⟨93, .ULP, 0x700128, 16, 0x10000, 1, 0x0⟩
def ULP_RX_CELLS : Reg := ⟨94, .ULP, 0x700130, 16, 0x10000, 1, 0x0⟩
def ULP_CLOSES : Reg := ⟨95, .ULP, 0x700138, 16, 0x10000, 1, 0x0⟩
def ULP_OVERRUN : Reg := ⟨96, .ULP, 0x700140, 16, 0x10000, 1, 0x0⟩
def ULP_TUNES : Reg := ⟨97, .ULP, 0x700148, 16, 0x10000, 1, 0x0⟩
def ULP_RETRAINS : Reg := ⟨98, .ULP, 0x700150, 16, 0x10000, 1, 0x0⟩
def ULP_LOST_PACKETS : Reg := ⟨99, .ULP, 0x700158, 16, 0x10000, 1, 0x0⟩
def ULP_BAD_CTL : Reg := ⟨100, .ULP, 0x700160, 16, 0x10000, 1, 0x0⟩
def RTR_STATUS : Reg := ⟨101, .RTR, 0x800000, 1, 0x0, 1, 0x0⟩
def RTR_CONTROL : Reg := ⟨102, .RTR, 0x800008, 1, 0x0, 1, 0x0⟩
def RTR_COORD : Reg := ⟨103, .RTR, 0x800010, 1, 0x0, 1, 0x0⟩
def RTR_RATE_CONFIG : Reg := ⟨104, .RTR, 0x800018, 1, 0x0, 1, 0x0⟩
def RTR_TT_CTL : Reg := ⟨105, .RTR, 0x800100, 2, 0x400, 1, 0x0⟩
def RTR_TT_REDIR : Reg := ⟨106, .RTR, 0x800200, 2, 0x400, 64, 0x8⟩
def RTR_INJ : Reg := ⟨107, .RTR, 0x800900, 2, 0x8, 1, 0x0⟩
def RTR_EJ : Reg := ⟨108, .RTR, 0x800910, 2, 0x8, 1, 0x0⟩
def RTR_DROP : Reg := ⟨109, .RTR, 0x800920, 2, 0x8, 1, 0x0⟩
def RTR_ESCAPES : Reg := ⟨110, .RTR, 0x800930, 1, 0x0, 1, 0x0⟩
def RTR_CAUTION_SET : Reg := ⟨111, .RTR, 0x800938, 1, 0x0, 1, 0x0⟩
def RTR_ECHO_SENT : Reg := ⟨112, .RTR, 0x800940, 1, 0x0, 1, 0x0⟩
def RTR_ECHO_RCVD : Reg := ⟨113, .RTR, 0x800948, 1, 0x0, 1, 0x0⟩
def RTR_RATE_EVICT : Reg := ⟨114, .RTR, 0x800950, 1, 0x0, 1, 0x0⟩
def RTR_MAP_CONTROL : Reg := ⟨115, .RTR, 0x800A00, 1, 0x0, 1, 0x0⟩
def COL_STATUS : Reg := ⟨116, .COL, 0xA00000, 1, 0x0, 1, 0x0⟩
def COL_CONTROL : Reg := ⟨117, .COL, 0xA00008, 1, 0x0, 1, 0x0⟩
def COL_CID : Reg := ⟨118, .COL, 0xA00100, 256, 0x8, 1, 0x0⟩
def COL_CONTRIB : Reg := ⟨119, .COL, 0xA00900, 1, 0x0, 1, 0x0⟩
def COL_WIDEN : Reg := ⟨120, .COL, 0xA00908, 1, 0x0, 1, 0x0⟩
def COL_ZERO : Reg := ⟨121, .COL, 0xA00910, 1, 0x0, 1, 0x0⟩
def COL_STRAY : Reg := ⟨122, .COL, 0xA00918, 1, 0x0, 1, 0x0⟩
def COL_STALE : Reg := ⟨123, .COL, 0xA00920, 1, 0x0, 1, 0x0⟩
def COL_BAD : Reg := ⟨124, .COL, 0xA00928, 1, 0x0, 1, 0x0⟩
def COL_REPLAYS : Reg := ⟨125, .COL, 0xA00930, 1, 0x0, 1, 0x0⟩
def COL_TIMEOUTS : Reg := ⟨126, .COL, 0xA00938, 1, 0x0, 1, 0x0⟩
def COL_VOTES : Reg := ⟨127, .COL, 0xA00940, 1, 0x0, 1, 0x0⟩
def COL_EXPELLED : Reg := ⟨128, .COL, 0xA00948, 1, 0x0, 1, 0x0⟩
def CUT_STATUS : Reg := ⟨129, .CUT, 0xB00000, 1, 0x0, 1, 0x0⟩
def CUT_CONTROL : Reg := ⟨130, .CUT, 0xB00008, 1, 0x0, 1, 0x0⟩
def CUT_RTIME : Reg := ⟨131, .CUT, 0xB00010, 1, 0x0, 1, 0x0⟩
def CUT_RT_CONFIG : Reg := ⟨132, .CUT, 0xB00018, 1, 0x0, 1, 0x0⟩
def CUT_RT_STATUS : Reg := ⟨133, .CUT, 0xB00020, 1, 0x0, 1, 0x0⟩
def CUT_ORDER_TIME : Reg := ⟨134, .CUT, 0xB00028, 1, 0x0, 1, 0x0⟩
def CUT_ORDER_SNAP : Reg := ⟨135, .CUT, 0xB00030, 1, 0x0, 1, 0x0⟩
def CUT_ORDER : Reg := ⟨136, .CUT, 0xB00038, 1, 0x0, 1, 0x0⟩
def CUT_RESTORE : Reg := ⟨137, .CUT, 0xB00040, 1, 0x0, 1, 0x0⟩
def CUT_RESUME_TIME : Reg := ⟨138, .CUT, 0xB00048, 1, 0x0, 1, 0x0⟩
def CUT_MIR_BASE : Reg := ⟨139, .CUT, 0xB00100, 8, 0x20, 1, 0x0⟩
def CUT_MIR_LIMIT : Reg := ⟨140, .CUT, 0xB00108, 8, 0x20, 1, 0x0⟩
def CUT_MIR_TWIN : Reg := ⟨141, .CUT, 0xB00110, 8, 0x20, 1, 0x0⟩
def CUT_ADOPT_BASE : Reg := ⟨142, .CUT, 0xB00200, 8, 0x20, 1, 0x0⟩
def CUT_ADOPT_LIMIT : Reg := ⟨143, .CUT, 0xB00208, 8, 0x20, 1, 0x0⟩
def CUT_ADOPT_LOCAL : Reg := ⟨144, .CUT, 0xB00210, 8, 0x20, 1, 0x0⟩
def CUT_CUTS : Reg := ⟨145, .CUT, 0xB00400, 1, 0x0, 1, 0x0⟩
def CUT_REFUSALS : Reg := ⟨146, .CUT, 0xB00408, 1, 0x0, 1, 0x0⟩
def CUT_LOG_ENTRIES : Reg := ⟨147, .CUT, 0xB00410, 1, 0x0, 1, 0x0⟩
def CUT_LOG_BYTES : Reg := ⟨148, .CUT, 0xB00418, 1, 0x0, 1, 0x0⟩
def CUT_MIR_BYTES : Reg := ⟨149, .CUT, 0xB00420, 1, 0x0, 1, 0x0⟩
def CUT_MIR_GAPS : Reg := ⟨150, .CUT, 0xB00428, 1, 0x0, 1, 0x0⟩
def CUT_RT_EXCHANGES : Reg := ⟨151, .CUT, 0xB00430, 1, 0x0, 1, 0x0⟩
def CUT_RT_LOSSES : Reg := ⟨152, .CUT, 0xB00438, 1, 0x0, 1, 0x0⟩
def ITG_STATUS : Reg := ⟨153, .ITG, 0xC00000, 1, 0x0, 1, 0x0⟩
def ITG_CONTROL : Reg := ⟨154, .ITG, 0xC00008, 1, 0x0, 1, 0x0⟩
def ITG_POSS_REQ : Reg := ⟨155, .ITG, 0xC00010, 1, 0x0, 1, 0x0⟩
def ITG_DUP_SEED : Reg := ⟨156, .ITG, 0xC00018, 1, 0x0, 1, 0x0⟩
def ITG_DUP_BASE : Reg := ⟨157, .ITG, 0xC00020, 2, 0x8, 1, 0x0⟩
def ITG_POSS_BASE : Reg := ⟨158, .ITG, 0xC00030, 2, 0x8, 1, 0x0⟩
def ITG_EVT_BASE : Reg := ⟨159, .ITG, 0xC00040, 1, 0x0, 1, 0x0⟩
def ITG_EVT_HEAD : Reg := ⟨160, .ITG, 0xC00048, 1, 0x0, 1, 0x0⟩
def ITG_EVT_TAIL : Reg := ⟨161, .ITG, 0xC00050, 1, 0x0, 1, 0x0⟩
def ITG_TILE_CTRL : Reg := ⟨162, .ITG, 0xC00100, 168, 0x8, 1, 0x0⟩
def ITG_DUP_SAMPLED : Reg := ⟨163, .ITG, 0xC00800, 1, 0x0, 1, 0x0⟩
def ITG_DUP_DROPPED : Reg := ⟨164, .ITG, 0xC00808, 1, 0x0, 1, 0x0⟩
def ITG_DUP_MISMATCH : Reg := ⟨165, .ITG, 0xC00810, 1, 0x0, 1, 0x0⟩
def ITG_POSSESSIONS : Reg := ⟨166, .ITG, 0xC00818, 1, 0x0, 1, 0x0⟩
def ITG_FORCED : Reg := ⟨167, .ITG, 0xC00820, 1, 0x0, 1, 0x0⟩
def ITG_REPEATS : Reg := ⟨168, .ITG, 0xC00828, 1, 0x0, 1, 0x0⟩
def HST_STATUS : Reg := ⟨169, .HST, 0x0, 1, 0x0, 1, 0x0⟩
def HST_CONTROL : Reg := ⟨170, .HST, 0x8, 1, 0x0, 1, 0x0⟩
def HST_BAR2_BASE : Reg := ⟨171, .HST, 0x10, 1, 0x0, 1, 0x0⟩
def HST_FM_COORD : Reg := ⟨172, .HST, 0x18, 1, 0x0, 1, 0x0⟩
def HST_RING_BASE : Reg := ⟨173, .HST, 0x1000, 64, 0x40, 1, 0x0⟩
def HST_RING_CONTROL : Reg := ⟨174, .HST, 0x1008, 64, 0x40, 1, 0x0⟩
def HST_RING_TAIL : Reg := ⟨175, .HST, 0x1010, 64, 0x40, 1, 0x0⟩
def HST_RING_HEAD : Reg := ⟨176, .HST, 0x1018, 64, 0x40, 1, 0x0⟩
def HST_CQ_BASE : Reg := ⟨177, .HST, 0x1020, 64, 0x40, 1, 0x0⟩
def HST_CQ_HEAD : Reg := ⟨178, .HST, 0x1028, 64, 0x40, 1, 0x0⟩
def HST_CQ_TAIL : Reg := ⟨179, .HST, 0x1030, 64, 0x40, 1, 0x0⟩
def HST_VEC_MAP : Reg := ⟨180, .HST, 0x4000, 256, 0x8, 1, 0x0⟩
def BTC_STATUS : Reg := ⟨181, .BTC, 0x100000, 1, 0x0, 1, 0x0⟩
def BTC_ID : Reg := ⟨182, .BTC, 0x100008, 1, 0x0, 1, 0x0⟩
def BTC_SERIAL : Reg := ⟨183, .BTC, 0x100010, 1, 0x0, 1, 0x0⟩
def BTC_FUSE : Reg := ⟨184, .BTC, 0x100018, 1, 0x0, 1, 0x0⟩
def BTC_ID_KEY : Reg := ⟨185, .BTC, 0x100040, 8, 0x8, 1, 0x0⟩
def BTC_MEAS : Reg := ⟨186, .BTC, 0x100100, 32, 0x8, 1, 0x0⟩
def BTC_REC_ADDR : Reg := ⟨187, .BTC, 0x100200, 1, 0x0, 1, 0x0⟩
def BTC_REC_LEN : Reg := ⟨188, .BTC, 0x100208, 1, 0x0, 1, 0x0⟩
def BTC_REC_CONTROL : Reg := ⟨189, .BTC, 0x100210, 1, 0x0, 1, 0x0⟩
def PWR_STATUS : Reg := ⟨190, .PWR, 0x200000, 1, 0x0, 1, 0x0⟩
def PWR_CONTROL : Reg := ⟨191, .PWR, 0x200008, 1, 0x0, 1, 0x0⟩
def PWR_WAKE : Reg := ⟨192, .PWR, 0x200010, 1, 0x0, 1, 0x0⟩
def PWR_THERMAL : Reg := ⟨193, .PWR, 0x200018, 1, 0x0, 1, 0x0⟩
def PWR_INPUT : Reg := ⟨194, .PWR, 0x200020, 1, 0x0, 1, 0x0⟩
def PWR_COOLANT : Reg := ⟨195, .PWR, 0x200028, 1, 0x0, 1, 0x0⟩
def PWR_TILE : Reg := ⟨196, .PWR, 0x200100, 168, 0x8, 1, 0x0⟩
def PWR_SKIP_CYCLES : Reg := ⟨197, .PWR, 0x200800, 1, 0x0, 1, 0x0⟩
def PWR_THROTTLE_US : Reg := ⟨198, .PWR, 0x200808, 1, 0x0, 1, 0x0⟩
def PWR_SUSPENDS : Reg := ⟨199, .PWR, 0x200810, 1, 0x0, 1, 0x0⟩
def PWR_EXCURSIONS : Reg := ⟨200, .PWR, 0x200818, 1, 0x0, 1, 0x0⟩
def PWR_WAKES : Reg := ⟨201, .PWR, 0x200820, 1, 0x0, 1, 0x0⟩
def DBG_STATUS : Reg := ⟨202, .DBG, 0x300000, 1, 0x0, 1, 0x0⟩
def DBG_CONTROL : Reg := ⟨203, .DBG, 0x300008, 1, 0x0, 1, 0x0⟩
def DBG_TRACE_BASE : Reg := ⟨204, .DBG, 0x300040, 2, 0x20, 1, 0x0⟩
def DBG_TRACE_CTL : Reg := ⟨205, .DBG, 0x300048, 2, 0x20, 1, 0x0⟩
def DBG_TRACE_WP : Reg := ⟨206, .DBG, 0x300050, 2, 0x20, 1, 0x0⟩
def DBG_TRACE_SEL : Reg := ⟨207, .DBG, 0x300058, 2, 0x20, 1, 0x0⟩
def DBG_WP_BASE : Reg := ⟨208, .DBG, 0x300100, 32, 0x10, 1, 0x0⟩
def DBG_WP_LIMIT : Reg := ⟨209, .DBG, 0x300108, 32, 0x10, 1, 0x0⟩
def DBG_WP_COUNT : Reg := ⟨210, .DBG, 0x300300, 32, 0x8, 1, 0x0⟩
def DBG_WP_HIT : Reg := ⟨211, .DBG, 0x300400, 1, 0x0, 1, 0x0⟩
def DBG_TRACE_LOST : Reg := ⟨212, .DBG, 0x300410, 1, 0x0, 1, 0x0⟩
def DBG_OBS_BYTES : Reg := ⟨213, .DBG, 0x300418, 1, 0x0, 1, 0x0⟩
def DBG_BOX_HEAD : Reg := ⟨214, .DBG, 0x300800, 224, 0x8, 1, 0x0⟩
def MSIX_ADDR : Reg := ⟨215, .MSX, 0x3F00000, 2048, 0x10, 1, 0x0⟩
def MSIX_DATA : Reg := ⟨216, .MSX, 0x3F00008, 2048, 0x10, 1, 0x0⟩
def MSIX_PBA : Reg := ⟨217, .MSX, 0x3F08000, 32, 0x8, 1, 0x0⟩

/-- R102. -/
def TIL_LR_STATUS_pass_tag : Fld := ⟨0, TIL_LR_STATUS, 0, 4, .RO, .val 0⟩
/-- R102. -/
def TIL_LR_STATUS_pass_open : Fld := ⟨1, TIL_LR_STATUS, 4, 1, .RO, .val 0⟩
/-- R102. -/
def TIL_LR_STATUS_pending_valid : Fld := ⟨2, TIL_LR_STATUS, 5, 1, .RO, .val 0⟩
/-- R102. -/
def TIL_LR_STATUS_shadow_valid : Fld := ⟨3, TIL_LR_STATUS, 6, 1, .RO, .val 0⟩
/-- R102. -/
def TIL_LR_STATUS_shadow_loading : Fld := ⟨4, TIL_LR_STATUS, 7, 1, .RO, .val 0⟩
/-- R102. -/
def TIL_LR_STATUS_set0_draining : Fld := ⟨5, TIL_LR_STATUS, 8, 1, .RO, .val 0⟩
/-- R102. -/
def TIL_LR_STATUS_set1_draining : Fld := ⟨6, TIL_LR_STATUS, 9, 1, .RO, .val 0⟩
/-- R102. -/
def TIL_LR_STATUS_set0_parked : Fld := ⟨7, TIL_LR_STATUS, 10, 1, .RO, .val 0⟩
/-- R102. -/
def TIL_LR_STATUS_set1_parked : Fld := ⟨8, TIL_LR_STATUS, 11, 1, .RO, .val 0⟩
/-- R102. -/
def TIL_LR_STATUS_suspended : Fld := ⟨9, TIL_LR_STATUS, 12, 1, .RO, .val 0⟩
/-- R102. -/
def TIL_LR_STATUS_drain_fault : Fld := ⟨10, TIL_LR_STATUS, 13, 1, .RO, .val 0⟩
/-- R102. -/
def TIL_LR_STATUS_ballast_active : Fld := ⟨11, TIL_LR_STATUS, 14, 1, .RO, .val 0⟩
/-- R102. -/
def TIL_LR_STATUS_queue_depth : Fld := ⟨12, TIL_LR_STATUS, 15, 4, .RO, .val 0⟩
/-- R103. -/
def TIL_LR_CONTROL_ballast_en : Fld := ⟨13, TIL_LR_CONTROL, 0, 1, .RW, .cfg 0⟩
/-- R103. -/
def TIL_LR_CONTROL_ballast_hold : Fld := ⟨14, TIL_LR_CONTROL, 1, 8, .RW, .cfg 0⟩
/-- R103. -/
def TIL_LR_CONTROL_count_en : Fld := ⟨15, TIL_LR_CONTROL, 9, 1, .RW, .val 1⟩
/-- R103. -/
def TIL_LR_SAVE_ADDR_save_addr : Fld := ⟨16, TIL_LR_SAVE_ADDR, 9, 39, .RW, .cfg 0⟩
/-- R104. -/
def TIL_LR_SUSPEND_suspend : Fld := ⟨17, TIL_LR_SUSPEND, 0, 1, .WO, .val 0⟩
/-- R104. -/
def TIL_LR_SUSPEND_restore : Fld := ⟨18, TIL_LR_SUSPEND, 1, 1, .WO, .val 0⟩
/-- R104. -/
def TIL_LR_FAULT_code : Fld := ⟨19, TIL_LR_FAULT, 0, 4, .RO, .val 0⟩
/-- R104. -/
def TIL_LR_FAULT_valid : Fld := ⟨20, TIL_LR_FAULT, 4, 1, .W1C, .val 0⟩
/-- R104. -/
def TIL_LR_FAULT_addr : Fld := ⟨21, TIL_LR_FAULT, 16, 48, .RO, .val 0⟩
/-- R105. -/
def TIL_LR_STEPS_count : Fld := ⟨22, TIL_LR_STEPS, 0, 64, .RO, .val 0⟩
/-- R105. -/
def TIL_LR_STEP_CYCLES_count : Fld := ⟨23, TIL_LR_STEP_CYCLES, 0, 64, .RO, .val 0⟩
/-- R105. -/
def TIL_LR_SPILL_CYCLES_count : Fld := ⟨24, TIL_LR_SPILL_CYCLES, 0, 64, .RO, .val 0⟩
/-- R105. -/
def TIL_LR_SLOT_STALLS_count : Fld := ⟨25, TIL_LR_SLOT_STALLS, 0, 64, .RO, .val 0⟩
/-- R105. -/
def TIL_LR_PROMOTIONS_count : Fld := ⟨26, TIL_LR_PROMOTIONS, 0, 64, .RO, .val 0⟩
/-- R105. -/
def TIL_LR_INTERLOCK_CYCLES_count : Fld := ⟨27, TIL_LR_INTERLOCK_CYCLES, 0, 64, .RO, .val 0⟩
/-- R105. -/
def TIL_LR_BALLAST_CYCLES_count : Fld := ⟨28, TIL_LR_BALLAST_CYCLES, 0, 64, .RO, .val 0⟩
/-- R105. -/
def TIL_LR_DRAIN_ELEMENTS_count : Fld := ⟨29, TIL_LR_DRAIN_ELEMENTS, 0, 64, .RO, .val 0⟩
/-- R105. -/
def TIL_LR_BAND_HIST_count : Fld := ⟨30, TIL_LR_BAND_HIST, 0, 64, .RO, .val 0⟩
/-- R143. -/
def TIL_CORE_CONTROL_run : Fld := ⟨31, TIL_CORE_CONTROL, 0, 1, .WO, .val 0⟩
/-- R143. -/
def TIL_CORE_CONTROL_halt : Fld := ⟨32, TIL_CORE_CONTROL, 1, 1, .WO, .val 0⟩
/-- R143. -/
def TIL_CORE_CONTROL_save : Fld := ⟨33, TIL_CORE_CONTROL, 2, 1, .WO, .val 0⟩
/-- R143. -/
def TIL_CORE_CONTROL_restore : Fld := ⟨34, TIL_CORE_CONTROL, 3, 1, .WO, .val 0⟩
/-- R143. -/
def TIL_CORE_CONTROL_step : Fld := ⟨35, TIL_CORE_CONTROL, 4, 1, .WO, .val 0⟩
/-- R144. -/
def TIL_CORE_STATUS_state : Fld := ⟨36, TIL_CORE_STATUS, 0, 3, .RO, .val 0⟩
/-- R144. -/
def TIL_CORE_STATUS_cause_valid : Fld := ⟨37, TIL_CORE_STATUS, 3, 1, .RO, .val 0⟩
/-- R144. -/
def TIL_CORE_STATUS_next_index : Fld := ⟨38, TIL_CORE_STATUS, 4, 16, .RO, .val 0⟩
/-- R144. -/
def TIL_CORE_STATUS_loops : Fld := ⟨39, TIL_CORE_STATUS, 20, 3, .RO, .val 0⟩
/-- R144. -/
def TIL_CORE_STATUS_replay : Fld := ⟨40, TIL_CORE_STATUS, 23, 4, .RO, .val 0⟩
/-- R144. -/
def TIL_CORE_STATUS_ctx_fault : Fld := ⟨41, TIL_CORE_STATUS, 27, 4, .RO, .val 0⟩
/-- R144. -/
def TIL_CORE_STATUS_ctx_fault_valid : Fld := ⟨42, TIL_CORE_STATUS, 31, 1, .W1C, .val 0⟩
/-- R143. -/
def TIL_CORE_CTX_ADDR_ctx_addr : Fld := ⟨43, TIL_CORE_CTX_ADDR, 9, 39, .RW, .cfg 0⟩
/-- R143. -/
def TIL_CORE_START_start : Fld := ⟨44, TIL_CORE_START, 0, 16, .RW, .val 0⟩
/-- R110. -/
def TIL_CS_STATUS_sov : Fld := ⟨45, TIL_CS_STATUS, 0, 1, .RO, .val 0⟩
/-- R110. -/
def TIL_CS_STATUS_dzero : Fld := ⟨46, TIL_CS_STATUS, 1, 1, .RO, .val 0⟩
/-- R110. -/
def TIL_CS_STATUS_sig_lost : Fld := ⟨47, TIL_CS_STATUS, 2, 1, .RO, .val 0⟩
/-- R110. -/
def TIL_CS_STATUS_sh_busy : Fld := ⟨48, TIL_CS_STATUS, 3, 1, .RO, .val 0⟩
/-- R142. -/
def TIL_CS_CAUSE_code : Fld := ⟨49, TIL_CS_CAUSE, 0, 8, .RO, .val 0⟩
/-- R142. -/
def TIL_CS_CAUSE_slot : Fld := ⟨50, TIL_CS_CAUSE, 8, 3, .RO, .val 0⟩
/-- R142. -/
def TIL_CS_CAUSE_deferred : Fld := ⟨51, TIL_CS_CAUSE, 11, 1, .RO, .val 0⟩
/-- R142. -/
def TIL_CS_CAUSE_valid : Fld := ⟨52, TIL_CS_CAUSE, 12, 1, .RO, .val 0⟩
/-- R142. -/
def TIL_CS_CAUSE_lr_suspended : Fld := ⟨53, TIL_CS_CAUSE, 13, 1, .RO, .val 0⟩
/-- R109. -/
def TIL_CS_EPC_val : Fld := ⟨54, TIL_CS_EPC, 0, 16, .RO, .val 0⟩
/-- R109. -/
def TIL_CS_EADDR_val : Fld := ⟨55, TIL_CS_EADDR, 0, 48, .RO, .val 0⟩
/-- R109. -/
def TIL_CS_LR_EPC_val : Fld := ⟨56, TIL_CS_LR_EPC, 0, 16, .RO, .val 0⟩
/-- R109. -/
def TIL_CS_TILE_ID_rank : Fld := ⟨57, TIL_CS_TILE_ID, 8, 8, .RO, .val 0⟩
/-- R109. -/
def TIL_CS_EVT_val : Fld := ⟨58, TIL_CS_EVT, 0, 64, .RO, .val 0⟩
/-- R109. -/
def TIL_CS_VSEED_val : Fld := ⟨59, TIL_CS_VSEED, 0, 64, .RO, .val 0⟩
/-- R109. -/
def TIL_CS_VTID_val : Fld := ⟨60, TIL_CS_VTID, 0, 32, .RO, .val 0⟩
/-- R109. -/
def TIL_CS_VFLAGS_val : Fld := ⟨61, TIL_CS_VFLAGS, 0, 8, .RO, .val 0⟩
/-- R109. -/
def TIL_CS_SHN_GRANT_LO_val : Fld := ⟨62, TIL_CS_SHN_GRANT_LO, 0, 64, .RO, .val 0⟩
/-- R109. -/
def TIL_CS_SHN_GRANT_HI_val : Fld := ⟨63, TIL_CS_SHN_GRANT_HI, 0, 64, .RO, .val 0⟩
/-- R109. -/
def TIL_CS_CMDARG_val : Fld := ⟨64, TIL_CS_CMDARG, 0, 48, .RO, .val 0⟩
/-- R215. -/
def MST_STATUS_ready : Fld := ⟨65, MST_STATUS, 0, 1, .RO, .val 0⟩
/-- R215. -/
def MST_STATUS_scrub_active : Fld := ⟨66, MST_STATUS, 1, 1, .RO, .val 0⟩
/-- R215. -/
def MST_STATUS_retraining : Fld := ⟨67, MST_STATUS, 2, 4, .RO, .val 0⟩
/-- R215. -/
def MST_STATUS_dev_fail : Fld := ⟨68, MST_STATUS, 6, 4, .RO, .val 0⟩
/-- R215. -/
def MST_STATUS_armed : Fld := ⟨69, MST_STATUS, 10, 8, .RO, .val 0⟩
/-- R215. -/
def MST_STATUS_push_full : Fld := ⟨70, MST_STATUS, 18, 1, .RO, .val 0⟩
/-- R215. -/
def MST_CONTROL_scrub_en : Fld := ⟨71, MST_CONTROL, 0, 1, .RW, .cfg 0⟩
/-- R215. -/
def MST_CONTROL_scrub_hours : Fld := ⟨72, MST_CONTROL, 1, 8, .RW, .cfg 0⟩
/-- R215. -/
def MST_CONTROL_retrain_ms : Fld := ⟨73, MST_CONTROL, 9, 10, .RW, .cfg 0⟩
/-- R215. -/
def MST_CONTROL_retrain_req : Fld := ⟨74, MST_CONTROL, 19, 1, .WO, .val 0⟩
/-- R215. -/
def MST_CONTROL_scrub_kick : Fld := ⟨75, MST_CONTROL, 20, 1, .WO, .val 0⟩
/-- R105. -/
def MST_CE_count : Fld := ⟨76, MST_CE, 0, 64, .RO, .val 0⟩
/-- R105. -/
def MST_UE_count : Fld := ⟨77, MST_UE, 0, 64, .RO, .val 0⟩
/-- R105. -/
def MST_POISON_READS_count : Fld := ⟨78, MST_POISON_READS, 0, 64, .RO, .val 0⟩
/-- R105. -/
def MST_LINK_RETRIES_count : Fld := ⟨79, MST_LINK_RETRIES, 0, 64, .RO, .val 0⟩
/-- R105. -/
def MST_ODECC_count : Fld := ⟨80, MST_ODECC, 0, 64, .RO, .val 0⟩
/-- R105. -/
def MST_SCRUB_PASSES_count : Fld := ⟨81, MST_SCRUB_PASSES, 0, 64, .RO, .val 0⟩
/-- R105. -/
def MST_RETRAINS_count : Fld := ⟨82, MST_RETRAINS, 0, 64, .RO, .val 0⟩
/-- R105. -/
def MST_PUSHES_count : Fld := ⟨83, MST_PUSHES, 0, 64, .RO, .val 0⟩
/-- R215. -/
def MST_ERR_HEAD_head : Fld := ⟨84, MST_ERR_HEAD, 0, 4, .RO, .val 0⟩
/-- R215. -/
def MST_ERR_HEAD_overflow : Fld := ⟨85, MST_ERR_HEAD, 4, 1, .W1C, .val 0⟩
/-- R215. -/
def MST_ERR_HEAD_pending : Fld := ⟨86, MST_ERR_HEAD, 5, 8, .RO, .val 0⟩
/-- R215. -/
def MST_ERR_HEAD_consumed : Fld := ⟨87, MST_ERR_HEAD, 13, 1, .WO, .val 0⟩
/-- R198. -/
def MST_ERR_LOG_LO_addr : Fld := ⟨88, MST_ERR_LOG_LO, 0, 48, .RO, .val 0⟩
/-- R198. -/
def MST_ERR_LOG_LO_kind : Fld := ⟨89, MST_ERR_LOG_LO, 48, 4, .RO, .val 0⟩
/-- R198. -/
def MST_ERR_LOG_LO_dev : Fld := ⟨90, MST_ERR_LOG_LO, 52, 2, .RO, .val 0⟩
/-- R198. -/
def MST_ERR_LOG_LO_symbol : Fld := ⟨91, MST_ERR_LOG_LO, 54, 7, .RO, .val 0⟩
/-- R198. -/
def MST_ERR_LOG_LO_source : Fld := ⟨92, MST_ERR_LOG_LO, 61, 3, .RO, .val 0⟩
/-- R198. -/
def MST_ERR_LOG_HI_rtime : Fld := ⟨93, MST_ERR_LOG_HI, 0, 64, .RO, .val 0⟩
/-- R215. -/
def MST_COW_BASE_base : Fld := ⟨94, MST_COW_BASE, 12, 36, .RO, .val 0⟩
/-- R215. -/
def MST_COW_LIMIT_limit : Fld := ⟨95, MST_COW_LIMIT, 12, 36, .RO, .val 0⟩
/-- R215. -/
def MST_COW_DEST_dest : Fld := ⟨96, MST_COW_DEST, 0, 48, .RO, .val 0⟩
/-- R215. -/
def MST_COW_CURSOR_cursor : Fld := ⟨97, MST_COW_CURSOR, 6, 42, .RO, .val 0⟩
/-- R215. -/
def MST_COW_DEST_CTL_coord : Fld := ⟨98, MST_COW_DEST_CTL, 0, 18, .RO, .val 0⟩
/-- R215. -/
def MST_COW_DEST_CTL_remote : Fld := ⟨99, MST_COW_DEST_CTL, 18, 1, .RO, .val 0⟩
/-- R215. -/
def MST_COW_DEST_CTL_host : Fld := ⟨100, MST_COW_DEST_CTL, 19, 1, .RO, .val 0⟩
/-- R183. -/
def MST_EXP_STATUS_train_busy : Fld := ⟨101, MST_EXP_STATUS, 0, 1, .RO, .val 0⟩
/-- R183. -/
def MST_EXP_STATUS_siding_busy : Fld := ⟨102, MST_EXP_STATUS, 1, 1, .RO, .val 0⟩
/-- R183. -/
def MST_EXP_STATUS_streaming_queue : Fld := ⟨103, MST_EXP_STATUS, 2, 1, .RO, .val 0⟩
/-- R183. -/
def MST_EXP_STATUS_slab : Fld := ⟨104, MST_EXP_STATUS, 3, 20, .RO, .val 0⟩
/-- R183. -/
def MST_EXP_STATUS_last_status : Fld := ⟨105, MST_EXP_STATUS, 23, 4, .RO, .val 0⟩
/-- R183. -/
def MST_EXP_STATUS_status_valid : Fld := ⟨106, MST_EXP_STATUS, 27, 1, .W1C, .val 0⟩
/-- R105. -/
def MST_EXP_BYTES_count : Fld := ⟨107, MST_EXP_BYTES, 0, 64, .RO, .val 0⟩
/-- R105. -/
def MST_EXP_STEP_CYCLES_count : Fld := ⟨108, MST_EXP_STEP_CYCLES, 0, 64, .RO, .val 0⟩
/-- R105. -/
def MST_EXP_SPILL_CYCLES_count : Fld := ⟨109, MST_EXP_SPILL_CYCLES, 0, 64, .RO, .val 0⟩
/-- R105. -/
def MST_EXP_WIDE_count : Fld := ⟨110, MST_EXP_WIDE, 0, 64, .RO, .val 0⟩
/-- R105. -/
def MST_EXP_SIDING_BYTES_count : Fld := ⟨111, MST_EXP_SIDING_BYTES, 0, 64, .RO, .val 0⟩
/-- R216. -/
def MST_PROT_LO_rd_mask : Fld := ⟨112, MST_PROT_LO, 0, 6, .RWL, .cfg 0⟩
/-- R216. -/
def MST_PROT_LO_wr_mask : Fld := ⟨113, MST_PROT_LO, 6, 6, .RWL, .cfg 0⟩
/-- R216. -/
def MST_PROT_LO_base : Fld := ⟨114, MST_PROT_LO, 12, 36, .RWL, .cfg 0⟩
/-- R216. -/
def MST_PROT_HI_valid : Fld := ⟨115, MST_PROT_HI, 0, 1, .RWL, .cfg 0⟩
/-- R216. -/
def MST_PROT_HI_limit : Fld := ⟨116, MST_PROT_HI, 12, 36, .RWL, .cfg 0⟩
/-- R216. -/
def MST_PROT_VIOL_addr : Fld := ⟨117, MST_PROT_VIOL, 0, 48, .RO, .val 0⟩
/-- R216. -/
def MST_PROT_VIOL_source : Fld := ⟨118, MST_PROT_VIOL, 48, 3, .RO, .val 0⟩
/-- R216. -/
def MST_PROT_VIOL_write : Fld := ⟨119, MST_PROT_VIOL, 51, 1, .RO, .val 0⟩
/-- R216. -/
def MST_PROT_VIOL_valid : Fld := ⟨120, MST_PROT_VIOL, 52, 1, .W1C, .val 0⟩
/-- R216. -/
def MST_PROT_COUNT_count : Fld := ⟨121, MST_PROT_COUNT, 0, 64, .RO, .val 0⟩
/-- R216. -/
def MST_CXL_STATUS_present : Fld := ⟨122, MST_CXL_STATUS, 0, 1, .RO, .val 0⟩
/-- R216. -/
def MST_CXL_STATUS_link_up : Fld := ⟨123, MST_CXL_STATUS, 1, 1, .RO, .val 0⟩
/-- R216. -/
def MST_CXL_STATUS_degraded : Fld := ⟨124, MST_CXL_STATUS, 2, 1, .RO, .val 0⟩
/-- R216. -/
def MST_CXL_STATUS_id_mismatch : Fld := ⟨125, MST_CXL_STATUS, 3, 1, .RO, .val 0⟩
/-- R216. -/
def MST_CXL_STATUS_cap_256m : Fld := ⟨126, MST_CXL_STATUS, 4, 14, .RO, .val 0⟩
/-- R105. -/
def MST_CXL_POISON_count : Fld := ⟨127, MST_CXL_POISON, 0, 64, .RO, .val 0⟩
/-- R105. -/
def MST_CXL_LOST_count : Fld := ⟨128, MST_CXL_LOST, 0, 64, .RO, .val 0⟩
/-- R105. -/
def MST_CXL_ID_data : Fld := ⟨129, MST_CXL_ID, 0, 64, .RO, .val 0⟩
/-- R234. -/
def SHN_CH_SRC_src : Fld := ⟨130, SHN_CH_SRC, 0, 48, .RW, .val 0⟩
/-- R234. -/
def SHN_CH_DST_dst : Fld := ⟨131, SHN_CH_DST, 0, 48, .RW, .val 0⟩
/-- R234. -/
def SHN_CH_COUNT_count : Fld := ⟨132, SHN_CH_COUNT, 0, 32, .RW, .val 0⟩
/-- R234. -/
def SHN_CH_CONTROL_start : Fld := ⟨133, SHN_CH_CONTROL, 0, 1, .WO, .val 0⟩
/-- R234. -/
def SHN_CH_CONTROL_start_chain : Fld := ⟨134, SHN_CH_CONTROL, 1, 1, .WO, .val 0⟩
/-- R234. -/
def SHN_CH_CONTROL_stop : Fld := ⟨135, SHN_CH_CONTROL, 2, 1, .WO, .val 0⟩
/-- R234. -/
def SHN_CH_CONTROL_resume : Fld := ⟨136, SHN_CH_CONTROL, 3, 1, .WO, .val 0⟩
/-- R234. -/
def SHN_CH_CONTROL_clear : Fld := ⟨137, SHN_CH_CONTROL, 4, 1, .WO, .val 0⟩
/-- R234. -/
def SHN_CH_CONTROL_irq_en : Fld := ⟨138, SHN_CH_CONTROL, 5, 1, .RW, .val 0⟩
/-- R234. -/
def SHN_CH_CHAIN_chain : Fld := ⟨139, SHN_CH_CHAIN, 0, 48, .RW, .val 0⟩
/-- R235. -/
def SHN_CH_STATUS_state : Fld := ⟨140, SHN_CH_STATUS, 0, 3, .RO, .val 0⟩
/-- R235. -/
def SHN_CH_STATUS_start_refused : Fld := ⟨141, SHN_CH_STATUS, 3, 1, .W1C, .val 0⟩
/-- R235. -/
def SHN_CH_STATUS_tile_started : Fld := ⟨142, SHN_CH_STATUS, 4, 1, .RO, .val 0⟩
/-- R235. -/
def SHN_CH_STATUS_starter : Fld := ⟨143, SHN_CH_STATUS, 5, 8, .RO, .val 0⟩
/-- R235. -/
def SHN_CH_STATUS_starter_hi : Fld := ⟨144, SHN_CH_STATUS, 13, 1, .RO, .val 0⟩
/-- R235. -/
def SHN_CH_STATUS_flags : Fld := ⟨145, SHN_CH_STATUS, 14, 8, .RO, .val 0⟩
/-- R235. -/
def SHN_CH_STATUS_done : Fld := ⟨146, SHN_CH_STATUS, 32, 32, .RO, .val 0⟩
/-- R235. -/
def SHN_CH_CUR_cur : Fld := ⟨147, SHN_CH_CUR, 0, 48, .RO, .val 0⟩
/-- R235. -/
def SHN_CH_ERR_code : Fld := ⟨148, SHN_CH_ERR, 0, 3, .RO, .val 0⟩
/-- R235. -/
def SHN_CH_ERR_valid : Fld := ⟨149, SHN_CH_ERR, 3, 1, .W1C, .val 0⟩
/-- R235. -/
def SHN_CH_ERR_addr : Fld := ⟨150, SHN_CH_ERR, 16, 48, .RO, .val 0⟩
/-- R105. -/
def SHN_CH_BYTES_count : Fld := ⟨151, SHN_CH_BYTES, 0, 64, .RO, .val 0⟩
/-- R259. -/
def ULP_STATUS_state : Fld := ⟨152, ULP_STATUS, 0, 4, .RO, .val 0⟩
/-- R259. -/
def ULP_STATUS_width8 : Fld := ⟨153, ULP_STATUS, 4, 1, .RO, .val 0⟩
/-- R259. -/
def ULP_STATUS_upper : Fld := ⟨154, ULP_STATUS, 5, 1, .RO, .val 0⟩
/-- R259. -/
def ULP_STATUS_fail_reason : Fld := ⟨155, ULP_STATUS, 6, 4, .RO, .val 0⟩
/-- R259. -/
def ULP_STATUS_fail_valid : Fld := ⟨156, ULP_STATUS, 10, 1, .W1C, .val 0⟩
/-- R259. -/
def ULP_STATUS_closed : Fld := ⟨157, ULP_STATUS, 11, 1, .RO, .val 0⟩
/-- R259. -/
def ULP_STATUS_on : Fld := ⟨158, ULP_STATUS, 12, 6, .RO, .val 0⟩
/-- R259. -/
def ULP_STATUS_peer_closed : Fld := ⟨159, ULP_STATUS, 18, 1, .RO, .val 0⟩
/-- R259. -/
def ULP_STATUS_peer_on : Fld := ⟨160, ULP_STATUS, 19, 6, .RO, .val 0⟩
/-- R259. -/
def ULP_STATUS_present : Fld := ⟨161, ULP_STATUS, 25, 1, .RO, .val 0⟩
/-- R259. -/
def ULP_CONTROL_enable : Fld := ⟨162, ULP_CONTROL, 0, 1, .RW, .cfg 0⟩
/-- R259. -/
def ULP_CONTROL_retrain : Fld := ⟨163, ULP_CONTROL, 1, 1, .WO, .val 0⟩
/-- R259. -/
def ULP_CONTROL_degrade_en : Fld := ⟨164, ULP_CONTROL, 2, 1, .RW, .cfg 0⟩
/-- R259. -/
def ULP_CONTROL_keep_awake : Fld := ⟨165, ULP_CONTROL, 3, 1, .RW, .cfg 0⟩
/-- R259. -/
def ULP_CONTROL_auto_retrain : Fld := ⟨166, ULP_CONTROL, 4, 1, .RW, .val 1⟩
/-- R259. -/
def ULP_CONTROL_nap_idle : Fld := ⟨167, ULP_CONTROL, 5, 16, .RW, .cfg 0⟩
/-- R260. -/
def ULP_ROLE_role : Fld := ⟨168, ULP_ROLE, 0, 4, .RWL, .cfgBy [1, 2, 3, 4, 5, 6, 7, 8, 1, 2, 3, 4, 5, 6, 7, 9]⟩
/-- R260. -/
def ULP_ROLE_letter : Fld := ⟨169, ULP_ROLE, 4, 1, .RWL, .cfgBy [0, 0, 0, 0, 0, 0, 0, 0, 1, 1, 1, 1, 1, 1, 1, 0]⟩
/-- R260. -/
def ULP_LANEMAP_TX0_map : Fld := ⟨170, ULP_LANEMAP_TX0, 0, 40, .RWL, .cfg 0⟩
/-- R260. -/
def ULP_LANEMAP_TX1_map : Fld := ⟨171, ULP_LANEMAP_TX1, 0, 40, .RWL, .cfg 0⟩
/-- R260. -/
def ULP_LANEMAP_RX0_map : Fld := ⟨172, ULP_LANEMAP_RX0, 0, 40, .RWL, .cfg 0⟩
/-- R260. -/
def ULP_LANEMAP_RX1_map : Fld := ⟨173, ULP_LANEMAP_RX1, 0, 40, .RWL, .cfg 0⟩
/-- R260. -/
def ULP_FC_CONFIG_res0 : Fld := ⟨174, ULP_FC_CONFIG, 0, 10, .RWL, .cfg 64⟩
/-- R260. -/
def ULP_FC_CONFIG_res1 : Fld := ⟨175, ULP_FC_CONFIG, 10, 10, .RWL, .cfg 64⟩
/-- R260. -/
def ULP_FC_CONFIG_res2 : Fld := ⟨176, ULP_FC_CONFIG, 20, 10, .RWL, .cfg 64⟩
/-- R260. -/
def ULP_FC_CONFIG_res3 : Fld := ⟨177, ULP_FC_CONFIG, 30, 10, .RWL, .cfg 64⟩
/-- R260. -/
def ULP_FC_CONFIG_res4 : Fld := ⟨178, ULP_FC_CONFIG, 40, 10, .RWL, .cfg 64⟩
/-- R260. -/
def ULP_FC_CONFIG_res5 : Fld := ⟨179, ULP_FC_CONFIG, 50, 10, .RWL, .cfg 64⟩
/-- R105. -/
def ULP_CABLE_data : Fld := ⟨180, ULP_CABLE, 0, 64, .RO, .val 0⟩
/-- R261. -/
def ULP_PEER_coord : Fld := ⟨181, ULP_PEER, 0, 18, .RO, .val 0⟩
/-- R261. -/
def ULP_PEER_role : Fld := ⟨182, ULP_PEER, 18, 4, .RO, .val 0⟩
/-- R261. -/
def ULP_PEER_letter : Fld := ⟨183, ULP_PEER, 22, 1, .RO, .val 0⟩
/-- R261. -/
def ULP_PEER_valid : Fld := ⟨184, ULP_PEER, 23, 1, .RO, .val 0⟩
/-- R261. -/
def ULP_RTT_rtt : Fld := ⟨185, ULP_RTT, 0, 16, .RO, .val 0⟩
/-- R261. -/
def ULP_RTT_rtt_min : Fld := ⟨186, ULP_RTT, 16, 16, .RO, .val 0⟩
/-- R260. -/
def ULP_FC_CAP_cap0 : Fld := ⟨187, ULP_FC_CAP, 0, 10, .RW, .cfg 0⟩
/-- R260. -/
def ULP_FC_CAP_cap1 : Fld := ⟨188, ULP_FC_CAP, 10, 10, .RW, .cfg 0⟩
/-- R260. -/
def ULP_FC_CAP_cap2 : Fld := ⟨189, ULP_FC_CAP, 20, 10, .RW, .cfg 0⟩
/-- R260. -/
def ULP_FC_CAP_cap3 : Fld := ⟨190, ULP_FC_CAP, 30, 10, .RW, .cfg 0⟩
/-- R260. -/
def ULP_FC_CAP_cap4 : Fld := ⟨191, ULP_FC_CAP, 40, 10, .RW, .cfg 0⟩
/-- R260. -/
def ULP_FC_CAP_cap5 : Fld := ⟨192, ULP_FC_CAP, 50, 10, .RW, .cfg 0⟩
/-- R261. -/
def ULP_FC_STATUS_skid : Fld := ⟨193, ULP_FC_STATUS, 0, 16, .RO, .val 0⟩
/-- R261. -/
def ULP_FC_STATUS_off_t : Fld := ⟨194, ULP_FC_STATUS, 16, 16, .RO, .val 0⟩
/-- R261. -/
def ULP_FC_STATUS_used : Fld := ⟨195, ULP_FC_STATUS, 32, 16, .RO, .val 0⟩
/-- R261. -/
def ULP_FC_STATUS_peak : Fld := ⟨196, ULP_FC_STATUS, 48, 16, .RO, .val 0⟩
/-- R105. -/
def ULP_CW_count : Fld := ⟨197, ULP_CW, 0, 64, .RO, .val 0⟩
/-- R105. -/
def ULP_CW_CORR_count : Fld := ⟨198, ULP_CW_CORR, 0, 64, .RO, .val 0⟩
/-- R105. -/
def ULP_SYM_CORR_count : Fld := ⟨199, ULP_SYM_CORR, 0, 64, .RO, .val 0⟩
/-- R105. -/
def ULP_CW_UNCORR_count : Fld := ⟨200, ULP_CW_UNCORR, 0, 64, .RO, .val 0⟩
/-- R105. -/
def ULP_REPLAYS_count : Fld := ⟨201, ULP_REPLAYS, 0, 64, .RO, .val 0⟩
/-- R105. -/
def ULP_TX_CELLS_count : Fld := ⟨202, ULP_TX_CELLS, 0, 64, .RO, .val 0⟩
/-- R105. -/
def ULP_RX_CELLS_count : Fld := ⟨203, ULP_RX_CELLS, 0, 64, .RO, .val 0⟩
/-- R105. -/
def ULP_CLOSES_count : Fld := ⟨204, ULP_CLOSES, 0, 64, .RO, .val 0⟩
/-- R105. -/
def ULP_OVERRUN_count : Fld := ⟨205, ULP_OVERRUN, 0, 64, .RO, .val 0⟩
/-- R105. -/
def ULP_TUNES_count : Fld := ⟨206, ULP_TUNES, 0, 64, .RO, .val 0⟩
/-- R105. -/
def ULP_RETRAINS_count : Fld := ⟨207, ULP_RETRAINS, 0, 64, .RO, .val 0⟩
/-- R105. -/
def ULP_LOST_PACKETS_count : Fld := ⟨208, ULP_LOST_PACKETS, 0, 64, .RO, .val 0⟩
/-- R105. -/
def ULP_BAD_CTL_count : Fld := ⟨209, ULP_BAD_CTL, 0, 64, .RO, .val 0⟩
/-- R283. -/
def RTR_STATUS_stamp : Fld := ⟨210, RTR_STATUS, 0, 1, .RO, .cfg 0⟩
/-- R283. -/
def RTR_STATUS_valid_a : Fld := ⟨211, RTR_STATUS, 1, 1, .RO, .cfg 0⟩
/-- R283. -/
def RTR_STATUS_valid_b : Fld := ⟨212, RTR_STATUS, 2, 1, .RO, .val 0⟩
/-- R283. -/
def RTR_STATUS_rate_entries : Fld := ⟨213, RTR_STATUS, 3, 10, .RO, .val 0⟩
/-- R283. -/
def RTR_STATUS_map_busy : Fld := ⟨214, RTR_STATUS, 13, 1, .RO, .val 0⟩
/-- R283. -/
def RTR_CONTROL_stamp : Fld := ⟨215, RTR_CONTROL, 0, 1, .RW, .cfg 0⟩
/-- R283. -/
def RTR_CONTROL_adopt : Fld := ⟨216, RTR_CONTROL, 1, 1, .RW, .val 0⟩
/-- R283. -/
def RTR_CONTROL_caution_cells : Fld := ⟨217, RTR_CONTROL, 2, 16, .RW, .cfg 4096⟩
/-- R283. -/
def RTR_CONTROL_escape_wait : Fld := ⟨218, RTR_CONTROL, 18, 10, .RW, .cfg 256⟩
/-- R283. -/
def RTR_COORD_coord : Fld := ⟨219, RTR_COORD, 0, 18, .RWL, .cfg 0⟩
/-- R284. -/
def RTR_RATE_CONFIG_dec : Fld := ⟨220, RTR_RATE_CONFIG, 0, 4, .RW, .cfg 4⟩
/-- R284. -/
def RTR_RATE_CONFIG_inc : Fld := ⟨221, RTR_RATE_CONFIG, 4, 8, .RW, .cfg 8⟩
/-- R284. -/
def RTR_RATE_CONFIG_rec_us : Fld := ⟨222, RTR_RATE_CONFIG, 12, 10, .RW, .cfg 10⟩
/-- R284. -/
def RTR_RATE_CONFIG_hold_us : Fld := ⟨223, RTR_RATE_CONFIG, 22, 10, .RW, .cfg 2⟩
/-- R284. -/
def RTR_RATE_CONFIG_r_min : Fld := ⟨224, RTR_RATE_CONFIG, 32, 8, .RW, .cfg 8⟩
/-- R284. -/
def RTR_RATE_CONFIG_echo_gap_us : Fld := ⟨225, RTR_RATE_CONFIG, 40, 10, .RW, .cfg 1⟩
/-- R284. -/
def RTR_TT_CTL_valid : Fld := ⟨226, RTR_TT_CTL, 0, 1, .RW, .cfgA 0⟩
/-- R284. -/
def RTR_TT_CTL_dateline_x : Fld := ⟨227, RTR_TT_CTL, 1, 6, .RW, .cfgA 63⟩
/-- R284. -/
def RTR_TT_CTL_dateline_y : Fld := ⟨228, RTR_TT_CTL, 7, 6, .RW, .cfgA 63⟩
/-- R284. -/
def RTR_TT_CTL_dateline_z : Fld := ⟨229, RTR_TT_CTL, 13, 5, .RW, .cfgA 31⟩
/-- R284. -/
def RTR_TT_CTL_port_mask : Fld := ⟨230, RTR_TT_CTL, 18, 16, .RW, .cfgA 0⟩
/-- R284. -/
def RTR_TT_REDIR_from : Fld := ⟨231, RTR_TT_REDIR, 0, 18, .RW, .val 0⟩
/-- R284. -/
def RTR_TT_REDIR_to : Fld := ⟨232, RTR_TT_REDIR, 18, 18, .RW, .val 0⟩
/-- R284. -/
def RTR_TT_REDIR_valid : Fld := ⟨233, RTR_TT_REDIR, 36, 1, .RW, .val 0⟩
/-- R105. -/
def RTR_INJ_count : Fld := ⟨234, RTR_INJ, 0, 64, .RO, .val 0⟩
/-- R105. -/
def RTR_EJ_count : Fld := ⟨235, RTR_EJ, 0, 64, .RO, .val 0⟩
/-- R105. -/
def RTR_DROP_count : Fld := ⟨236, RTR_DROP, 0, 64, .RO, .val 0⟩
/-- R105. -/
def RTR_ESCAPES_count : Fld := ⟨237, RTR_ESCAPES, 0, 64, .RO, .val 0⟩
/-- R105. -/
def RTR_CAUTION_SET_count : Fld := ⟨238, RTR_CAUTION_SET, 0, 64, .RO, .val 0⟩
/-- R105. -/
def RTR_ECHO_SENT_count : Fld := ⟨239, RTR_ECHO_SENT, 0, 64, .RO, .val 0⟩
/-- R105. -/
def RTR_ECHO_RCVD_count : Fld := ⟨240, RTR_ECHO_RCVD, 0, 64, .RO, .val 0⟩
/-- R105. -/
def RTR_RATE_EVICT_count : Fld := ⟨241, RTR_RATE_EVICT, 0, 64, .RO, .val 0⟩
/-- R283. -/
def RTR_MAP_CONTROL_latch : Fld := ⟨242, RTR_MAP_CONTROL, 0, 1, .WO, .val 0⟩
/-- R283. -/
def RTR_MAP_CONTROL_clear : Fld := ⟨243, RTR_MAP_CONTROL, 1, 1, .WO, .val 0⟩
/-- R310. -/
def COL_STATUS_bound : Fld := ⟨244, COL_STATUS, 0, 9, .RO, .val 0⟩
/-- R310. -/
def COL_STATUS_hold_full : Fld := ⟨245, COL_STATUS, 9, 1, .RO, .val 0⟩
/-- R310. -/
def COL_STATUS_held : Fld := ⟨246, COL_STATUS, 10, 19, .RO, .val 0⟩
/-- R310. -/
def COL_CONTROL_hold_us : Fld := ⟨247, COL_CONTROL, 0, 16, .RW, .cfg 1000⟩
/-- R311. -/
def COL_CID_state : Fld := ⟨248, COL_CID, 0, 3, .RO, .val 0⟩
/-- R311. -/
def COL_CID_epoch : Fld := ⟨249, COL_CID, 3, 1, .RO, .val 0⟩
/-- R311. -/
def COL_CID_kind : Fld := ⟨250, COL_CID, 4, 2, .RO, .val 0⟩
/-- R311. -/
def COL_CID_reports : Fld := ⟨251, COL_CID, 6, 32, .RO, .val 0⟩
/-- R311. -/
def COL_CID_last_code : Fld := ⟨252, COL_CID, 38, 4, .RO, .val 0⟩
/-- R311. -/
def COL_CID_code_valid : Fld := ⟨253, COL_CID, 42, 1, .W1C, .val 0⟩
/-- R105. -/
def COL_CONTRIB_count : Fld := ⟨254, COL_CONTRIB, 0, 64, .RO, .val 0⟩
/-- R105. -/
def COL_WIDEN_count : Fld := ⟨255, COL_WIDEN, 0, 64, .RO, .val 0⟩
/-- R105. -/
def COL_ZERO_count : Fld := ⟨256, COL_ZERO, 0, 64, .RO, .val 0⟩
/-- R105. -/
def COL_STRAY_count : Fld := ⟨257, COL_STRAY, 0, 64, .RO, .val 0⟩
/-- R105. -/
def COL_STALE_count : Fld := ⟨258, COL_STALE, 0, 64, .RO, .val 0⟩
/-- R105. -/
def COL_BAD_count : Fld := ⟨259, COL_BAD, 0, 64, .RO, .val 0⟩
/-- R105. -/
def COL_REPLAYS_count : Fld := ⟨260, COL_REPLAYS, 0, 64, .RO, .val 0⟩
/-- R105. -/
def COL_TIMEOUTS_count : Fld := ⟨261, COL_TIMEOUTS, 0, 64, .RO, .val 0⟩
/-- R105. -/
def COL_VOTES_count : Fld := ⟨262, COL_VOTES, 0, 64, .RO, .val 0⟩
/-- R105. -/
def COL_EXPELLED_count : Fld := ⟨263, COL_EXPELLED, 0, 64, .RO, .val 0⟩
/-- R339. -/
def CUT_STATUS_state : Fld := ⟨264, CUT_STATUS, 0, 3, .RO, .val 0⟩
/-- R339. -/
def CUT_STATUS_sweeping : Fld := ⟨265, CUT_STATUS, 3, 1, .RO, .val 0⟩
/-- R339. -/
def CUT_STATUS_cut_id : Fld := ⟨266, CUT_STATUS, 4, 16, .RO, .val 0⟩
/-- R339. -/
def CUT_STATUS_reason : Fld := ⟨267, CUT_STATUS, 20, 4, .RO, .val 0⟩
/-- R339. -/
def CUT_STATUS_rt_ok : Fld := ⟨268, CUT_STATUS, 24, 1, .RO, .val 0⟩
/-- R339. -/
def CUT_STATUS_log_open : Fld := ⟨269, CUT_STATUS, 25, 1, .RO, .val 0⟩
/-- R339. -/
def CUT_STATUS_tail_wait : Fld := ⟨270, CUT_STATUS, 26, 16, .RO, .val 0⟩
/-- R339. -/
def CUT_STATUS_quiet : Fld := ⟨271, CUT_STATUS, 42, 1, .RO, .val 0⟩
/-- R339. -/
def CUT_STATUS_event : Fld := ⟨272, CUT_STATUS, 43, 1, .W1C, .val 0⟩
/-- R339. -/
def CUT_CONTROL_abandon : Fld := ⟨273, CUT_CONTROL, 0, 1, .WO, .val 0⟩
/-- R339. -/
def CUT_CONTROL_restore : Fld := ⟨274, CUT_CONTROL, 1, 1, .WO, .val 0⟩
/-- R339. -/
def CUT_CONTROL_mirror_en : Fld := ⟨275, CUT_CONTROL, 2, 1, .RW, .cfg 0⟩
/-- R339. -/
def CUT_CONTROL_drain_pace : Fld := ⟨276, CUT_CONTROL, 3, 4, .RW, .cfg 2⟩
/-- R339. -/
def CUT_CONTROL_resync : Fld := ⟨277, CUT_CONTROL, 7, 1, .WO, .val 0⟩
/-- R340. -/
def CUT_RTIME_rtime : Fld := ⟨278, CUT_RTIME, 0, 64, .RW, .val 0⟩
/-- R340. -/
def CUT_RT_CONFIG_root : Fld := ⟨279, CUT_RT_CONFIG, 0, 1, .RW, .cfg 0⟩
/-- R340. -/
def CUT_RT_CONFIG_parent : Fld := ⟨280, CUT_RT_CONFIG, 1, 4, .RW, .cfg 0⟩
/-- R340. -/
def CUT_RT_CONFIG_alt : Fld := ⟨281, CUT_RT_CONFIG, 5, 4, .RW, .cfg 0⟩
/-- R340. -/
def CUT_RT_CONFIG_alt_valid : Fld := ⟨282, CUT_RT_CONFIG, 9, 1, .RW, .cfg 0⟩
/-- R340. -/
def CUT_RT_STATUS_locked : Fld := ⟨283, CUT_RT_STATUS, 0, 1, .RO, .val 0⟩
/-- R340. -/
def CUT_RT_STATUS_depth : Fld := ⟨284, CUT_RT_STATUS, 1, 7, .RO, .val 0⟩
/-- R340. -/
def CUT_RT_STATUS_on_alt : Fld := ⟨285, CUT_RT_STATUS, 8, 1, .RO, .val 0⟩
/-- R340. -/
def CUT_RT_STATUS_theta : Fld := ⟨286, CUT_RT_STATUS, 16, 16, .RO, .val 0⟩
/-- R340. -/
def CUT_RT_STATUS_delay : Fld := ⟨287, CUT_RT_STATUS, 32, 16, .RO, .val 0⟩
/-- R340. -/
def CUT_ORDER_TIME_cut_time : Fld := ⟨288, CUT_ORDER_TIME, 0, 64, .RW, .val 0⟩
/-- R340. -/
def CUT_ORDER_SNAP_snap : Fld := ⟨289, CUT_ORDER_SNAP, 0, 48, .RW, .val 0⟩
/-- R340. -/
def CUT_ORDER_cut_id : Fld := ⟨290, CUT_ORDER, 0, 16, .WO, .val 0⟩
/-- R340. -/
def CUT_RESTORE_rec : Fld := ⟨291, CUT_RESTORE, 0, 48, .RW, .val 0⟩
/-- R340. -/
def CUT_RESTORE_adopt : Fld := ⟨292, CUT_RESTORE, 48, 1, .RW, .val 0⟩
/-- R340. -/
def CUT_RESUME_TIME_resume : Fld := ⟨293, CUT_RESUME_TIME, 0, 64, .RW, .val 0⟩
/-- R341. -/
def CUT_MIR_BASE_valid : Fld := ⟨294, CUT_MIR_BASE, 0, 1, .RW, .val 0⟩
/-- R341. -/
def CUT_MIR_BASE_gap : Fld := ⟨295, CUT_MIR_BASE, 1, 1, .RO, .val 0⟩
/-- R341. -/
def CUT_MIR_BASE_base : Fld := ⟨296, CUT_MIR_BASE, 12, 36, .RW, .val 0⟩
/-- R341. -/
def CUT_MIR_LIMIT_limit : Fld := ⟨297, CUT_MIR_LIMIT, 12, 36, .RW, .val 0⟩
/-- R341. -/
def CUT_MIR_TWIN_twin : Fld := ⟨298, CUT_MIR_TWIN, 12, 36, .RW, .val 0⟩
/-- R341. -/
def CUT_ADOPT_BASE_valid : Fld := ⟨299, CUT_ADOPT_BASE, 0, 1, .RW, .val 0⟩
/-- R341. -/
def CUT_ADOPT_BASE_base : Fld := ⟨300, CUT_ADOPT_BASE, 12, 36, .RW, .val 0⟩
/-- R341. -/
def CUT_ADOPT_LIMIT_limit : Fld := ⟨301, CUT_ADOPT_LIMIT, 12, 36, .RW, .val 0⟩
/-- R341. -/
def CUT_ADOPT_LOCAL_local : Fld := ⟨302, CUT_ADOPT_LOCAL, 12, 36, .RW, .val 0⟩
/-- R105. -/
def CUT_CUTS_count : Fld := ⟨303, CUT_CUTS, 0, 64, .RO, .val 0⟩
/-- R105. -/
def CUT_REFUSALS_count : Fld := ⟨304, CUT_REFUSALS, 0, 64, .RO, .val 0⟩
/-- R105. -/
def CUT_LOG_ENTRIES_count : Fld := ⟨305, CUT_LOG_ENTRIES, 0, 64, .RO, .val 0⟩
/-- R105. -/
def CUT_LOG_BYTES_count : Fld := ⟨306, CUT_LOG_BYTES, 0, 64, .RO, .val 0⟩
/-- R105. -/
def CUT_MIR_BYTES_count : Fld := ⟨307, CUT_MIR_BYTES, 0, 64, .RO, .val 0⟩
/-- R105. -/
def CUT_MIR_GAPS_count : Fld := ⟨308, CUT_MIR_GAPS, 0, 64, .RO, .val 0⟩
/-- R105. -/
def CUT_RT_EXCHANGES_count : Fld := ⟨309, CUT_RT_EXCHANGES, 0, 64, .RO, .val 0⟩
/-- R105. -/
def CUT_RT_LOSSES_count : Fld := ⟨310, CUT_RT_LOSSES, 0, 64, .RO, .val 0⟩
/-- R361. -/
def ITG_STATUS_replay_pending : Fld := ⟨311, ITG_STATUS, 0, 1, .RO, .val 0⟩
/-- R361. -/
def ITG_STATUS_evt_overflow : Fld := ⟨312, ITG_STATUS, 1, 1, .W1C, .val 0⟩
/-- R361. -/
def ITG_STATUS_enabled : Fld := ⟨313, ITG_STATUS, 2, 8, .RO, .cfg 0⟩
/-- R361. -/
def ITG_STATUS_spares : Fld := ⟨314, ITG_STATUS, 10, 4, .RO, .cfg 0⟩
/-- R361. -/
def ITG_STATUS_poss_west : Fld := ⟨315, ITG_STATUS, 14, 8, .RO, .val 255⟩
/-- R361. -/
def ITG_STATUS_poss_east : Fld := ⟨316, ITG_STATUS, 22, 8, .RO, .val 255⟩
/-- R361. -/
def ITG_CONTROL_dup_period : Fld := ⟨317, ITG_CONTROL, 0, 16, .RW, .cfg 256⟩
/-- R361. -/
def ITG_CONTROL_poss_ms : Fld := ⟨318, ITG_CONTROL, 16, 16, .RW, .cfg 1000⟩
/-- R361. -/
def ITG_CONTROL_suspect_limit : Fld := ⟨319, ITG_CONTROL, 32, 4, .RW, .cfg 2⟩
/-- R361. -/
def ITG_CONTROL_rank_shift : Fld := ⟨320, ITG_CONTROL, 36, 8, .RW, .val 0⟩
/-- R361. -/
def ITG_CONTROL_replay_done : Fld := ⟨321, ITG_CONTROL, 44, 1, .WO, .val 0⟩
/-- R361. -/
def ITG_POSS_REQ_tile : Fld := ⟨322, ITG_POSS_REQ, 0, 8, .WO, .val 0⟩
/-- R361. -/
def ITG_POSS_REQ_force : Fld := ⟨323, ITG_POSS_REQ, 8, 1, .WO, .val 0⟩
/-- R361. -/
def ITG_POSS_REQ_cal_only : Fld := ⟨324, ITG_POSS_REQ, 9, 1, .WO, .val 0⟩
/-- R361. -/
def ITG_DUP_SEED_dup_seed : Fld := ⟨325, ITG_DUP_SEED, 0, 64, .RW, .cfg 0⟩
/-- R361. -/
def ITG_DUP_BASE_base : Fld := ⟨326, ITG_DUP_BASE, 21, 27, .RWL, .cfg 0⟩
/-- R361. -/
def ITG_POSS_BASE_base : Fld := ⟨327, ITG_POSS_BASE, 22, 26, .RWL, .cfg 0⟩
/-- R361. -/
def ITG_EVT_BASE_base : Fld := ⟨328, ITG_EVT_BASE, 13, 51, .RW, .val 0⟩
/-- R361. -/
def ITG_EVT_HEAD_head : Fld := ⟨329, ITG_EVT_HEAD, 0, 8, .RO, .val 0⟩
/-- R361. -/
def ITG_EVT_TAIL_tail : Fld := ⟨330, ITG_EVT_TAIL, 0, 8, .RW, .val 0⟩
/-- R362. -/
def ITG_TILE_CTRL_state : Fld := ⟨331, ITG_TILE_CTRL, 0, 3, .RO, .cfg 0⟩
/-- R362. -/
def ITG_TILE_CTRL_siding : Fld := ⟨332, ITG_TILE_CTRL, 3, 1, .RO, .cfg 0⟩
/-- R362. -/
def ITG_TILE_CTRL_suspect_count : Fld := ⟨333, ITG_TILE_CTRL, 4, 4, .RO, .val 0⟩
/-- R362. -/
def ITG_TILE_CTRL_req_pending : Fld := ⟨334, ITG_TILE_CTRL, 8, 1, .RO, .val 0⟩
/-- R362. -/
def ITG_TILE_CTRL_fail : Fld := ⟨335, ITG_TILE_CTRL, 9, 1, .WO, .val 0⟩
/-- R105. -/
def ITG_DUP_SAMPLED_count : Fld := ⟨336, ITG_DUP_SAMPLED, 0, 64, .RO, .val 0⟩
/-- R105. -/
def ITG_DUP_DROPPED_count : Fld := ⟨337, ITG_DUP_DROPPED, 0, 64, .RO, .val 0⟩
/-- R105. -/
def ITG_DUP_MISMATCH_count : Fld := ⟨338, ITG_DUP_MISMATCH, 0, 64, .RO, .val 0⟩
/-- R105. -/
def ITG_POSSESSIONS_count : Fld := ⟨339, ITG_POSSESSIONS, 0, 64, .RO, .val 0⟩
/-- R105. -/
def ITG_FORCED_count : Fld := ⟨340, ITG_FORCED, 0, 64, .RO, .val 0⟩
/-- R105. -/
def ITG_REPEATS_count : Fld := ⟨341, ITG_REPEATS, 0, 64, .RO, .val 0⟩
/-- R383. -/
def HST_STATUS_idle : Fld := ⟨342, HST_STATUS, 0, 1, .RO, .val 0⟩
/-- R383. -/
def HST_STATUS_rings : Fld := ⟨343, HST_STATUS, 1, 7, .RO, .val 0⟩
/-- R383. -/
def HST_STATUS_locked : Fld := ⟨344, HST_STATUS, 8, 1, .RO, .val 0⟩
/-- R383. -/
def HST_CONTROL_idle_reset : Fld := ⟨345, HST_CONTROL, 0, 1, .WO, .val 0⟩
/-- R383. -/
def HST_BAR2_BASE_base : Fld := ⟨346, HST_BAR2_BASE, 36, 12, .RW, .val 0⟩
/-- R383. -/
def HST_FM_COORD_primary : Fld := ⟨347, HST_FM_COORD, 0, 18, .RWL, .cfg 0⟩
/-- R383. -/
def HST_FM_COORD_standby : Fld := ⟨348, HST_FM_COORD, 18, 18, .RWL, .cfg 0⟩
/-- R383. -/
def HST_FM_COORD_standby_valid : Fld := ⟨349, HST_FM_COORD, 36, 1, .RWL, .cfg 0⟩
/-- R384. -/
def HST_RING_BASE_base : Fld := ⟨350, HST_RING_BASE, 12, 52, .RW, .val 0⟩
/-- R384. -/
def HST_RING_CONTROL_enable : Fld := ⟨351, HST_RING_CONTROL, 0, 1, .RW, .val 0⟩
/-- R384. -/
def HST_RING_CONTROL_log2_size : Fld := ⟨352, HST_RING_CONTROL, 1, 4, .RW, .val 0⟩
/-- R384. -/
def HST_RING_CONTROL_cq_log2_size : Fld := ⟨353, HST_RING_CONTROL, 5, 4, .RW, .val 0⟩
/-- R384. -/
def HST_RING_CONTROL_reset : Fld := ⟨354, HST_RING_CONTROL, 9, 1, .WO, .val 0⟩
/-- R384. -/
def HST_RING_CONTROL_siding : Fld := ⟨355, HST_RING_CONTROL, 10, 1, .RO, .cfg 0⟩
/-- R384. -/
def HST_RING_TAIL_tail : Fld := ⟨356, HST_RING_TAIL, 0, 16, .RW, .val 0⟩
/-- R384. -/
def HST_RING_HEAD_head : Fld := ⟨357, HST_RING_HEAD, 0, 16, .RO, .val 0⟩
/-- R384. -/
def HST_CQ_BASE_base : Fld := ⟨358, HST_CQ_BASE, 12, 52, .RW, .val 0⟩
/-- R384. -/
def HST_CQ_HEAD_head : Fld := ⟨359, HST_CQ_HEAD, 0, 16, .RW, .val 0⟩
/-- R384. -/
def HST_CQ_TAIL_tail : Fld := ⟨360, HST_CQ_TAIL, 0, 16, .RO, .val 0⟩
/-- R383. -/
def HST_VEC_MAP_vector : Fld := ⟨361, HST_VEC_MAP, 0, 11, .RW, .idx⟩
/-- R403. -/
def BTC_STATUS_stage : Fld := ⟨362, BTC_STATUS, 0, 4, .RO, .val 0⟩
/-- R403. -/
def BTC_STATUS_fail_code : Fld := ⟨363, BTC_STATUS, 4, 8, .RO, .val 0⟩
/-- R403. -/
def BTC_STATUS_ready : Fld := ⟨364, BTC_STATUS, 12, 1, .RO, .val 0⟩
/-- R403. -/
def BTC_STATUS_locked : Fld := ⟨365, BTC_STATUS, 13, 1, .RO, .val 0⟩
/-- R403. -/
def BTC_STATUS_degraded : Fld := ⟨366, BTC_STATUS, 14, 1, .RO, .val 0⟩
/-- R403. -/
def BTC_STATUS_update_pending : Fld := ⟨367, BTC_STATUS, 15, 1, .RO, .val 0⟩
/-- R403. -/
def BTC_STATUS_event : Fld := ⟨368, BTC_STATUS, 16, 1, .W1C, .val 0⟩
/-- R403. -/
def BTC_ID_stepping : Fld := ⟨369, BTC_ID, 0, 8, .RO, .val 176⟩
/-- R403. -/
def BTC_ID_device : Fld := ⟨370, BTC_ID, 8, 16, .RO, .val 9⟩
/-- R403. -/
def BTC_ID_fw_svn : Fld := ⟨371, BTC_ID, 24, 6, .RO, .val 0⟩
/-- R403. -/
def BTC_SERIAL_serial : Fld := ⟨372, BTC_SERIAL, 0, 64, .RO, .val 0⟩
/-- R403. -/
def BTC_FUSE_fuse_svn : Fld := ⟨373, BTC_FUSE, 0, 6, .RO, .val 0⟩
/-- R403. -/
def BTC_FUSE_key_revoked : Fld := ⟨374, BTC_FUSE, 6, 4, .RO, .val 0⟩
/-- R403. -/
def BTC_FUSE_owner_fused : Fld := ⟨375, BTC_FUSE, 10, 1, .RO, .val 0⟩
/-- R105. -/
def BTC_ID_KEY_data : Fld := ⟨376, BTC_ID_KEY, 0, 64, .RO, .val 0⟩
/-- R105. -/
def BTC_MEAS_data : Fld := ⟨377, BTC_MEAS, 0, 64, .RO, .val 0⟩
/-- R403. -/
def BTC_REC_ADDR_addr : Fld := ⟨378, BTC_REC_ADDR, 0, 64, .RW, .val 0⟩
/-- R403. -/
def BTC_REC_LEN_len : Fld := ⟨379, BTC_REC_LEN, 0, 32, .RW, .val 0⟩
/-- R403. -/
def BTC_REC_CONTROL_go : Fld := ⟨380, BTC_REC_CONTROL, 0, 1, .WO, .val 0⟩
/-- R403. -/
def BTC_REC_CONTROL_done : Fld := ⟨381, BTC_REC_CONTROL, 1, 1, .RO, .val 0⟩
/-- R403. -/
def BTC_REC_CONTROL_result : Fld := ⟨382, BTC_REC_CONTROL, 2, 8, .RO, .val 0⟩
/-- R418. -/
def PWR_STATUS_season : Fld := ⟨383, PWR_STATUS, 0, 2, .RO, .val 0⟩
/-- R418. -/
def PWR_STATUS_level_w : Fld := ⟨384, PWR_STATUS, 2, 4, .RO, .val 0⟩
/-- R418. -/
def PWR_STATUS_level_e : Fld := ⟨385, PWR_STATUS, 6, 4, .RO, .val 0⟩
/-- R418. -/
def PWR_STATUS_hot : Fld := ⟨386, PWR_STATUS, 10, 1, .RO, .val 0⟩
/-- R418. -/
def PWR_STATUS_susp_w : Fld := ⟨387, PWR_STATUS, 11, 1, .RO, .val 0⟩
/-- R418. -/
def PWR_STATUS_susp_e : Fld := ⟨388, PWR_STATUS, 12, 1, .RO, .val 0⟩
/-- R418. -/
def PWR_STATUS_hold_cap : Fld := ⟨389, PWR_STATUS, 13, 8, .RO, .val 192⟩
/-- R418. -/
def PWR_STATUS_event : Fld := ⟨390, PWR_STATUS, 21, 1, .W1C, .val 0⟩
/-- R418. -/
def PWR_CONTROL_max_season : Fld := ⟨391, PWR_CONTROL, 0, 2, .RW, .cfg 3⟩
/-- R418. -/
def PWR_CONTROL_place_en : Fld := ⟨392, PWR_CONTROL, 2, 1, .RW, .cfg 0⟩
/-- R418. -/
def PWR_CONTROL_sustain_w : Fld := ⟨393, PWR_CONTROL, 3, 12, .RW, .cfg 2600⟩
/-- R418. -/
def PWR_CONTROL_peak_w : Fld := ⟨394, PWR_CONTROL, 15, 12, .RW, .cfg 3000⟩
/-- R418. -/
def PWR_WAKE_tol_ns : Fld := ⟨395, PWR_WAKE, 0, 32, .RW, .cfg 0⟩
/-- R419. -/
def PWR_THERMAL_warn_c : Fld := ⟨396, PWR_THERMAL, 0, 8, .RWL, .cfg 95⟩
/-- R419. -/
def PWR_THERMAL_throttle_c : Fld := ⟨397, PWR_THERMAL, 8, 8, .RWL, .cfg 105⟩
/-- R419. -/
def PWR_THERMAL_suspend_c : Fld := ⟨398, PWR_THERMAL, 16, 8, .RWL, .cfg 110⟩
/-- R419. -/
def PWR_THERMAL_trip_c : Fld := ⟨399, PWR_THERMAL, 24, 8, .RO, .val 115⟩
/-- R419. -/
def PWR_INPUT_now_w : Fld := ⟨400, PWR_INPUT, 0, 12, .RO, .val 0⟩
/-- R419. -/
def PWR_INPUT_avg_w : Fld := ⟨401, PWR_INPUT, 12, 12, .RO, .val 0⟩
/-- R419. -/
def PWR_INPUT_west_w : Fld := ⟨402, PWR_INPUT, 24, 12, .RO, .val 0⟩
/-- R419. -/
def PWR_INPUT_east_w : Fld := ⟨403, PWR_INPUT, 36, 12, .RO, .val 0⟩
/-- R419. -/
def PWR_INPUT_hot_w : Fld := ⟨404, PWR_INPUT, 48, 8, .RO, .val 0⟩
/-- R419. -/
def PWR_INPUT_hot_e : Fld := ⟨405, PWR_INPUT, 56, 8, .RO, .val 0⟩
/-- R446. -/
def PWR_COOLANT_inlet_c : Fld := ⟨406, PWR_COOLANT, 0, 8, .RO, .val 0⟩
/-- R446. -/
def PWR_COOLANT_outlet_c : Fld := ⟨407, PWR_COOLANT, 8, 8, .RO, .val 0⟩
/-- R446. -/
def PWR_COOLANT_flow : Fld := ⟨408, PWR_COOLANT, 16, 16, .RO, .val 0⟩
/-- R446. -/
def PWR_COOLANT_vin : Fld := ⟨409, PWR_COOLANT, 32, 16, .RO, .val 0⟩
/-- R446. -/
def PWR_COOLANT_leak : Fld := ⟨410, PWR_COOLANT, 48, 1, .RO, .val 0⟩
/-- R446. -/
def PWR_COOLANT_low_flow : Fld := ⟨411, PWR_COOLANT, 49, 1, .RO, .val 0⟩
/-- R446. -/
def PWR_COOLANT_hot_inlet : Fld := ⟨412, PWR_COOLANT, 50, 1, .RO, .val 0⟩
/-- R446. -/
def PWR_COOLANT_vin_low : Fld := ⟨413, PWR_COOLANT, 51, 1, .RO, .val 0⟩
/-- R419. -/
def PWR_TILE_temp : Fld := ⟨414, PWR_TILE, 0, 8, .RO, .val 0⟩
/-- R419. -/
def PWR_TILE_trim : Fld := ⟨415, PWR_TILE, 8, 5, .RO, .cfg 0⟩
/-- R419. -/
def PWR_TILE_droop : Fld := ⟨416, PWR_TILE, 13, 8, .RO, .cfg 0⟩
/-- R419. -/
def PWR_TILE_state : Fld := ⟨417, PWR_TILE, 21, 3, .RO, .val 0⟩
/-- R105. -/
def PWR_SKIP_CYCLES_count : Fld := ⟨418, PWR_SKIP_CYCLES, 0, 64, .RO, .val 0⟩
/-- R105. -/
def PWR_THROTTLE_US_count : Fld := ⟨419, PWR_THROTTLE_US, 0, 64, .RO, .val 0⟩
/-- R105. -/
def PWR_SUSPENDS_count : Fld := ⟨420, PWR_SUSPENDS, 0, 64, .RO, .val 0⟩
/-- R105. -/
def PWR_EXCURSIONS_count : Fld := ⟨421, PWR_EXCURSIONS, 0, 64, .RO, .val 0⟩
/-- R105. -/
def PWR_WAKES_count : Fld := ⟨422, PWR_WAKES, 0, 64, .RO, .val 0⟩
/-- R434. -/
def DBG_STATUS_tracing : Fld := ⟨423, DBG_STATUS, 0, 2, .RO, .val 0⟩
/-- R434. -/
def DBG_STATUS_dropped : Fld := ⟨424, DBG_STATUS, 2, 1, .W1C, .val 0⟩
/-- R434. -/
def DBG_STATUS_event : Fld := ⟨425, DBG_STATUS, 3, 1, .W1C, .val 0⟩
/-- R434. -/
def DBG_CONTROL_freeze_all : Fld := ⟨426, DBG_CONTROL, 0, 1, .WO, .val 0⟩
/-- R434. -/
def DBG_CONTROL_thaw_all : Fld := ⟨427, DBG_CONTROL, 1, 1, .WO, .val 0⟩
/-- R434. -/
def DBG_TRACE_BASE_base : Fld := ⟨428, DBG_TRACE_BASE, 16, 32, .RW, .val 0⟩
/-- R434. -/
def DBG_TRACE_CTL_enable : Fld := ⟨429, DBG_TRACE_CTL, 0, 1, .RW, .val 0⟩
/-- R434. -/
def DBG_TRACE_CTL_wrap : Fld := ⟨430, DBG_TRACE_CTL, 1, 1, .RW, .val 0⟩
/-- R434. -/
def DBG_TRACE_CTL_sm : Fld := ⟨431, DBG_TRACE_CTL, 2, 2, .RW, .val 0⟩
/-- R434. -/
def DBG_TRACE_CTL_size : Fld := ⟨432, DBG_TRACE_CTL, 4, 4, .RW, .val 0⟩
/-- R434. -/
def DBG_TRACE_CTL_stopped : Fld := ⟨433, DBG_TRACE_CTL, 8, 1, .RO, .val 0⟩
/-- R434. -/
def DBG_TRACE_WP_offset : Fld := ⟨434, DBG_TRACE_WP, 0, 48, .RO, .val 0⟩
/-- R434. -/
def DBG_TRACE_WP_wrapped : Fld := ⟨435, DBG_TRACE_WP, 63, 1, .RO, .val 0⟩
/-- R434. -/
def DBG_TRACE_SEL_tile_m : Fld := ⟨436, DBG_TRACE_SEL, 0, 64, .RW, .val 18446744073709551615⟩
/-- R434. -/
def DBG_WP_BASE_valid : Fld := ⟨437, DBG_WP_BASE, 0, 1, .RW, .val 0⟩
/-- R434. -/
def DBG_WP_BASE_rd : Fld := ⟨438, DBG_WP_BASE, 1, 1, .RW, .val 0⟩
/-- R434. -/
def DBG_WP_BASE_wr : Fld := ⟨439, DBG_WP_BASE, 2, 1, .RW, .val 0⟩
/-- R434. -/
def DBG_WP_BASE_action : Fld := ⟨440, DBG_WP_BASE, 3, 3, .RW, .val 0⟩
/-- R434. -/
def DBG_WP_BASE_base : Fld := ⟨441, DBG_WP_BASE, 6, 42, .RW, .val 0⟩
/-- R434. -/
def DBG_WP_LIMIT_sources : Fld := ⟨442, DBG_WP_LIMIT, 0, 6, .RW, .val 0⟩
/-- R434. -/
def DBG_WP_LIMIT_limit : Fld := ⟨443, DBG_WP_LIMIT, 6, 42, .RW, .val 0⟩
/-- R105. -/
def DBG_WP_COUNT_count : Fld := ⟨444, DBG_WP_COUNT, 0, 64, .RO, .val 0⟩
/-- R434. -/
def DBG_WP_HIT_hit : Fld := ⟨445, DBG_WP_HIT, 0, 32, .W1C, .val 0⟩
/-- R105. -/
def DBG_TRACE_LOST_count : Fld := ⟨446, DBG_TRACE_LOST, 0, 64, .RO, .val 0⟩
/-- R105. -/
def DBG_OBS_BYTES_count : Fld := ⟨447, DBG_OBS_BYTES, 0, 64, .RO, .val 0⟩
/-- R434. -/
def DBG_BOX_HEAD_count : Fld := ⟨448, DBG_BOX_HEAD, 0, 32, .RO, .val 0⟩
/-- R434. -/
def DBG_BOX_HEAD_freeze : Fld := ⟨449, DBG_BOX_HEAD, 32, 1, .RW, .val 0⟩
/-- R434. -/
def DBG_BOX_HEAD_lost : Fld := ⟨450, DBG_BOX_HEAD, 33, 15, .RO, .val 0⟩
/-- R363. -/
def MSIX_ADDR_addr : Fld := ⟨451, MSIX_ADDR, 0, 64, .RW, .val 0⟩
/-- R363. -/
def MSIX_DATA_data : Fld := ⟨452, MSIX_DATA, 0, 32, .RW, .val 0⟩
/-- R363. -/
def MSIX_DATA_mask : Fld := ⟨453, MSIX_DATA, 32, 1, .RW, .val 1⟩
/-- R363. -/
def MSIX_PBA_pend : Fld := ⟨454, MSIX_PBA, 0, 64, .RO, .val 0⟩

/-- Every register. -/
def allRegs : List Reg :=
  [TIL_LR_STATUS, TIL_LR_CONTROL, TIL_LR_SAVE_ADDR, TIL_LR_SUSPEND, TIL_LR_FAULT, TIL_LR_STEPS, TIL_LR_STEP_CYCLES, TIL_LR_SPILL_CYCLES, TIL_LR_SLOT_STALLS, TIL_LR_PROMOTIONS, TIL_LR_INTERLOCK_CYCLES, TIL_LR_BALLAST_CYCLES, TIL_LR_DRAIN_ELEMENTS, TIL_LR_BAND_HIST, TIL_CORE_CONTROL, TIL_CORE_STATUS, TIL_CORE_CTX_ADDR, TIL_CORE_START, TIL_CS_STATUS, TIL_CS_CAUSE]
  ++ [TIL_CS_EPC, TIL_CS_EADDR, TIL_CS_LR_EPC, TIL_CS_TILE_ID, TIL_CS_TILE_BASE, TIL_CS_EVT, TIL_CS_CYCLE, TIL_CS_RTIME, TIL_CS_VSEED, TIL_CS_VTID, TIL_CS_VFLAGS, TIL_CS_SHN_GRANT_LO, TIL_CS_SHN_GRANT_HI, TIL_CS_CMDARG, MST_STATUS, MST_CONTROL, MST_CE, MST_UE, MST_POISON_READS, MST_LINK_RETRIES]
  ++ [MST_ODECC, MST_SCRUB_PASSES, MST_RETRAINS, MST_PUSHES, MST_ERR_HEAD, MST_ERR_LOG_LO, MST_ERR_LOG_HI, MST_COW_BASE, MST_COW_LIMIT, MST_COW_DEST, MST_COW_CURSOR, MST_COW_DEST_CTL, MST_EXP_STATUS, MST_EXP_BYTES, MST_EXP_STEP_CYCLES, MST_EXP_SPILL_CYCLES, MST_EXP_WIDE, MST_EXP_SIDING_BYTES, MST_PROT_LO, MST_PROT_HI]
  ++ [MST_PROT_VIOL, MST_PROT_COUNT, MST_CXL_STATUS, MST_CXL_POISON, MST_CXL_LOST, MST_CXL_ID, SHN_CH_SRC, SHN_CH_DST, SHN_CH_COUNT, SHN_CH_CONTROL, SHN_CH_CHAIN, SHN_CH_STATUS, SHN_CH_CUR, SHN_CH_ERR, SHN_CH_BYTES, ULP_STATUS, ULP_CONTROL, ULP_ROLE, ULP_LANEMAP_TX0, ULP_LANEMAP_TX1]
  ++ [ULP_LANEMAP_RX0, ULP_LANEMAP_RX1, ULP_FC_CONFIG, ULP_CABLE, ULP_PEER, ULP_RTT, ULP_FC_CAP, ULP_FC_STATUS, ULP_CW, ULP_CW_CORR, ULP_SYM_CORR, ULP_CW_UNCORR, ULP_REPLAYS, ULP_TX_CELLS, ULP_RX_CELLS, ULP_CLOSES, ULP_OVERRUN, ULP_TUNES, ULP_RETRAINS, ULP_LOST_PACKETS]
  ++ [ULP_BAD_CTL, RTR_STATUS, RTR_CONTROL, RTR_COORD, RTR_RATE_CONFIG, RTR_TT_CTL, RTR_TT_REDIR, RTR_INJ, RTR_EJ, RTR_DROP, RTR_ESCAPES, RTR_CAUTION_SET, RTR_ECHO_SENT, RTR_ECHO_RCVD, RTR_RATE_EVICT, RTR_MAP_CONTROL, COL_STATUS, COL_CONTROL, COL_CID, COL_CONTRIB]
  ++ [COL_WIDEN, COL_ZERO, COL_STRAY, COL_STALE, COL_BAD, COL_REPLAYS, COL_TIMEOUTS, COL_VOTES, COL_EXPELLED, CUT_STATUS, CUT_CONTROL, CUT_RTIME, CUT_RT_CONFIG, CUT_RT_STATUS, CUT_ORDER_TIME, CUT_ORDER_SNAP, CUT_ORDER, CUT_RESTORE, CUT_RESUME_TIME, CUT_MIR_BASE]
  ++ [CUT_MIR_LIMIT, CUT_MIR_TWIN, CUT_ADOPT_BASE, CUT_ADOPT_LIMIT, CUT_ADOPT_LOCAL, CUT_CUTS, CUT_REFUSALS, CUT_LOG_ENTRIES, CUT_LOG_BYTES, CUT_MIR_BYTES, CUT_MIR_GAPS, CUT_RT_EXCHANGES, CUT_RT_LOSSES, ITG_STATUS, ITG_CONTROL, ITG_POSS_REQ, ITG_DUP_SEED, ITG_DUP_BASE, ITG_POSS_BASE, ITG_EVT_BASE]
  ++ [ITG_EVT_HEAD, ITG_EVT_TAIL, ITG_TILE_CTRL, ITG_DUP_SAMPLED, ITG_DUP_DROPPED, ITG_DUP_MISMATCH, ITG_POSSESSIONS, ITG_FORCED, ITG_REPEATS, HST_STATUS, HST_CONTROL, HST_BAR2_BASE, HST_FM_COORD, HST_RING_BASE, HST_RING_CONTROL, HST_RING_TAIL, HST_RING_HEAD, HST_CQ_BASE, HST_CQ_HEAD, HST_CQ_TAIL]
  ++ [HST_VEC_MAP, BTC_STATUS, BTC_ID, BTC_SERIAL, BTC_FUSE, BTC_ID_KEY, BTC_MEAS, BTC_REC_ADDR, BTC_REC_LEN, BTC_REC_CONTROL, PWR_STATUS, PWR_CONTROL, PWR_WAKE, PWR_THERMAL, PWR_INPUT, PWR_COOLANT, PWR_TILE, PWR_SKIP_CYCLES, PWR_THROTTLE_US, PWR_SUSPENDS]
  ++ [PWR_EXCURSIONS, PWR_WAKES, DBG_STATUS, DBG_CONTROL, DBG_TRACE_BASE, DBG_TRACE_CTL, DBG_TRACE_WP, DBG_TRACE_SEL, DBG_WP_BASE, DBG_WP_LIMIT, DBG_WP_COUNT, DBG_WP_HIT, DBG_TRACE_LOST, DBG_OBS_BYTES, DBG_BOX_HEAD, MSIX_ADDR, MSIX_DATA, MSIX_PBA]

/-- Every field. -/
def allFlds : List Fld :=
  [TIL_LR_STATUS_pass_tag, TIL_LR_STATUS_pass_open, TIL_LR_STATUS_pending_valid, TIL_LR_STATUS_shadow_valid, TIL_LR_STATUS_shadow_loading, TIL_LR_STATUS_set0_draining, TIL_LR_STATUS_set1_draining, TIL_LR_STATUS_set0_parked, TIL_LR_STATUS_set1_parked, TIL_LR_STATUS_suspended, TIL_LR_STATUS_drain_fault, TIL_LR_STATUS_ballast_active, TIL_LR_STATUS_queue_depth, TIL_LR_CONTROL_ballast_en, TIL_LR_CONTROL_ballast_hold, TIL_LR_CONTROL_count_en, TIL_LR_SAVE_ADDR_save_addr, TIL_LR_SUSPEND_suspend, TIL_LR_SUSPEND_restore, TIL_LR_FAULT_code]
  ++ [TIL_LR_FAULT_valid, TIL_LR_FAULT_addr, TIL_LR_STEPS_count, TIL_LR_STEP_CYCLES_count, TIL_LR_SPILL_CYCLES_count, TIL_LR_SLOT_STALLS_count, TIL_LR_PROMOTIONS_count, TIL_LR_INTERLOCK_CYCLES_count, TIL_LR_BALLAST_CYCLES_count, TIL_LR_DRAIN_ELEMENTS_count, TIL_LR_BAND_HIST_count, TIL_CORE_CONTROL_run, TIL_CORE_CONTROL_halt, TIL_CORE_CONTROL_save, TIL_CORE_CONTROL_restore, TIL_CORE_CONTROL_step, TIL_CORE_STATUS_state, TIL_CORE_STATUS_cause_valid, TIL_CORE_STATUS_next_index, TIL_CORE_STATUS_loops]
  ++ [TIL_CORE_STATUS_replay, TIL_CORE_STATUS_ctx_fault, TIL_CORE_STATUS_ctx_fault_valid, TIL_CORE_CTX_ADDR_ctx_addr, TIL_CORE_START_start, TIL_CS_STATUS_sov, TIL_CS_STATUS_dzero, TIL_CS_STATUS_sig_lost, TIL_CS_STATUS_sh_busy, TIL_CS_CAUSE_code, TIL_CS_CAUSE_slot, TIL_CS_CAUSE_deferred, TIL_CS_CAUSE_valid, TIL_CS_CAUSE_lr_suspended, TIL_CS_EPC_val, TIL_CS_EADDR_val, TIL_CS_LR_EPC_val, TIL_CS_TILE_ID_rank, TIL_CS_EVT_val, TIL_CS_VSEED_val]
  ++ [TIL_CS_VTID_val, TIL_CS_VFLAGS_val, TIL_CS_SHN_GRANT_LO_val, TIL_CS_SHN_GRANT_HI_val, TIL_CS_CMDARG_val, MST_STATUS_ready, MST_STATUS_scrub_active, MST_STATUS_retraining, MST_STATUS_dev_fail, MST_STATUS_armed, MST_STATUS_push_full, MST_CONTROL_scrub_en, MST_CONTROL_scrub_hours, MST_CONTROL_retrain_ms, MST_CONTROL_retrain_req, MST_CONTROL_scrub_kick, MST_CE_count, MST_UE_count, MST_POISON_READS_count, MST_LINK_RETRIES_count]
  ++ [MST_ODECC_count, MST_SCRUB_PASSES_count, MST_RETRAINS_count, MST_PUSHES_count, MST_ERR_HEAD_head, MST_ERR_HEAD_overflow, MST_ERR_HEAD_pending, MST_ERR_HEAD_consumed, MST_ERR_LOG_LO_addr, MST_ERR_LOG_LO_kind, MST_ERR_LOG_LO_dev, MST_ERR_LOG_LO_symbol, MST_ERR_LOG_LO_source, MST_ERR_LOG_HI_rtime, MST_COW_BASE_base, MST_COW_LIMIT_limit, MST_COW_DEST_dest, MST_COW_CURSOR_cursor, MST_COW_DEST_CTL_coord, MST_COW_DEST_CTL_remote]
  ++ [MST_COW_DEST_CTL_host, MST_EXP_STATUS_train_busy, MST_EXP_STATUS_siding_busy, MST_EXP_STATUS_streaming_queue, MST_EXP_STATUS_slab, MST_EXP_STATUS_last_status, MST_EXP_STATUS_status_valid, MST_EXP_BYTES_count, MST_EXP_STEP_CYCLES_count, MST_EXP_SPILL_CYCLES_count, MST_EXP_WIDE_count, MST_EXP_SIDING_BYTES_count, MST_PROT_LO_rd_mask, MST_PROT_LO_wr_mask, MST_PROT_LO_base, MST_PROT_HI_valid, MST_PROT_HI_limit, MST_PROT_VIOL_addr, MST_PROT_VIOL_source, MST_PROT_VIOL_write]
  ++ [MST_PROT_VIOL_valid, MST_PROT_COUNT_count, MST_CXL_STATUS_present, MST_CXL_STATUS_link_up, MST_CXL_STATUS_degraded, MST_CXL_STATUS_id_mismatch, MST_CXL_STATUS_cap_256m, MST_CXL_POISON_count, MST_CXL_LOST_count, MST_CXL_ID_data, SHN_CH_SRC_src, SHN_CH_DST_dst, SHN_CH_COUNT_count, SHN_CH_CONTROL_start, SHN_CH_CONTROL_start_chain, SHN_CH_CONTROL_stop, SHN_CH_CONTROL_resume, SHN_CH_CONTROL_clear, SHN_CH_CONTROL_irq_en, SHN_CH_CHAIN_chain]
  ++ [SHN_CH_STATUS_state, SHN_CH_STATUS_start_refused, SHN_CH_STATUS_tile_started, SHN_CH_STATUS_starter, SHN_CH_STATUS_starter_hi, SHN_CH_STATUS_flags, SHN_CH_STATUS_done, SHN_CH_CUR_cur, SHN_CH_ERR_code, SHN_CH_ERR_valid, SHN_CH_ERR_addr, SHN_CH_BYTES_count, ULP_STATUS_state, ULP_STATUS_width8, ULP_STATUS_upper, ULP_STATUS_fail_reason, ULP_STATUS_fail_valid, ULP_STATUS_closed, ULP_STATUS_on, ULP_STATUS_peer_closed]
  ++ [ULP_STATUS_peer_on, ULP_STATUS_present, ULP_CONTROL_enable, ULP_CONTROL_retrain, ULP_CONTROL_degrade_en, ULP_CONTROL_keep_awake, ULP_CONTROL_auto_retrain, ULP_CONTROL_nap_idle, ULP_ROLE_role, ULP_ROLE_letter, ULP_LANEMAP_TX0_map, ULP_LANEMAP_TX1_map, ULP_LANEMAP_RX0_map, ULP_LANEMAP_RX1_map, ULP_FC_CONFIG_res0, ULP_FC_CONFIG_res1, ULP_FC_CONFIG_res2, ULP_FC_CONFIG_res3, ULP_FC_CONFIG_res4, ULP_FC_CONFIG_res5]
  ++ [ULP_CABLE_data, ULP_PEER_coord, ULP_PEER_role, ULP_PEER_letter, ULP_PEER_valid, ULP_RTT_rtt, ULP_RTT_rtt_min, ULP_FC_CAP_cap0, ULP_FC_CAP_cap1, ULP_FC_CAP_cap2, ULP_FC_CAP_cap3, ULP_FC_CAP_cap4, ULP_FC_CAP_cap5, ULP_FC_STATUS_skid, ULP_FC_STATUS_off_t, ULP_FC_STATUS_used, ULP_FC_STATUS_peak, ULP_CW_count, ULP_CW_CORR_count, ULP_SYM_CORR_count]
  ++ [ULP_CW_UNCORR_count, ULP_REPLAYS_count, ULP_TX_CELLS_count, ULP_RX_CELLS_count, ULP_CLOSES_count, ULP_OVERRUN_count, ULP_TUNES_count, ULP_RETRAINS_count, ULP_LOST_PACKETS_count, ULP_BAD_CTL_count, RTR_STATUS_stamp, RTR_STATUS_valid_a, RTR_STATUS_valid_b, RTR_STATUS_rate_entries, RTR_STATUS_map_busy, RTR_CONTROL_stamp, RTR_CONTROL_adopt, RTR_CONTROL_caution_cells, RTR_CONTROL_escape_wait, RTR_COORD_coord]
  ++ [RTR_RATE_CONFIG_dec, RTR_RATE_CONFIG_inc, RTR_RATE_CONFIG_rec_us, RTR_RATE_CONFIG_hold_us, RTR_RATE_CONFIG_r_min, RTR_RATE_CONFIG_echo_gap_us, RTR_TT_CTL_valid, RTR_TT_CTL_dateline_x, RTR_TT_CTL_dateline_y, RTR_TT_CTL_dateline_z, RTR_TT_CTL_port_mask, RTR_TT_REDIR_from, RTR_TT_REDIR_to, RTR_TT_REDIR_valid, RTR_INJ_count, RTR_EJ_count, RTR_DROP_count, RTR_ESCAPES_count, RTR_CAUTION_SET_count, RTR_ECHO_SENT_count]
  ++ [RTR_ECHO_RCVD_count, RTR_RATE_EVICT_count, RTR_MAP_CONTROL_latch, RTR_MAP_CONTROL_clear, COL_STATUS_bound, COL_STATUS_hold_full, COL_STATUS_held, COL_CONTROL_hold_us, COL_CID_state, COL_CID_epoch, COL_CID_kind, COL_CID_reports, COL_CID_last_code, COL_CID_code_valid, COL_CONTRIB_count, COL_WIDEN_count, COL_ZERO_count, COL_STRAY_count, COL_STALE_count, COL_BAD_count]
  ++ [COL_REPLAYS_count, COL_TIMEOUTS_count, COL_VOTES_count, COL_EXPELLED_count, CUT_STATUS_state, CUT_STATUS_sweeping, CUT_STATUS_cut_id, CUT_STATUS_reason, CUT_STATUS_rt_ok, CUT_STATUS_log_open, CUT_STATUS_tail_wait, CUT_STATUS_quiet, CUT_STATUS_event, CUT_CONTROL_abandon, CUT_CONTROL_restore, CUT_CONTROL_mirror_en, CUT_CONTROL_drain_pace, CUT_CONTROL_resync, CUT_RTIME_rtime, CUT_RT_CONFIG_root]
  ++ [CUT_RT_CONFIG_parent, CUT_RT_CONFIG_alt, CUT_RT_CONFIG_alt_valid, CUT_RT_STATUS_locked, CUT_RT_STATUS_depth, CUT_RT_STATUS_on_alt, CUT_RT_STATUS_theta, CUT_RT_STATUS_delay, CUT_ORDER_TIME_cut_time, CUT_ORDER_SNAP_snap, CUT_ORDER_cut_id, CUT_RESTORE_rec, CUT_RESTORE_adopt, CUT_RESUME_TIME_resume, CUT_MIR_BASE_valid, CUT_MIR_BASE_gap, CUT_MIR_BASE_base, CUT_MIR_LIMIT_limit, CUT_MIR_TWIN_twin, CUT_ADOPT_BASE_valid]
  ++ [CUT_ADOPT_BASE_base, CUT_ADOPT_LIMIT_limit, CUT_ADOPT_LOCAL_local, CUT_CUTS_count, CUT_REFUSALS_count, CUT_LOG_ENTRIES_count, CUT_LOG_BYTES_count, CUT_MIR_BYTES_count, CUT_MIR_GAPS_count, CUT_RT_EXCHANGES_count, CUT_RT_LOSSES_count, ITG_STATUS_replay_pending, ITG_STATUS_evt_overflow, ITG_STATUS_enabled, ITG_STATUS_spares, ITG_STATUS_poss_west, ITG_STATUS_poss_east, ITG_CONTROL_dup_period, ITG_CONTROL_poss_ms, ITG_CONTROL_suspect_limit]
  ++ [ITG_CONTROL_rank_shift, ITG_CONTROL_replay_done, ITG_POSS_REQ_tile, ITG_POSS_REQ_force, ITG_POSS_REQ_cal_only, ITG_DUP_SEED_dup_seed, ITG_DUP_BASE_base, ITG_POSS_BASE_base, ITG_EVT_BASE_base, ITG_EVT_HEAD_head, ITG_EVT_TAIL_tail, ITG_TILE_CTRL_state, ITG_TILE_CTRL_siding, ITG_TILE_CTRL_suspect_count, ITG_TILE_CTRL_req_pending, ITG_TILE_CTRL_fail, ITG_DUP_SAMPLED_count, ITG_DUP_DROPPED_count, ITG_DUP_MISMATCH_count, ITG_POSSESSIONS_count]
  ++ [ITG_FORCED_count, ITG_REPEATS_count, HST_STATUS_idle, HST_STATUS_rings, HST_STATUS_locked, HST_CONTROL_idle_reset, HST_BAR2_BASE_base, HST_FM_COORD_primary, HST_FM_COORD_standby, HST_FM_COORD_standby_valid, HST_RING_BASE_base, HST_RING_CONTROL_enable, HST_RING_CONTROL_log2_size, HST_RING_CONTROL_cq_log2_size, HST_RING_CONTROL_reset, HST_RING_CONTROL_siding, HST_RING_TAIL_tail, HST_RING_HEAD_head, HST_CQ_BASE_base, HST_CQ_HEAD_head]
  ++ [HST_CQ_TAIL_tail, HST_VEC_MAP_vector, BTC_STATUS_stage, BTC_STATUS_fail_code, BTC_STATUS_ready, BTC_STATUS_locked, BTC_STATUS_degraded, BTC_STATUS_update_pending, BTC_STATUS_event, BTC_ID_stepping, BTC_ID_device, BTC_ID_fw_svn, BTC_SERIAL_serial, BTC_FUSE_fuse_svn, BTC_FUSE_key_revoked, BTC_FUSE_owner_fused, BTC_ID_KEY_data, BTC_MEAS_data, BTC_REC_ADDR_addr, BTC_REC_LEN_len]
  ++ [BTC_REC_CONTROL_go, BTC_REC_CONTROL_done, BTC_REC_CONTROL_result, PWR_STATUS_season, PWR_STATUS_level_w, PWR_STATUS_level_e, PWR_STATUS_hot, PWR_STATUS_susp_w, PWR_STATUS_susp_e, PWR_STATUS_hold_cap, PWR_STATUS_event, PWR_CONTROL_max_season, PWR_CONTROL_place_en, PWR_CONTROL_sustain_w, PWR_CONTROL_peak_w, PWR_WAKE_tol_ns, PWR_THERMAL_warn_c, PWR_THERMAL_throttle_c, PWR_THERMAL_suspend_c, PWR_THERMAL_trip_c]
  ++ [PWR_INPUT_now_w, PWR_INPUT_avg_w, PWR_INPUT_west_w, PWR_INPUT_east_w, PWR_INPUT_hot_w, PWR_INPUT_hot_e, PWR_COOLANT_inlet_c, PWR_COOLANT_outlet_c, PWR_COOLANT_flow, PWR_COOLANT_vin, PWR_COOLANT_leak, PWR_COOLANT_low_flow, PWR_COOLANT_hot_inlet, PWR_COOLANT_vin_low, PWR_TILE_temp, PWR_TILE_trim, PWR_TILE_droop, PWR_TILE_state, PWR_SKIP_CYCLES_count, PWR_THROTTLE_US_count]
  ++ [PWR_SUSPENDS_count, PWR_EXCURSIONS_count, PWR_WAKES_count, DBG_STATUS_tracing, DBG_STATUS_dropped, DBG_STATUS_event, DBG_CONTROL_freeze_all, DBG_CONTROL_thaw_all, DBG_TRACE_BASE_base, DBG_TRACE_CTL_enable, DBG_TRACE_CTL_wrap, DBG_TRACE_CTL_sm, DBG_TRACE_CTL_size, DBG_TRACE_CTL_stopped, DBG_TRACE_WP_offset, DBG_TRACE_WP_wrapped, DBG_TRACE_SEL_tile_m, DBG_WP_BASE_valid, DBG_WP_BASE_rd, DBG_WP_BASE_wr]
  ++ [DBG_WP_BASE_action, DBG_WP_BASE_base, DBG_WP_LIMIT_sources, DBG_WP_LIMIT_limit, DBG_WP_COUNT_count, DBG_WP_HIT_hit, DBG_TRACE_LOST_count, DBG_OBS_BYTES_count, DBG_BOX_HEAD_count, DBG_BOX_HEAD_freeze, DBG_BOX_HEAD_lost, MSIX_ADDR_addr, MSIX_DATA_data, MSIX_DATA_mask, MSIX_PBA_pend]

/-- The register at a BAR0 offset, with its index (R365). -/
def findReg (o : Nat) : Option (Reg × Nat × Nat) :=
  allRegs.findSome? fun r => (r.at o).map fun ij => (r, ij.1, ij.2)

/-- The fields of a register. -/
def Reg.flds (r : Reg) : List Fld := allFlds.filter fun f => f.reg.id == r.id

/-- The block that holds the field with this id. -/
def fldBlock (id : Nat) : Block :=
  if id < 65 then .TIL else
  if id < 101 then .MST else
  if id < 112 then .EXP else
  if id < 130 then .MST else
  if id < 152 then .SHN else
  if id < 210 then .ULP else
  if id < 244 then .RTR else
  if id < 264 then .COL else
  if id < 311 then .CUT else
  if id < 342 then .ITG else
  if id < 362 then .HST else
  if id < 383 then .BTC else
  if id < 423 then .PWR else
  if id < 451 then .DBG else .MSX

end Sys2Proof.Machine
end

