-- ==== Sys2Proof/Machine/State.lean ====
section
/-! DEFINITION. The state of the T9 as plain data: register fields, device memory and its check state, tiles, stations, express units, shunting channels, ports, router, collectives, cut logic, integrity, command rings and dispatch, boot, power, debug, and the queue of waiting commands. -/

namespace Sys2Proof.Machine

/-! ### Tile core (R108, R122, R137) -/

/-- Floor state of a Leroth row (R108). -/
structure RowSt where
  floor : Nat := 0
  set : Bool := false
  count : Nat := 0
deriving DecidableEq, Repr

/-- A loop held by the core (R122). -/
structure Loop where
  start : Nat
  fin : Nat
  count : Nat
deriving DecidableEq, Repr

/-- A lane-row instruction as captured at issue (R127, R137): the slot word, the two captured registers and the index of the issuing long word. -/
structure Cap where
  slot : Nat
  c0 : U64
  c1 : U64
  idx : Nat
deriving DecidableEq, Repr

/-- What an outstanding access of a tile core does (R113, R125). -/
inductive AccOp where
  | load (op : LdOp) (sd : BitVec 5)
  | vload (vd : BitVec 5)
  | wload (w : BitVec 2)
  | store (bytes : List (Nat × Byte))
  | amo (op : AmoOp) (sd : BitVec 5) (opnd : U64)
deriving DecidableEq, Repr

/-- An access issued and not yet finished; `done` holds what came back: the data, and whether the memory code marked it uncorrectable. -/
structure Access where
  slot : Nat
  addr : Nat
  len : Nat
  op : AccOp
  done : Option (List Byte × Bool) := none
deriving DecidableEq, Repr

/-- A deferred exception that waits for the next long-word boundary (R135). -/
structure Defer where
  code : Nat
  slot : Nat
  addr : Option Nat
  lrEpc : Option Nat
deriving DecidableEq, Repr

/-- The registers of one tile core that no BAR0 register shows (R108), and what the core holds; `ctl` are the action bits of a control write that wait for the save or restore before them to take effect (R143); `drainsDone` and `scales` count the drains of its command and hold their scale bytes, `drainSkip` and `skipScales` those that a repeat writes again (R354); `back` is the state a restore began in (R140). Special registers live among the BAR0 fields (R141). -/
structure Core where
  s : Map U64 := []
  a : Map U64 := []
  v : Map (BitVec 2048) := []
  p : Map U64 := []
  w : Map L576 := []
  wtag : Map Byte := []
  wst : Map RowSt := []
  loops : List Loop := []
  replay : List Cap := []
  ofmtCur : Nat := 0
  ofmtPend : Nat := 0
  hold : Option (List SlotIn) := none
  outst : List Access := []
  defer : Option Defer := none
  stepping : Bool := false
  cycle0 : Nat := 0
  heldCycles : Nat := 0
  longWords : Nat := 0
  heldTotal : Nat := 0
  loadBytes : Nat := 0
  storeBytes : Nat := 0
  saveLr : Option Nat := none
  recAddr : Option Nat := none
  cmd : Option Nat := none
  drainsDone : Nat := 0
  drainSkip : Nat := 0
  scales : List Nat := []
  skipScales : List Nat := []
  src : Nat := 0
  ctl : Nat := 0
  back : Nat := 0
deriving DecidableEq, Repr

/-! ### Lane row (R73, R96) -/

/-- A short accumulator (R73). -/
structure Short where
  v : BitVec 41 := 0#41
  band : Nat := 0
  valid : Bool := false
deriving DecidableEq, Repr

/-- Floor of a block of a set (R78). -/
structure BlkFloor where
  floor : Nat := 0
  set : Bool := false
deriving DecidableEq, Repr

/-- A load into the shadow registers (R75, R76); `busy` once it writes. -/
structure LoadOp where
  base : Nat
  sbase : Nat
  fmt : Nat
  dir : Bool
  o : Nat
  pa : Nat
  idx : Nat
  busy : Bool
deriving DecidableEq, Repr

/-- A drain ordered for a set, with its captured descriptor (R85, R89); once active, the scale byte of its tensor (R70). -/
structure Drain where
  set : Nat
  desc : List Byte
  parked : Bool
  active : Bool := false
  scale : Nat := 0
deriving DecidableEq, Repr

/-- A sampled pass (R342, R343). -/
structure Sample where
  slot : Nat
  steps : Nat
deriving DecidableEq, Repr

/-- The state of one lane row. Keys: stationary bytes 256·lane + byte; scale bytes 8·lane + byte; shorts 8·lane + slot; entries 2048·set + 64·index + lane; floors 8·set + block; errors of the accumulator store, 1 a single-bit and 2 a double-bit error, by 9·entry + 64-bit word (R209). `nextLoads` are the loads that have left the queue and wait for the one before them (R76); `restIdx` is the long word of the LRREST whose restore runs; `drainAway` says of a suspended row that its record holds a drain (R132); a suspension held behind a restore sets `suspHeld`, and `heldExc` where R136 asked for it; `idleRun` counts the cycles since the last step, and `ballast` is the eighths of the lanes that perform ballast, in a run that ballast_en lets go on (R99). -/
structure LaneRow where
  st0 : Map Byte := []
  st1 : Map Byte := []
  sc0 : Map Byte := []
  sc1 : Map Byte := []
  pa0 : Nat := 0
  pa1 : Nat := 0
  shorts : Map Short := []
  words : Map L576 := []
  tags : Map Byte := []
  written : Map Bool := []
  floors : Map BlkFloor := []
  count0 : Nat := 0
  count1 : Nat := 0
  steps : Nat := 0
  current : Nat := 0
  pending : Nat := 0
  groupIndex : Nat := 0
  groupSteps : Nat := 0
  groupValid : Bool := false
  queue : List Cap := []
  load : Option LoadOp := none
  nextLoads : List LoadOp := []
  drainDesc : List Byte := List.replicate 128 0#8
  run : Option Drain := none
  waiting : Option Drain := none
  stopped0 : Option Drain := none
  stopped1 : Option Drain := none
  suspBusy : Option Nat := none
  suspAddr : Option Nat := none
  restBusy : Option Nat := none
  restIdx : Option Nat := none
  drainAway : Bool := false
  suspHeld : Bool := false
  heldExc : Bool := false
  exc : Option Defer := none
  promFrac : Nat := 0
  accErr : Map Nat := []
  idleRun : Nat := 0
  ballast : Nat := 0
  taper : Nat := 0
  sample : Option Sample := none
deriving DecidableEq, Repr

/-- A tile: its core and its lane row. -/
structure TileSt where
  core : Core := {}
  lr : LaneRow := {}
deriving DecidableEq, Repr

/-! ### Memory stations (R203 to R207) -/

/-- A sector in the push-ahead buffer (R205): image address, data, poison. -/
structure Push where
  recNo : Nat
  addr : Nat
  data : List Byte
  poison : Bool
deriving DecidableEq, Repr

/-- A mirror update that waits for room (R331): its region, sector, twin address and data, and whether the sector holds poison (R206). -/
structure MirWait where
  region : Nat
  sector : Nat
  addr : Nat
  data : List Byte
  poison : Bool
deriving DecidableEq, Repr

/-- What a station holds beside its registers: push-ahead buffer, scrub position, retraining requests, mirror packets outstanding, updates that wait behind them, and link retries of the period. -/
structure StationSt where
  push : List Push := []
  scrubAt : Option Nat := none
  retrainQ : Nat := 0
  mirOut : Nat := 0
  mirq : List MirWait := []
  periodRetries : Nat := 0
deriving DecidableEq, Repr

/-! ### Packets (R263, R450) -/

/-- A packet: the header fields of R263 and the payload. `poison` marks data read uncorrectable (R206). -/
structure Pkt where
  typ : Nat
  vc : Nat
  tt : Nat
  ca : Bool := false
  ae : Bool := false
  dst : Nat
  src : Nat
  hops : Nat := 0
  tag : Nat := 0
  addr : Nat := 0
  payload : List Byte := []
  poison : Bool := false
deriving DecidableEq, Repr

/-- A packet in a queue of the router: where it arrived (port 0 to 15, 16 the module itself), the header as it arrived (R324), whether it stood in the module at the cut point and whether it arrived before its port's TAIL (R323), whether escape_wait has expired for it (R270), whether its cells lie in the reservation of its VC (R254), and whether its ejection here is counted already (R276). -/
structure QPkt where
  pkt : Pkt
  from_ : Nat
  hdr : Nat := 0
  pre : Bool := false
  log : Bool := false
  late : Bool := false
  held : Bool := false
  counted : Bool := false
deriving DecidableEq, Repr

/-- An entry of the rate table (R279): the rate, the time of its last decrease, and the credit for pacing (in 1/25,600 byte) with the time it was counted. -/
structure Rate where
  dst : Nat
  r : Nat
  dec : Nat
  credit : Nat
  at_ : Nat
deriving DecidableEq, Repr

/-- What the router holds beside its registers: rotating pointer, rate table, recent echoes with their times (R278), bin counts by (6p + v) × 8 + k, samples, marks by port (R280), the latched record, and the records latched for MAPREQs that are not yet answered (R281). -/
structure Router where
  ptr : Nat := 0
  rates : List Rate := []
  echoed : List (Nat × Nat) := []
  bins : Map Nat := []
  samples : Nat := 0
  marks : Map Nat := []
  map : List Byte := []
  maps : List (List Byte) := []
deriving DecidableEq, Repr

/-- A training express command to restart from its first slab (R336): the command it serves, its descriptor, and the resident vectors recorded with it, by their keys. -/
structure XPend where
  cmd : Nat
  desc : List Byte
  vec : List (Nat × Nat) := []
  len : List (Nat × Nat) := []
deriving DecidableEq, Repr

/-- A restore that waits for its resume time (R336): where its record area lies, its tiles with their core states, the tiles restored since with theirs, express commands pending, channels to resume, log entries to inject (source, bytes). -/
structure Restore where
  area : Nat := 0
  prior : List (Nat × Nat) := []
  placed : List (Nat × Nat) := []
  xpend : List XPend := []
  chans : List Nat := []
  inject : List (Nat × List Byte) := []
deriving DecidableEq, Repr

/-- What the cut logic holds beside its registers. For a cut: snapshot descriptor and cut time of the current order, time of its cut point, TAILs that wait for an order (port, identifier), identifiers whose TAILs change nothing, log length and entries, recorded unit state, tiles being saved and restored with the core state each was in, tiles recorded, parts not yet confirmed (0 to 167 tiles, 168 unit state, 169 log, 170 manifest) and those begun, writes to send (part, address, bytes, whether marked poisoned) and unanswered (tag, part), and the latest order refused while the cut runs (identifier, reason). For time: good exchanges in a row, time of the last, whether a request is unanswered, nanoseconds of slew left and of time since the last one. For restores: this module's own and the adopted partner's that wait for their resume time (R333, R336), whether that time has been written since, and express commands restarted that wait for the slot of their queue. For mirrors: the sectors of a resync still to send, as (region, next, last). -/
structure CutSt where
  snap : List Byte := []
  time : Nat := 0
  point : Nat := 0
  tails : List (Nat × Nat) := []
  ignore : List Nat := []
  logLen : Nat := 0
  logSeq : Nat := 0
  unit : List Byte := []
  saving : List (Nat × Nat) := []
  saved : List Nat := []
  parts : List Nat := []
  begun : List Nat := []
  toSend : List (Nat × Nat × List Byte × Bool) := []
  out : List (Nat × Nat) := []
  shown : Option (Nat × Nat) := none
  goodRow : Nat := 0
  lastGood : Nat := 0
  asked : Bool := false
  slew : Int := 0
  slewAcc : Nat := 0
  own : Option Restore := none
  twin : Option Restore := none
  resumeSet : Bool := false
  xpend : List XPend := []
  walk : List (Nat × Nat × Nat) := []
deriving DecidableEq, Repr

/-- Whether a restore waits for its resume time. -/
def CutSt.restored (c : CutSt) : Bool := c.own.isSome || c.twin.isSome

/-! ### Ulusen ports (R236 to R257) -/

/-- What a transmitted frame holds, in order: packets, control cells, FLOW cells, which carry the link field of the moment (R246), and runs of idle cells. -/
inductive FItem where
  | pkt (p : Pkt) | ctl (c : BitVec 128) | flow | idle (n : Nat)
deriving DecidableEq, Repr

/-- A frame kept for replay (R246); `lead` are the cells of packet `tail`, begun in the frame before, with which it starts. -/
structure Frame where
  num : Nat
  items : List FItem
  lead : List (BitVec 128) := []
  tail : Option Pkt := none
deriving DecidableEq, Repr

/-- What a committed cell is: a frame cell, a link control cell, the first cell of a packet, or a later one. -/
inductive RxKind where
  | frame | ctl | head | body
deriving DecidableEq, Repr

/-- A committed cell; `held` where it lies in a reservation (R254), `pre` where it was here at the cut point, `log` where it arrived before its port's TAIL (R323), `wait` the number of TAILs before it that hold its port (R318), and the receive stamp of a first cell (R313). -/
structure RxCell where
  kind : RxKind
  held : Bool := false
  pre : Bool := false
  log : Bool := false
  wait : Nat := 0
  rt : Nat := 0
  c : BitVec 128
deriving DecidableEq, Repr

/-- A port beyond its registers. Taps: by 8 × lane + tap, steps from the preset. Transmit side: frames held, number of the next frame, frame to resend from, the last replay request acted on and whether its repeat is held off and has come, output queue, control cells to send, gen and mode last marked, cells sent in closed mode, and the limits of the newest link field. Receive side: committed cells, place in the incoming frame, whether that frame is the one needed, the frame needed and how many of its codewords are committed, bits of a cell not yet whole, those of a frame of MEASURE, scrambler state, cells left of the packet now committing and its VC, mode of the stream, replay request, on bits, gen, whether MARK has arrived, shared and reserved cells by VC, limits' base and freed cells, the link field last sent, and the queue of received packets. `savedTaps` are the tap settings last saved (R252); `carry` the cells of packet `carryPkt` that the next frame starts with; `opened` where the frame now sent still takes cells; `wire` the cells of that frame so far; `laneHeads`, in TRAIN, what the training frame of each logical lane carries in place of the frame cell (R249); `quiet` the cell positions sent since the last FLOW (R245), from 63 on none being waited for. `nap` is a request sent, `napEnter` an accepted state to enter, and `turned` whether the season has turned since (R407). -/
structure Port where
  saved : Bool := false
  savedTaps : Map Int := []
  idle : Bool := false
  taps : Map Int := []
  tapPend : List (Nat × Nat × Nat) := []
  retrainReq : Bool := false
  retraining : Bool := false
  waking : Bool := false
  good : Nat := 0
  pings : Nat := 0
  echoes : Nat := 0
  pingAt : Map (Option Nat) := []
  turned : Bool := false
  frames : List Frame := []
  txNum : Nat := 0
  carry : List (BitVec 128) := []
  carryPkt : Option Pkt := none
  opened : Bool := false
  wire : List (BitVec 128) := []
  laneHeads : List (BitVec 128) := []
  quiet : Nat := 63
  resend : Option Nat := none
  replayAck : Option Nat := none
  holdoff : Bool := false
  again : Bool := false
  outq : List QPkt := []
  ctlq : List FItem := []
  txGen : Bool := false
  txClosed : Bool := false
  sent : Map Nat := []
  limits : Map Nat := []
  cells : List RxCell := []
  cwIdx : Nat := 0
  accept : Bool := false
  need : Nat := 0
  done : Nat := 0
  part : Nat := 0
  partBits : Nat := 0
  mpart : Nat := 0
  mpartBits : Nat := 0
  scr : Nat := 0
  left : Nat := 0
  leftVc : Nat := 0
  cmode : Bool := false
  replay : Bool := false
  onv : Nat := 63
  gen : Bool := false
  markSeen : Bool := true
  shared : Map Nat := []
  resv : Map Nat := []
  base : Map Nat := []
  freed : Map Nat := []
  lastField : Nat := 0
  inq : List QPkt := []
  nap : Option Bool := none
  napEnter : Option Bool := none
deriving DecidableEq, Repr

/-- Who waits for the response to a tag (R450). -/
inductive Requester where
  | shunt (ch addr len : Nat) | coll (key block member : Nat) | cow (station : Nat) (record : Nat) | snap | mirror (region station addr : Nat) | mgt (cmd : Nat)
deriving DecidableEq, Repr

/-- A tag in use: its requester, the cycle its request was sent in, and whether the requester has stopped waiting. -/
structure TagUse where
  who : Requester
  at_ : Nat := 0
  abandoned : Bool := false
deriving DecidableEq, Repr

/-- A request that found no free tag and waits for one (R450). -/
structure TagWait where
  src : Nat
  who : Requester
  pkt : Pkt
deriving DecidableEq, Repr

/-- Counts of a conversion (R66). -/
structure Census where
  elements : Nat := 0
  zero : Nat := 0
  nan : Nat := 0
  pinf : Nat := 0
  ninf : Nat := 0
  ovf : Nat := 0
  sat : Nat := 0
  subnormal : Nat := 0
  underflow : Nat := 0
  flo : Nat := 0
  rpl : Nat := 0
  top : Nat := 0
  topValid : Bool := false
  status : Byte := 0#8
  hist : List Nat := []
deriving DecidableEq, Repr

/-! ### Collectives (R286 to R300) -/

/-- A packet held by the collective logic (R302), and when it arrived. -/
structure HeldPkt where
  q : QPkt
  at_ : Nat
deriving DecidableEq, Repr

/-- A collective bound to a cid: phase (0 free, 1 zeroing, 2 running, 3 replay dispatched, 4 completing, 5 completed here with results or reports for other members still to leave), descriptor and its address, command and tile it serves, next element to send (kind 2: next piece), blocks to send again with the next element of the first, counts and rounds of owned blocks, blocks whose final report is held, OR of status bytes, greatest hist_top and whether all were zero, completion code met, reports to apply (slot, report, whether another module sent it), result writes waiting for a tag (block, member, address, data), unanswered writes by 2^20 × block + member, reports that wait for them (block, member, report), replay list, blocks the running replay command covers, the status it completed with, tickets by rank and the bytes of each that have come (as bits), floor-table entries as last written, the tensor scale chosen, complete blocks whose conversion waits for a history append, and the place in the order in which collectives were bound here (R72). -/
structure Coll where
  phase : Nat := 0
  desc : List Byte := []
  addr : Nat := 0
  cmd : Option Nat := none
  tile : Option Nat := none
  next : Nat := 0
  resend : List Nat := []
  pos : Nat := 0
  counts : Map Nat := []
  rounds : Map Nat := []
  fins : Map Bool := []
  finals : Nat := 0
  stat : Byte := 0#8
  top : Nat := 0
  zero : Bool := true
  code : Nat := 0
  reports : List (Nat × Nat × Bool) := []
  wq : List (Nat × Nat × Nat × List Byte) := []
  outst : Map Nat := []
  due : List (Nat × Nat × Nat) := []
  rlist : List Nat := []
  rrun : List Nat := []
  rbusy : Bool := false
  ended : Option Nat := none
  tickets : Map (List Byte) := []
  got : Map Nat := []
  ents : Map (Option Nat) := []
  scale : Option Nat := none
  hold : List Nat := []
  bound : Nat := 0
deriving DecidableEq, Repr

/-! ### Express units (R164, R168) -/

/-- An express unit: the slab now streaming (queue, slab), its chunks still to stream (row, chunk), the partial words of the row now streamed (by vector), the halves of its bank in use (queue, slab, streamed), whether the slab now streaming began while both queues waited, and the bytes of R180's count: of the siding and in all. -/
structure XUnit where
  cur : Option (Nat × Nat) := none
  chunks : List (Nat × Nat) := []
  words : Map L576 := []
  tags : Map Byte := []
  halves : List (Nat × Nat × Bool) := []
  both : Bool := false
  siding : Nat := 0
  total : Nat := 0
deriving DecidableEq, Repr

/-- A partial word on its way to its collector (R168). -/
structure XPart where
  q : Nat
  dst : Nat
  row : Nat
  v : Nat
  word : L576
  tag : Byte
deriving DecidableEq, Repr

/-- A matrix-vector command in the command slot of every express unit (R171): its descriptor, the host command it serves, the next slab of each unit, the floor of each slab read, the collected words with tags and partials counted (by 16 × row + vector), the status byte of each block, the status met, the tensor scale, and the census of its conversions. -/
structure XCmd where
  desc : List Byte
  cmd : Nat
  next : Map Nat := []
  floors : Map (Option Nat) := []
  words : Map L576 := []
  tags : Map Byte := []
  got : Map Nat := []
  stat : Map Byte := []
  status : Nat := 0
  scale : Option Nat := none
  census : Census := {}
deriving DecidableEq, Repr

/-! ### Host side (R366, R374) -/

/-- A memory write the module sends to the host. -/
structure HostWr where
  addr : Nat
  data : List Byte
  poison : Bool := false
deriving DecidableEq, Repr

/-- A step of a history record whose scale is chosen and whose entry is not yet appended (R70, R72): the conversion that holds it, the scale byte, and, where a suspension or a repeat took the conversion off its unit (no owner), the descriptor by which it takes the step up again; `siding` where a drain of a siding tile left it. -/
structure HistStep where
  owner : Option Nat
  scale : Nat
  desc : List Byte := []
  siding : Bool := false
deriving DecidableEq, Repr

/-- A check slot (R343): 0 free, 1 its pass runs, 2 its pass ended and the closing image is due, 3 filled, 4 under a first check, 5 mismatch and waiting for a second check, 6 under a second check; `flips` are the words (64 × index + lane) in which the first checker's result differed from the right one. -/
structure CheckSlot where
  st : Nat := 0
  tile : Nat := 0
  set : Nat := 0
  steps : Nat := 0
  cmd : Option Nat := none
  checker : Nat := 0
  second : Nat := 0
  flips : List (Nat × L576) := []
deriving DecidableEq, Repr

/-- A shunting channel beyond its registers (R218, R219, R231): the starting tile and its event bit, whether siding rules bind it, whether it runs the register descriptor, the descriptor bytes, whether they are a restored descriptor to run again (R230), the phase (0 to begin a descriptor, 1 moving, 2 read-back under way, 3 read-back returned), the last address written, remote writes unanswered and not yet sent (address, bytes, poison), an error waiting for them, and the SHUNT command it serves. -/
structure Shunt where
  starter : Option Nat := none
  evt : Option Nat := none
  siding : Bool := false
  direct : Bool := false
  desc : List Byte := []
  again : Bool := false
  phase : Nat := 0
  lastW : Nat := 0
  remoteOut : Nat := 0
  toSend : List (Nat × List Byte × Bool) := []
  err : Option (Nat × Nat) := none
  cmd : Option Nat := none
deriving DecidableEq, Repr

/-- A SIG on its way (R131). -/
structure Signal where
  src : Nat
  dst : Nat
  bit : Nat
deriving DecidableEq, Repr

/-- What a unit reports inside a command, for the dispatcher, the cut logic and the integrity logic to act on before the command ends; the list is empty between commands. -/
inductive Notice where
  | stopped (tile : Nat)
  | ended (tile code : Nat)
  | sigh (tile code : Nat)
  | failed (tile cause : Nat)
  | saved (tile : Nat)
  | saveFailed (tile : Nat)
  | restored (tile : Nat)
  | shuntDone (id code addr : Nat)
  | expressDone (slot status addr : Nat)
  | collDone (key cmd code : Nat)
  | collReplay (key : Nat)
  | vote (addr cid cmd : Nat)
  | portChange (port old new : Nat)
  | lost (die count : Nat)
deriving DecidableEq, Repr

/-! ### Commands (R366 to R378) -/

/-- A rank of a command: its tile, its place in the stage schedule, its state (0 waits for sync, 1 runs, 2 has ended), the code of its last END, the drains it had completed before a failure and the tensor scales they used (R354), and, until a restored rank goes on, the scales of those its record counts. -/
structure Rank where
  tile : Nat
  pos : Nat := 0
  st : Nat := 1
  code : Nat := 0
  drains : Nat := 0
  scales : List Nat := []
  done : List Nat := []
deriving DecidableEq, Repr

/-- A command fetched and not completed, or one whose tiles stay held after an exception: identifier, entry, phase (0 waits to start, 1 in progress, 2 stopped until tiles stand in for failed ones, 3 completed with its tiles held), the collective a replay command serves, ranks, whether a pass of it was wrong (R346), repeats, the start latch of its waybill, whether that was latched again, whether a counter had count_en 0, what the counters of tiles that left or joined add to its end latch, and the stage schedule as read. -/
structure Cmd where
  id : Nat
  entry : List Byte
  phase : Nat := 0
  coll : Option Nat := none
  ranks : List Rank := []
  tainted : Bool := false
  repeats : Nat := 0
  t0 : Nat := 0
  latch : List Nat := []
  restored : Bool := false
  part : Bool := false
  adj : List Int := []
  sched : List Byte := []
deriving DecidableEq, Repr

/-- A completion entry that waits for room in its ring (R374): ring, its first 8 bytes without the phase, command identifier, arg, whether it raises the ring's event. -/
structure CqEnt where
  ring : Nat
  head : Nat
  cmd : Nat
  arg : Nat
  irq : Bool
deriving DecidableEq, Repr

/-- A management order (R378). -/
structure MOrder where
  off : Nat
  read : Bool
  value : Nat
  mask : Nat
deriving DecidableEq, Repr

/-- A list of orders at the arbiter: master (0 fabric manager, 1 host, 2 twin, 3 other), orders left, results so far, atomic flag, whether its first order is still to come, and who waits: a command of this module, or the source and tag of an MGT packet and whether it was marked (R278). -/
structure MList where
  master : Nat
  orders : List MOrder
  results : List (Nat × Nat) := []
  atomic : Bool
  fresh : Bool := true
  cmd : Option Nat := none
  src : Nat := 0
  tag : Nat := 0
  echo : Bool := false
deriving DecidableEq, Repr

/-- The host block beyond its registers: commands in fetch order, next sequence number by ring, completion entries held by station-master core, passes through each completion ring, and order lists in arrival order with the master that holds the arbiter. -/
structure HostSt where
  cmds : List Cmd := []
  seqs : Map Nat := []
  cqq : Map (List CqEnt) := []
  pass : Map Nat := []
  arb : List MList := []
  hold : Option Nat := none
deriving DecidableEq, Repr

/-- A possession (R347, R348): phase (0 none, 1 tile chosen and waiting to become idle, 2 being saved, 3 under test, 4 passed, 5 being restored), tile, its ITG_TILE_CTRL state and core state before, forced, calibration alone, timer rounds waited, the trim and droop threshold calibrated, the record of a lane row that was suspended before, its TIL_CS_EPC, whether it was single-stepped, the memory error that waited, the words of its stores that were uncorrectable, and the failed tile that it was chosen to replace when the possession began (R355); the core state is 7 once the tile's work is discarded. -/
structure Poss where
  st : Nat := 0
  tile : Nat := 0
  prev : Nat := 0
  core : Nat := 0
  forced : Bool := false
  cal : Bool := false
  rounds : Nat := 0
  trim : Nat := 0
  droop : Nat := 0
  away : Option Nat := none
  epc : Nat := 0
  step : Bool := false
  defer : Option Defer := none
  bad : List Nat := []
  takes : Option Nat := none
deriving DecidableEq, Repr

/-- The integrity logic beyond its registers: possession and tile last possessed by die, requests in arrival order (tile, force, cal_only), the failed tile each chosen spare replaces, and the tiles whose cores ran as the last reset reached them. -/
structure ItgSt where
  poss : Map Poss := []
  last : Map Nat := []
  reqs : List (Nat × Bool × Bool) := []
  spare : Map (Option Nat) := []
  halting : List Nat := []
deriving DecidableEq, Repr

/-- One-time fuses (R387, R403): security version, revoked slots, digests of the Kryler keys, digest of the owner key, serial number. -/
structure Fuses where
  svn : Nat := 0
  revoked : Nat := 0
  keys : List (List Byte) := []
  owner : Option (List Byte) := none
  serial : Nat := 0
deriving DecidableEq, Repr

/-- The boot side: PCIe link, its width and rate (R363), image range and identity area of the attachment (an empty image range is blank), the image now running, whether each core's firmware has started, an update in progress (command, image, enrol), and an image fetched in recovery. -/
structure BootSt where
  pcie : Bool := false
  masterOff : Bool := false
  x8 : Bool := false
  rate : Nat := 5
  flash : List Byte := []
  ident : List Byte := []
  fuses : Fuses := {}
  image : List Byte := []
  fw : Nat := 0
  attach : Option (Nat × List Byte × Bool) := none
  fetched : Option (List Byte) := none
deriving DecidableEq, Repr

/-- The power controller beyond its registers: draws of the last second, newest first; ticks of the excursion above sustain_w, whether the last draw was above it, and whether each die was at warn_c or above; ticks calm and ticks at level 15 by die; whether a die's suspension was taken for heat; rows suspended by it, and tiles it runs at level 15 since their suspension was refused (R448); island states (0 to 27 stations, 28 and 29 yard halves, 30 and 31 shunting halves, 32 to 35 CXL ports) with the codes of PWR_TILE; tiles skipping cycles under R411, and the cycles each tile has skipped. -/
structure PowerSt where
  draws : List Nat := []
  overTicks : Nat := 0
  above : Bool := false
  warm : Bool × Bool := (false, false)
  calm : Map Nat := []
  top : Map Nat := []
  heat : Map Bool := []
  rows : List Nat := []
  at15 : List Nat := []
  isl : Map Nat := []
  droop : Map Bool := []
  skips : Map Nat := []
deriving DecidableEq, Repr

/-- The module as an object (R437 to R446): main input in 0.1 V, converters (0 stopped, 1 in soft start, 2 in regulation), stopped by an input above 57 V, BOARD_RESET_N low, PERST_N asserted, thermal trip, leak seen, the three references running (bit 0 25 MHz, bit 1 100 MHz, bit 2 156.25 MHz), the block sampled at the last station tick, the answer of the last management-bus read, and the address straps (2 × MGMT_ADDR1 + MGMT_ADDR0; their pull-downs read 0). -/
structure PhysSt where
  vin : Nat := 510
  conv : Nat := 2
  overV : Bool := false
  low : Bool := false
  perst : Bool := false
  trip : Bool := false
  leak : Bool := false
  refs : Nat := 7
  sampled : List Byte := []
  answer : Option (List Byte) := none
  straps : Nat := 0
deriving DecidableEq, Repr

/-- Why the machine stops with a fault. -/
inductive Fault where
  /-- Raised by BAR2_ACCESS for an access that crosses the BAR2 window: R364 forbids the host to issue it and gives it no effect. Safe: no next state is claimed. -/
  | bar2WindowCrossed
deriving DecidableEq, Repr

/-- Why the model refuses a command. -/
inductive Refusal where
  /-- Raised by Machine/Dispatch.lean for a command without a meaning yet. Safe. -/
  | notModelled (mnemonic : String)
deriving DecidableEq, Repr

/-- The state of the module. -/
structure State where
  /-- Commands waiting, first in first out (the model's queue). -/
  pending : List Instr := []
  /-- Main-clock cycles since reset (R5). -/
  cycle : Nat := 0
  /-- Ninths of a nanosecond of railway time not yet counted (R312). -/
  rtFrac : Nat := 0
  /-- Uses of free values so far (the model's own counter). -/
  freeCount : Nat := 0
  /-- Register fields by `Fld.key`; each is held as its difference (exclusive or) from its reset value, so that an unlisted field holds its reset value. -/
  flds : Map Nat := []
  /-- Values the configuration record gave at boot, kept for later resets (R381). -/
  cfgVals : List (Nat × Nat) := []
  /-- Device memory by 48-bit address (R184); an unlisted byte reads as 0. -/
  mem : List Host.Cell := []
  /-- By sector address: what the stored check bytes differ from the right ones by (R189); 0 is clean, all ones is the poison pattern. -/
  chk : Map (BitVec 32) := []
  /-- By 8-byte address of a yard or tile store: 1 a single-bit, 2 a double-bit error (R209). -/
  storeErr : Map Nat := []
  /-- By sector address: poison held by a CXL device (R210). -/
  cxlPoison : Map Bool := []
  /-- State words of segments (R204), by station and segment. -/
  stateWords : Map (BitVec 64) := []
  /-- Arm records being swept (R207), by 8 × station + record. -/
  sweep : Map Bool := []
  /-- 24 Gbit devices are fitted (R194). -/
  dens24 : Bool := false
  /-- Signal-box entries (R421), by 256 × box + entry. -/
  boxes : Map (BitVec 128) := []
  /-- Memory writes and messages sent to the host, oldest first. -/
  hostOut : List HostWr := []
  /-- Number of the next event record (R358). -/
  itgSeq : Nat := 0
  /-- BAR2 window size in bytes (R363). -/
  bar2Size : Nat := 2 ^ 36
  /-- Open steps of history records, by record address (R70, R72). -/
  hist : Map (Option HistStep) := []
  /-- Check slots, by 8 × die + slot (R343). -/
  checks : Map CheckSlot := []
  /-- Passes opened on each die (R342). -/
  passes : Map Nat := []
  /-- The next pass of the die is selected (R342). -/
  dupNext : Map Bool := []
  /-- Reports made inside the running command; empty between commands. -/
  notices : List Notice := []
  shunts : Map Shunt := []
  signals : List Signal := []
  /-- Observation token buckets, by die: bytes spent below the full 64 KiB (R426). -/
  bucket : Map Int := []
  /-- Trace records lost and not yet reported, by die: count, and first source (R426). -/
  traceLost : Map (Nat × Nat) := []
  /-- Station-master cores whose trace runs, by master: the cycle of the previous trace record (R424, R425). -/
  smTraced : Map (Option Nat) := []
  tiles : Map TileSt := []
  /-- Resident vectors of the express units, the same in every unit (R164, R170): bf16 element by 32,768 × slot + element. -/
  expVec : Map Nat := []
  /-- Elements K loaded into each slot. -/
  expK : Map Nat := []
  /-- Matrix-vector commands by queue: 0 training, 1 siding. -/
  xcmds : Map (Option XCmd) := []
  xunits : Map XUnit := []
  xparts : List XPart := []
  /-- Sixteenths of an express unit owed to the siding (R178), from the configuration record. -/
  sidingShare : Nat := 0
  stations : Map StationSt := []
  ports : Map Port := []
  /-- Injection queue of the router (R267). -/
  injq : List QPkt := []
  /-- Ejected packets waiting for the unit that owns their address (R266). -/
  ejq : List QPkt := []
  /-- Collectives by cid; 256 and more are the adopted partner's (R334). -/
  colls : Map Coll := []
  /-- Packets held until their cid binds (R302), oldest first. -/
  heldq : List HeldPkt := []
  /-- The router (R277 to R281). -/
  router : Router := {}
  /-- The cut logic (R312 to R337). -/
  cut : CutSt := {}
  /-- Request tags in use (R450). -/
  tags : Map (Option TagUse) := []
  /-- Requests that wait for a tag, oldest first (R450). -/
  tagq : List TagWait := []
  /-- Commands, completions and management orders (R366 to R380). -/
  host : HostSt := {}
  /-- Possessions and spares (R347 to R355). -/
  itg : ItgSt := {}
  /-- Boot, attachment and fuses (R385 to R401). -/
  boot : BootSt := {}
  /-- The power controller (R404 to R416). -/
  power : PowerSt := {}
  /-- Connectors and supply (R437 to R446). -/
  phys : PhysSt := {}
  /-- Answers to BAR2 accesses, newest last (R364): none is an unsupported request; else the data read and whether it is poisoned. -/
  bar2 : List (Option (List Byte × Bool)) := []
deriving DecidableEq, Repr

/-- The machine right after a board reset, before boot. -/
def State.reset : State := {}

end Sys2Proof.Machine
end

