-- ==== Sys2Proof/Machine/Ops.lean ====
section
/-! DEFINITION. The named operations every block uses: register fields, counters, signal boxes (R421 to R423), MSI-X (R377), host writes, event records (R358), packet injection (R274, R276), tags (R450), and the damage of a cut (R329). -/

namespace Sys2Proof.Machine

/-! ### Register fields -/

/-- The value of field `f` at index `i`. -/
def rd (f : Fld) (i : Nat) (s : State) : Nat := Map.get (fun _ => 0) s.flds (f.key i) ^^^ f.rst0 i

/-- Field `f` at index `i` set to `v`, cut to its width. -/
def wr (f : Fld) (i v : Nat) (s : State) : State :=
  { s with flds := Map.set (fun _ => 0) s.flds (f.key i) ((v % 2 ^ f.w) ^^^ f.rst0 i) }

/-- Whether the field is nonzero. -/
def on (f : Fld) (i : Nat) (s : State) : Bool := rd f i s != 0

/-- A counter advanced by `n`, modulo its width (R105). -/
def bump (f : Fld) (i n : Nat) (s : State) : State := wr f i (rd f i s + n) s

/-- A field raised by `n`, saturating at its largest value. -/
def satBump (f : Fld) (i n : Nat) (s : State) : State := wr f i (min (rd f i s + n) (2 ^ f.w - 1)) s

/-- Bit `k` of a field set or cleared. -/
def wrBit (f : Fld) (i k : Nat) (b : Bool) (s : State) : State :=
  let v := rd f i s
  wr f i (if b then (if v.testBit k then v else v + 2 ^ k) else (if v.testBit k then v - 2 ^ k else v)) s

/-- Railway time, in ns (R312). -/
def now (s : State) : Nat := rd CUT_RTIME_rtime 0 s

/-- The whole value of register `r` at index (i, j) as its fields give it; the derived fields are laid over it where registers are read. -/
def regRaw (r : Reg) (ix : Nat) (s : State) : Nat :=
  r.flds.foldl (fun a f => a + (if f.acc == .WO then 0 else rd f ix s) * 2 ^ f.lo) 0

/-- A fresh index for a free value. -/
def bumpFree (s : State) : State := { s with freeCount := s.freeCount + 1 }

/-! ### Boot lock (R395) -/

/-- Boot lock has taken effect. -/
def bootLocked (s : State) : Bool := on BTC_STATUS_locked 0 s

/-- What software orders has its effect only once boot is locked: no user code, no channel and no port runs before (R392, R395; DESIGN CHOICE, log entry 83: an order before is dropped). -/
def afterLock (f : State → State) (s : State) : State := if bootLocked s then f s else s

/-- An RWL field that software may not write: any once boot is locked (R8), and a protection region always, for only the boot ROM writes those (R395). -/
def rwlHeld (f : Fld) (s : State) : Bool := bootLocked s || f.reg.id == MST_PROT_LO.id || f.reg.id == MST_PROT_HI.id

/-! ### Signal boxes -/

/-- Boxes of R420. -/
def boxStation (n : Nat) : Nat := 168 + n
def boxSHN : Nat := 196
def boxRTR : Nat := 197
def boxCOL : Nat := 198
def boxCUT : Nat := 199
def boxITG : Nat := 200
def boxHST : Nat := 201
def boxBTC : Nat := 202
def boxPWR : Nat := 203
def boxPort (p : Nat) : Nat := 208 + p

/-- An event sent to box `n` (R421); a frozen box counts it in lost (R423). -/
def event (n code detail arg : Nat) (s : State) : State :=
  if on DBG_BOX_HEAD_freeze n s then satBump DBG_BOX_HEAD_lost n 1 s else
  let c := rd DBG_BOX_HEAD_count n s
  let e := BitVec.ofNat 128 (now s % 2 ^ 64 + (code % 256) * 2 ^ 64 + (detail % 256) * 2 ^ 72 + (arg % 2 ^ 48) * 2 ^ 80)
  bump DBG_BOX_HEAD_count n 1 { s with boxes := Map.set (fun _ => 0#128) s.boxes (256 * n + c % 256) e }

/-- A list of entries with `e` put in by its code, behind those of the same code. -/
def insertCode (e : BitVec 128) : List (BitVec 128) → List (BitVec 128)
  | [] => [e]
  | x :: l => if bits x.toNat 64 8 ≤ bits e.toNat 64 8 then x :: insertCode e l else e :: x :: l

/-- The entries box `n` took since its count was `c0`, put in ascending code order: they are of one unit and one cycle (R421). -/
def ascending (n c0 : Nat) (s : State) : State :=
  let k := rd DBG_BOX_HEAD_count n s - c0
  if k ≤ 1 then s else
  let at_ := fun (i : Nat) => 256 * n + (c0 + i) % 256
  let es := ((List.range k).map fun i => Map.get (fun _ => 0#128) s.boxes (at_ i)).foldl (fun l e => insertCode e l) []
  { s with boxes := (List.range k).foldl (fun m i => Map.set (fun _ => 0#128) m (at_ i) (es.getD i 0#128)) s.boxes }

/-- The entries each box took since `pre`, in ascending code order: what several masters of one cycle cause (R421). -/
def ascendAll (pre s : State) : State := (List.range 224).foldl (fun s n => ascending n (rd DBG_BOX_HEAD_count n pre) s) s

/-! ### The host side -/

/-- A write sent to the host; none leaves while bus mastering is off (R381; DESIGN CHOICE, log entry 88). -/
def hostSend (w : HostWr) (s : State) : State := { s with hostOut := if s.boot.masterOff then s.hostOut else s.hostOut ++ [w] }

/-- A memory write sent to the host. -/
def hostWrite (a : Nat) (d : List Byte) (s : State) : State := hostSend { addr := a, data := d } s

/-- The message of MSI-X vector `v`, or its pending bit where the vector is masked (R363, R377). -/
def msixSend (v : Nat) (s : State) : State :=
  if on MSIX_DATA_mask v s then wrBit MSIX_PBA_pend (v / 64) (v % 64) true s
  else hostWrite (rd MSIX_ADDR_addr v s) (leBytes (rd MSIX_DATA_data v s) 4) s

/-- Event source `src` of R377 is raised. -/
def msix (src : Nat) (s : State) : State := msixSend (rd HST_VEC_MAP_vector src s) s

/-- A 32-byte event record of R358 for the host, or evt_overflow. -/
def itgEvent (kind tile other detail cmd arg : Nat) (s : State) : State :=
  let h := rd ITG_EVT_HEAD_head 0 s
  let seq := s.itgSeq
  let s := { s with itgSeq := seq + 1 }
  if (h + 1) % 256 = rd ITG_EVT_TAIL_tail 0 s then wr ITG_STATUS_evt_overflow 0 1 s else
  let d := leBytes (kind % 256 + (tile % 256) * 2 ^ 8 + (other % 256) * 2 ^ 16 + (detail % 256) * 2 ^ 24 + (seq % 2 ^ 32) * 2 ^ 32) 8
    ++ leBytes (now s) 8 ++ leBytes cmd 8 ++ leBytes arg 8
  msix 241 (bump ITG_EVT_HEAD_head 0 1 (hostWrite (rd ITG_EVT_BASE_base 0 s * 2 ^ 13 + 32 * h) d s))

/-! ### Sub-states -/

def tile (t : Nat) (s : State) : TileSt := Map.get (fun _ => {}) s.tiles t
def setTile (t : Nat) (x : TileSt) (s : State) : State := { s with tiles := Map.set (fun _ => {}) s.tiles t x }
def core (t : Nat) (s : State) : Core := (tile t s).core
def lrow (t : Nat) (s : State) : LaneRow := (tile t s).lr
def setCore (t : Nat) (c : Core) (s : State) : State := setTile t { tile t s with core := c } s
def setLr (t : Nat) (l : LaneRow) (s : State) : State := setTile t { tile t s with lr := l } s
def modCore (t : Nat) (f : Core → Core) (s : State) : State := setCore t (f (core t s)) s
def modLr (t : Nat) (f : LaneRow → LaneRow) (s : State) : State := setLr t (f (lrow t s)) s
def station (n : Nat) (s : State) : StationSt := Map.get (fun _ => {}) s.stations n
def setStation (n : Nat) (x : StationSt) (s : State) : State := { s with stations := Map.set (fun _ => {}) s.stations n x }

/-- Bytes of an accumulator store: 2 × 32 × 64 entries of 72 bytes (R73). -/
def accBytes : Nat := 294912

/-- TIL_CS_CYCLE: cycles not skipped since it was last cleared (R405). -/
def tileCycle (t : Nat) (s : State) : Nat := (s.cycle - Map.get (fun _ => 0) s.power.skips t - (core t s).cycle0) % 2 ^ 64

/-- Source class of tile `t` (R199). -/
def tileClass (t : Nat) (s : State) : Nat := if on ITG_TILE_CTRL_siding t s then 1 else 0

/-! ### Islands (R404, R406 to R408) -/

/-- Whether the station clock runs (R404, R440, R443). -/
def stationClock (s : State) : Bool := s.phys.conv == 2 && !s.phys.trip && s.phys.refs.testBit 0

def modPower (f : PowerSt → PowerSt) (s : State) : State := { s with power := f s.power }
def isl (i : Nat) (s : State) : Nat := Map.get (fun _ => 0) s.power.isl i
def setIsl (i v : Nat) (s : State) : State := modPower (fun p => { p with isl := Map.set (fun _ => 0) p.isl i v }) s

/-- RETRAIN_REQ: retraining of every device is queued. -/
def retrainReq (st : Nat) (s : State) : State := setStation st { station st s with retrainQ := 15 } s

/-- GDDR7_REFRESH: the refresh window of device `d`; queued retraining runs within it. The window opens and closes within this command. -/
def refresh (st d : Nat) (s : State) : State :=
  let x := station st s
  if x.retrainQ.testBit d then bump MST_RETRAINS_count st 1 (setStation st { x with retrainQ := x.retrainQ - 2 ^ d } s) else s

/-- A sleeping tile begins to wake (R407); its island sequencer runs on the station clock (R404). -/
def wakeTile (t : Nat) (s : State) : State :=
  if !stationClock s ∨ rd PWR_TILE_state t s = 0 ∨ rd PWR_TILE_state t s = 4 then s else bump PWR_WAKES_count 0 1 (wr PWR_TILE_state t 4 s)

/-- A sleeping island other than a tile begins to wake. A station that leaves self-refresh retrains its devices first (R408). -/
def wakeIsl (i : Nat) (s : State) : State :=
  if !stationClock s ∨ isl i s = 0 ∨ isl i s = 4 then s else
  let s := if i < 28 ∧ isl i s = 3 then (List.range 4).foldl (fun s d => refresh i d s) (retrainReq i s) else s
  bump PWR_WAKES_count 0 1 (setIsl i 4 s)

/-- The next free value, and the state that has used it. -/
def takeFree (s : State) : Nat × State := (Config.free s.freeCount, bumpFree s)

/-! ### Coordinates and packets -/

def ownCoord (s : State) : Nat := rd RTR_COORD_coord 0 s

/-- The coordinate that differs only in t (R262). -/
def twinOf (c : Nat) : Nat := if c.testBit 17 then c - 2 ^ 17 else c + 2 ^ 17

/-- The virtual channel of a packet type (R265). -/
def vcOf (typ : Nat) : Nat :=
  if typ ≥ 0x80 then 1 else if typ ≥ 0x50 then 4 else if typ = 0x40 then 3 else if typ ≥ 0x30 then 2 else 0

/-- The header as a number (R263). -/
def Pkt.header (p : Pkt) : Nat :=
  let n := fun (b : Bool) => if b then 1 else 0
  p.typ % 256 + (p.vc % 8) * 2 ^ 8 + (p.tt % 2) * 2 ^ 11 + n p.ca * 2 ^ 12 + n p.ae * 2 ^ 13 + (p.payload.length % 512) * 2 ^ 15
  + (p.dst % 2 ^ 18) * 2 ^ 24 + (p.src % 2 ^ 18) * 2 ^ 42 + (p.hops % 256) * 2 ^ 60 + (p.tag % 4096) * 2 ^ 68 + (p.addr % 2 ^ 48) * 2 ^ 80

/-- A packet injected: stamped with the timetable in force (R274) and counted (R276). -/
def inject (p : Pkt) (s : State) : State :=
  let tt := rd RTR_CONTROL_stamp 0 s
  let p := { p with tt := tt, vc := vcOf p.typ, hops := 0 }
  bump RTR_INJ_count tt 1 { s with injq := s.injq ++ [{ pkt := p, from_ := 16, hdr := p.header }] }

/-- The lowest free tag of the pool of R450. -/
def freeTagFrom (m : Map (Option TagUse)) : Nat → Nat → Option Nat
  | 0, _ => none
  | n + 1, k => if (Map.get (fun _ => none) m k).isNone then some k else freeTagFrom m n (k + 1)

def freeTag (s : State) : Option Nat := freeTagFrom s.tags 4096 0

def setTag (k : Nat) (u : Option TagUse) (s : State) : State := { s with tags := Map.set (fun _ => none) s.tags k u }

/-- The requester of tag `k` stops waiting (R450). -/
def abandonTag (k : Nat) (s : State) : State :=
  match Map.get (fun _ => none) s.tags k with
  | some u => setTag k (some { u with abandoned := true }) s
  | none => s

/-- A request injected from coordinate `src` under tag `k`. -/
def requestWith (k src : Nat) (who : Requester) (p : Pkt) (s : State) : State :=
  inject { p with tag := k, src := src } (setTag k (some { who := who, at_ := s.cycle }) s)

/-- A request from coordinate `src` with a tag of its own; where no tag is free it waits for one (R450). -/
def requestAs (src : Nat) (who : Requester) (p : Pkt) (s : State) : State :=
  match freeTag s with
  | none => { s with tagq := s.tagq ++ [{ src := src, who := who, pkt := p }] }
  | some k => requestWith k src who p s

/-- Tag `k` is freed: the oldest request that waits for a tag takes it (R450). -/
def tagFree (k : Nat) (s : State) : State :=
  let s := setTag k none s
  match s.tagq with
  | [] => s
  | q :: l => requestWith k q.src q.who q.pkt { s with tagq := l }

/-- A request of this module. -/
def request (who : Requester) (p : Pkt) (s : State) : State := requestAs (ownCoord s) who p s

/-! ### Cut status -/

/-- The cut state changes and the change is recorded (R339, R422); a refusal shown in its place is over. -/
def cutState (v : Nat) (s : State) : State :=
  event boxCUT 0x10 v (rd CUT_STATUS_cut_id 0 s) (wr CUT_STATUS_state 0 v { s with cut := { s.cut with shown := none } })

/-- CUT_STATUS.event and the CUT MSI-X event (R339). -/
def cutEvent (s : State) : State := msix 240 (wr CUT_STATUS_event 0 1 s)

/-- Once no record is being swept any more, a cut under sweep reads damaged (R329). -/
def sweepEnd (s : State) : State :=
  if on CUT_STATUS_sweeping 0 s && s.sweep.isEmpty then
    cutEvent (cutState 6 (wr CUT_STATUS_sweeping 0 0 s))
  else s

/-- Every armed record given to the sweep (R207, R329). -/
def sweepArmed (s : State) : State :=
  let ks := (List.range 224).filter fun k => (rd MST_STATUS_armed (k / 8) s).testBit (k % 8)
  { s with sweep := ks.foldl (fun m k => Map.set (fun _ => false) m k true) s.sweep }

/-- The current cut is damaged with `reason` (R325, R327, R329): its records are swept, and its state reads damaged once the sweep ends. -/
def cutDamage (reason : Nat) (s : State) : State :=
  let st := rd CUT_STATUS_state 0 s
  if on CUT_STATUS_sweeping 0 s || !(st == 1 || st == 2 || st == 3) then s else
  sweepEnd (sweepArmed (wr CUT_STATUS_reason 0 reason (wr CUT_STATUS_log_open 0 0 (wr CUT_STATUS_sweeping 0 1 s))))

end Sys2Proof.Machine
end

