-- ==== Sys2Proof/Machine/Mem.lean ====
section
/-! DEFINITION. Device memory: the address map and interleave (R184, R185, R188), the memory code and its outcomes (R189 to R192), error records (R198), protection (R199 to R201), copy-on-write pushes (R203 to R208), mirrored writes (R331), the store code (R209), the CXL tier (R211, R213), watchpoints (R428, R429), and reads, writes and atomics built on them. -/

namespace Sys2Proof.Machine

/-! ### Address map -/

/-- What an address belongs to (R184, R111). -/
inductive Where where
  | gddr | cxl (p : Nat) | yard (die : Nat) | oper (t : Nat) | prog (t : Nat) | regs | none
deriving DecidableEq, Repr

/-- Bytes of GDDR7 tier: 420 GiB, or 315 GiB with 24 Gbit devices (R194). -/
def gddrSize (s : State) : Nat := if s.dens24 then 315 * 2 ^ 30 else 420 * 2 ^ 30

/-- The area of the device address map that holds `a` (R184, R111). -/
def whereOf (a : Nat) (s : State) : Where :=
  if a < gddrSize s then .gddr
  else if 0x100000000000 ≤ a ∧ a < 0x180000000000 then .cxl ((a - 0x100000000000) / 2 ^ 41)
  else if 0x200000000000 ≤ a ∧ a < 0x20000C000000 then .yard ((a - 0x200000000000) / 0x6000000)
  else if 0x210000000000 ≤ a ∧ a < 0x21002A000000 then
    let t := (a - 0x210000000000) / 0x400000
    let o := (a - 0x210000000000) % 0x400000
    if o < 0x200000 then .oper t else if o < 0x220000 then .prog t else .none
  else if 0x300000000000 ≤ a ∧ a < 0x300004000000 then .regs
  else .none

/-- Device address of offset `o` of the window of tile `t` (R111). -/
def winAddr (t o : Nat) : Nat := 0x210000000000 + t * 0x400000 + o

/-- Whether a CXL address is backed (R211, R212). -/
def cxlBacked (p a : Nat) (s : State) : Bool :=
  on MST_CXL_STATUS_present p s && !on MST_CXL_STATUS_id_mismatch p s &&
  decide ((a - 0x100000000000) % 2 ^ 41 < rd MST_CXL_STATUS_cap_256m p s * 2 ^ 28)

/-- One byte's address is mapped and backed for an access other than by a station-master core. -/
def mapped1 (a : Nat) (s : State) : Bool :=
  match whereOf a s with
  | .none => false
  | .regs => false
  | .cxl p => cxlBacked p a s
  | _ => true

/-- The first address after the backed part of the area that holds `a`; the yard halves, and a tile's two stores, are one area. -/
def areaEnd (a : Nat) (s : State) : Nat :=
  match whereOf a s with
  | .gddr => gddrSize s
  | .cxl p => 0x100000000000 + p * 2 ^ 41 + min (rd MST_CXL_STATUS_cap_256m p s * 2 ^ 28) (2 ^ 41)
  | .yard _ => 0x20000C000000
  | .oper t => winAddr t 0x220000
  | .prog t => winAddr t 0x220000
  | .regs => 0x300004000000
  | .none => a

/-- The first unmapped or unbacked address after `a`, through at most `n` areas that follow one another (full CXL windows). -/
def mapEnd : Nat → Nat → State → Nat
  | 0, a, s => areaEnd a s
  | n + 1, a, s => if mapped1 (areaEnd a s) s then mapEnd n (areaEnd a s) s else areaEnd a s

/-- `n` bytes from `a` are mapped and backed (R112, R184). -/
def mapped (a n : Nat) (s : State) : Bool := n == 0 || (mapped1 a s && decide (a + n ≤ mapEnd 3 a s))

/-- `n` bytes from `a` that a station-master core may reach: the mapped and backed ones, or registers (R184). -/
def smMapped (a n : Nat) (s : State) : Bool := mapped a n s || (decide (whereOf a s = .regs) && decide (a + n ≤ areaEnd a s))

/-- Station and station-local data offset of a GDDR7 address (R185). -/
def stationOf (a : Nat) : Nat × Nat :=
  let g := a / 4096
  let r := g / 28
  let h := (bits r 0 5 ^^^ bits r 5 5 ^^^ bits r 10 5 ^^^ bits r 15 5 ^^^ bits r 20 2) % 28
  ((g + h) % 28, r * 4096 + a % 4096)

/-- The GDDR7 address at data offset `d` of station `n`: the inverse of R185. -/
def stationAddr (n d : Nat) : Nat :=
  let r := d / 4096
  let h := (bits r 0 5 ^^^ bits r 5 5 ^^^ bits r 10 5 ^^^ bits r 15 5 ^^^ bits r 20 2) % 28
  (28 * r + (n + 28 - h) % 28) * 4096 + d % 4096

/-- Segment and slot of a station-local offset (R188). -/
def segOf (d : Nat) : Nat × Nat := (d / 64 / 30, d / 64 % 30)

/-- The sector that holds `a`. -/
def sectorOf (a : Nat) : Nat := a / 64 * 64

/-- Station of a GDDR7 address. -/
def stOf (a : Nat) : Nat := (stationOf a).1

/-- Device of the station that holds a sector (R188). -/
def devOf (a : Nat) : Nat := (segOf (stationOf a).2).1 % 4

/-- What holds `a` wakes for an access to it (R407): its station, yard half or CXL port. -/
def wakeMem (a : Nat) (s : State) : State :=
  match whereOf a s with
  | .gddr => wakeIsl (stOf a) s
  | .yard d => wakeIsl (28 + d) s
  | .cxl p => wakeIsl (32 + p) s
  | _ => s

/-- A tile wakes for an access of another unit to its window (R407). -/
def wakeWindow (a : Nat) (s : State) : State :=
  match whereOf a s with
  | .oper t => wakeTile t s
  | .prog t => wakeTile t s
  | _ => s

/-! ### The memory code -/

/-- Multiplication by α in GF(2^8) (R189). -/
def gfx2 (a : Nat) : Nat := if a ≥ 128 then (2 * a) ^^^ 0x11D else 2 * a

/-- Product in GF(2^8). -/
def gmul (a b : Nat) : Nat :=
  ((List.range 8).foldl (fun (acc : Nat × Nat) i =>
    (if b.testBit i then acc.1 ^^^ acc.2 else acc.1, gfx2 acc.2)) (0, a)).1

/-- α^n. -/
def alpha : Nat → Nat
  | 0 => 1
  | n + 1 => gfx2 (alpha n)

/-- What decoding a codeword finds (R190). -/
inductive Cw where
  | clean | poison | corr (symbol value : Nat) | bad
deriving DecidableEq, Repr

/-- Syndrome S_l of a codeword whose check bytes differ by `d` from the right ones. -/
def syndrome (d l : Nat) : Nat :=
  let x := alpha l
  let k := fun j => bits d (8 * j) 8
  gmul (gmul (gmul (k 0) x ^^^ k 1) x ^^^ k 2) x ^^^ k 3

/-- The decision of R190 from that difference. -/
def decodeCw (d : BitVec 32) : Cw :=
  let d := d.toNat
  if d = 0 then .clean
  else if d = 0xFFFFFFFF then .poison
  else
    let s0 := syndrome d 0
    let s1 := syndrome d 1
    let s2 := syndrome d 2
    let s3 := syndrome d 3
    if s0 = 0 ∨ s1 = 0 ∨ s2 = 0 ∨ s3 = 0 then .bad else
    match (List.range 68).find? fun u => gmul s0 (alpha u) == s1 && gmul s1 (alpha u) == s2 && gmul s2 (alpha u) == s3 with
    | some u => .corr (67 - u) s0
    | none => .bad

/-- The check difference that an error of value `e` in symbol `i` makes: for a data symbol, the check bytes of e·x^(67 - i) (R189). -/
def checkOf (i e : Nat) : Nat :=
  if 64 ≤ i then e * 2 ^ (8 * (i - 64)) else
  -- e·x^4 reduced by g(x), then multiplied by x, 63 - i times; g(x) = x^4 + 15x^3 + 54x^2 + 120x + 64
  let step := fun (k : Nat × Nat × Nat × Nat) (inp : Nat) =>
    let f := k.1 ^^^ inp
    (k.2.1 ^^^ gmul f 15, k.2.2.1 ^^^ gmul f 54, k.2.2.2 ^^^ gmul f 120, gmul f 64)
  let k := (List.range (64 - i)).foldl (fun k j => step k (if j = 0 then e else 0)) (0, 0, 0, 0)
  k.1 + k.2.1 * 2 ^ 8 + k.2.2.1 * 2 ^ 16 + k.2.2.2 * 2 ^ 24

/-! ### Cells -/

/-- The canonical form of device memory: addresses strictly rising, no entry equal to 0, which an unlisted address reads as. -/
def Memory.wf (m : List Host.Cell) : Bool := Map.wf (fun _ => 0#8) m

def byteAt (a : Nat) (s : State) : Byte := Map.get (fun _ => 0#8) s.mem a
def cells (a n : Nat) (s : State) : List Byte := Map.getList (fun _ => 0#8) s.mem a n
def setCells (l : List (Nat × Byte)) (s : State) : State :=
  { s with mem := l.foldl (fun m c => Map.set (fun _ => 0#8) m c.1 c.2) s.mem }
def chkAt (x : Nat) (s : State) : BitVec 32 := Map.get (fun _ => 0#32) s.chk x
def setChk (x : Nat) (v : BitVec 32) (s : State) : State := { s with chk := Map.set (fun _ => 0#32) s.chk x v }
def poisonChk : BitVec 32 := 0xFFFFFFFF#32
def cxlPoisonAt (x : Nat) (s : State) : Bool := Map.get (fun _ => false) s.cxlPoison x
def setCxlPoison (x : Nat) (b : Bool) (s : State) : State := { s with cxlPoison := Map.set (fun _ => false) s.cxlPoison x b }
def storeErrAt (a : Nat) (s : State) : Nat := Map.get (fun _ => 0) s.storeErr a
def setStoreErr (a v : Nat) (s : State) : State := { s with storeErr := Map.set (fun _ => 0) s.storeErr a v }

/-- Bytes as (address, byte) pairs from `a`. -/
def spread (a : Nat) : List Byte → List (Nat × Byte)
  | [] => []
  | b :: l => (a, b) :: spread (a + 1) l

/-- The sectors a list of written bytes touches, in order, each once. -/
def sectorsOf (l : List (Nat × Byte)) : List Nat :=
  l.foldl (fun acc c => if acc.contains (sectorOf c.1) then acc else acc ++ [sectorOf c.1]) []

/-- The sectors of a range. -/
def rangeSectors (a n : Nat) : List Nat :=
  if n = 0 then [] else (List.range ((a + n - 1) / 64 - a / 64 + 1)).map fun i => (a / 64 + i) * 64

/-! ### Error records (R198) -/

def errRecord (st kind addr symbol src : Nat) (s : State) : State :=
  let h := rd MST_ERR_HEAD_head st s
  let p := rd MST_ERR_HEAD_pending st s
  let s := if p ≥ 16 then wr MST_ERR_HEAD_overflow st 1 s else s
  let i := st * 16 + h
  let s := wr MST_ERR_LOG_LO_addr i addr (wr MST_ERR_LOG_LO_kind i kind (wr MST_ERR_LOG_LO_dev i (devOf addr)
    (wr MST_ERR_LOG_LO_symbol i symbol (wr MST_ERR_LOG_LO_source i src (wr MST_ERR_LOG_HI_rtime i (now s) s)))))
  let s := wr MST_ERR_HEAD_pending st (min 16 (p + 1)) (bump MST_ERR_HEAD_head st 1 s)
  if kind = 1 then s else msix (192 + st) s

/-- A read of a GDDR7 sector (R190 to R192): whether it is uncorrectable or poisoned, and the state with corrections written back, poison set and records made for source `cls`. -/
def readSector (cls x : Nat) (s : State) : Bool × State :=
  let st := stOf x
  match decodeCw (chkAt x s) with
  | .clean => (false, s)
  | .corr i e =>
    let s := if i < 64 then setCells [(x + i, byteAt (x + i) s ^^^ BitVec.ofNat 8 e)] s else s
    (false, errRecord st 1 x i cls (bump MST_CE_count st 1 (setChk x 0#32 s)))
  | .poison => (true, errRecord st 3 x 127 cls (bump MST_POISON_READS_count st 1 s))
  | .bad => (true, errRecord st 2 x 127 cls (bump MST_UE_count st 1 (setChk x poisonChk s)))

/-! ### State words and copy-on-write (R203 to R208) -/

def segKey (st seg : Nat) : Nat := st * 2 ^ 24 + seg
def stateWord (st seg : Nat) (s : State) : BitVec 64 := Map.get (fun _ => 0#64) s.stateWords (segKey st seg)
def setStateWord (st seg : Nat) (v : BitVec 64) (s : State) : State := { s with stateWords := Map.set (fun _ => 0#64) s.stateWords (segKey st seg) v }

/-- The check byte of a state word: the XOR of its bytes 0 to 6 (R204). -/
def stateCheck (w : Nat) : Nat := (List.range 7).foldl (fun a i => a ^^^ bits w (8 * i) 8) 0

/-- Index of the armed record that covers sector `x` at its station. -/
def recOf (x : Nat) (s : State) : Option Nat :=
  let st := stOf x
  (List.range 8).find? fun k =>
    (rd MST_STATUS_armed st s).testBit k && decide (rd MST_COW_BASE_base (st * 8 + k) s * 4096 ≤ x) &&
    decide (x ≤ rd MST_COW_LIMIT_limit (st * 8 + k) s * 4096 + 4095)

/-- The state word of a segment as read, with R208 applied. Its error record has source 6, the patrol scrub's reads of state words included, where R198 lists both 6 (state-word reads) and 7 (scrub) (DESIGN CHOICE, log entry 95). -/
def readStateWord (x : Nat) (s : State) : Nat × State :=
  let (st, d) := stationOf x
  let (seg, _) := segOf d
  let w := (stateWord st seg s).toNat
  if stateCheck w = w / 2 ^ 56 then (bits w 0 30, s) else
  let s := setStateWord st seg 0#64 (errRecord st 5 (stationAddr st (seg * 30 * 64)) 127 6 s)
  let dmg := (List.range 30).any fun k => (recOf (stationAddr st ((seg * 30 + k) * 64)) s).isSome
  (0, if dmg then cutDamage 10 s else s)

/-- The pushed bit of sector `x` set or cleared. -/
def setPushed (x : Nat) (b : Bool) (s : State) : State :=
  let (st, d) := stationOf x
  let (seg, k) := segOf d
  let (w, s) := readStateWord x s
  let w := if b then (if w.testBit k then w else w + 2 ^ k) else (if w.testBit k then w - 2 ^ k else w)
  setStateWord st seg (BitVec.ofNat 64 (w + stateCheck w * 2 ^ 56)) s

def isPushed (x : Nat) (s : State) : Bool × State :=
  let (w, s) := readStateWord x s
  (w.testBit (segOf (stationOf x).2).2, s)

/-- Whether the unit that serves `a` answers memory-error to everything: a station with a failed device (R356), a CXL port whose link went down (R213). -/
def unitDown (a : Nat) (s : State) : Bool :=
  match whereOf a s with
  | .gddr => on MST_STATUS_dev_fail (stOf a) s
  | .cxl p => !on MST_CXL_STATUS_link_up p s
  | _ => false

/-- Any granule of the range is served by a unit that is down. -/
def anyDown (a n : Nat) (s : State) : Bool :=
  n != 0 && (List.range ((a + n - 1) / 4096 - a / 4096 + 1)).any fun i => unitDown (if i = 0 then a else (a / 4096 + i) * 4096) s

/-- Any granule of the range lies in the window of a CXL port whose link is down (R213). -/
def cxlDown (a n : Nat) (s : State) : Bool :=
  n != 0 && (List.range ((a + n - 1) / 4096 - a / 4096 + 1)).any fun i => match whereOf ((a / 4096 + i) * 4096) s with
    | .cxl p => !on MST_CXL_STATUS_link_up p s
    | _ => false

/-- The bytes `d` of an image stored from `a` on. A sector written in part is merged (R191); one that is poisoned, or that the data poisons, lies so. -/
def imgStore (a : Nat) (d : List Byte) (poison : Bool) (s : State) : State :=
  let s := (rangeSectors a d.length).foldl (fun s x =>
    let whole := decide (a ≤ x) && decide (x + 64 ≤ a + d.length)
    let s := wakeMem x s
    match whereOf x s with
    | .gddr =>
      let (bad, s) := if whole then (false, s) else readSector 6 x s
      setChk x (if poison || bad then poisonChk else 0#32) s
    | .cxl _ => setCxlPoison x (poison || (!whole && cxlPoisonAt x s)) s
    | _ => s) s
  setCells (spread a d) s

/-- Write a snapshot sector to a destination of R326: `kind` 0 local, 1 the module at `coord`, 2 the host. Poisoned data travels marked (R206). A local address that is not mapped and backed, or whose unit answers memory-error, damages the cut (R327). An image lies outside every region (R326), so that its own write pushes nothing. -/
def imgWrite (who : Requester) (kind coord a : Nat) (d : List Byte) (poison : Bool) (s : State) : State :=
  if kind = 2 then hostSend { addr := a, data := d, poison := poison } s
  else if kind = 1 then request who { typ := 0x01, vc := 0, tt := 0, dst := coord, src := 0, addr := a, payload := d, poison := poison } s
  else if !mapped a d.length s || anyDown a d.length s then cutDamage 11 s
  else imgStore a d poison s

/-- Destination kind and coordinate of arm record `k` of station `st`. -/
def cowDest (st k : Nat) (s : State) : Nat × Nat :=
  let i := st * 8 + k
  (if on MST_COW_DEST_CTL_host i s then 2 else if on MST_COW_DEST_CTL_remote i s then 1 else 0, rd MST_COW_DEST_CTL_coord i s)

/-- The push-ahead buffer sends its oldest sector (R205). -/
def sendPush (st : Nat) (s : State) : State :=
  match (station st s).push with
  | [] => s
  | p :: rest =>
    let (kind, coord) := cowDest st p.recNo s
    let s := setStation st { station st s with push := rest } s
    let s := wr MST_STATUS_push_full st 0 s
    imgWrite (.cow st p.recNo) kind coord p.addr p.data p.poison s

/-- Before a write to sector `x`: the push of R205 where the sector is held. A full buffer first sends its oldest sector, which is what the write waits for. -/
def cowPush (cls x : Nat) (s : State) : State :=
  match recOf x s with
  | none => s
  | some k =>
    let st := stOf x
    let i := st * 8 + k
    let (pushed, s) := isPushed x s
    if pushed || decide (x < rd MST_COW_CURSOR_cursor i s * 64) then s else
    let (bad, s) := readSector cls x s
    let s := if (station st s).push.length ≥ 64 then sendPush st s else s
    let e : Push := { recNo := k, addr := rd MST_COW_DEST_dest i s + (x - rd MST_COW_BASE_base i s * 4096), data := cells x 64 s, poison := bad }
    let q := (station st s).push ++ [e]
    let s := setStation st { station st s with push := q } s
    let s := wr MST_STATUS_push_full st (if q.length ≥ 64 then 1 else 0) s
    bump MST_PUSHES_count st 1 (setPushed x true s)

/-! ### Mirrored writes (R331) -/

/-- Mirror region `k` holds address `x`. -/
def inMirror (k x : Nat) (s : State) : Bool :=
  on CUT_MIR_BASE_valid k s && decide (rd CUT_MIR_BASE_base k s ≤ x / 4096) && decide (x / 4096 ≤ rd CUT_MIR_LIMIT_limit k s)

/-- The regions by which a sector is mirrored continuously: every valid one that holds it. -/
def mirRegions (x : Nat) (s : State) : List Nat := if !on CUT_CONTROL_mirror_en 0 s then [] else (List.range 8).filter fun k => inMirror k x s

/-- Whether sector `x` holds the poison pattern, or the poison of a CXL device. -/
def holdsPoison (x : Nat) (s : State) : Bool :=
  match whereOf x s with
  | .gddr => decodeCw (chkAt x s) == .poison
  | .cxl _ => cxlPoisonAt x s
  | _ => false

/-- The MIR of an update leaves its station. -/
def mirPost (m : MirWait) (s : State) : State :=
  let st := stOf m.sector
  let s := setStation st { station st s with mirOut := (station st s).mirOut + 1 } s
  bump CUT_MIR_BYTES_count 0 64 (request (.mirror m.region st m.sector)
    { typ := 0x40, vc := 3, tt := 0, dst := twinOf (ownCoord s), src := 0, addr := m.addr, payload := m.data, poison := m.poison } s)

/-- The bytes sector `x` now holds sent to region `k`'s twin address as MIR, marked where `bad` says so (R206); with 64 packets outstanding at the station, the update waits there for room. A write that meets such a station waits before it begins (`writeWaits`); what one command writes beyond the room waits so (DESIGN CHOICE, log entry 68). -/
def mirTo (k x : Nat) (bad : Bool) (s : State) : State :=
  let st := stOf x
  let m : MirWait := { region := k, sector := x, addr := rd CUT_MIR_TWIN_twin k s * 4096 + (x - rd CUT_MIR_BASE_base k s * 4096), data := cells x 64 s, poison := bad }
  if (station st s).mirOut ≥ 64 then setStation st { station st s with mirq := (station st s).mirq ++ [m] } s
  else mirPost m s

/-- A sector that has been written goes to the twin of every region that mirrors it, marked where it holds poison. -/
def mirSend (x : Nat) (s : State) : State := (mirRegions x s).foldl (fun s k => mirTo k x (holdsPoison x s) s) s

/-- Whether a write to these sectors must wait: a mirrored sector with 64 packets outstanding at its station (R331). -/
def writeWaits (xs : List Nat) (s : State) : Bool :=
  xs.any fun x => decide (whereOf x s = .gddr) && !(mirRegions x s).isEmpty && decide ((station (stOf x) s).mirOut ≥ 64)

/-! ### Stores of the dies (R209) -/

/-- Box and store number of an address in a die store. R420 lists no box for the yard, whose errors go to the HST box as those of the dies' shared stores (DESIGN CHOICE, log entry 93). -/
def storeUnit (a : Nat) (s : State) : Nat × Nat :=
  match whereOf a s with
  | .oper t => (t, 0)
  | .prog t => (t, 2)
  | _ => (boxHST, 3)

/-- Read of the 8-byte word at `a`: uncorrectable or not; a single-bit error is corrected and recorded. -/
def readStoreWord (a : Nat) (s : State) : Bool × State :=
  match storeErrAt a s with
  | 0 => (false, s)
  | 1 => let (b, n) := storeUnit a s
         (false, event b 0x04 n a (setStoreErr a 0 s))
  | _ => (true, s)

/-! ### Reads and writes without checks -/

/-- The part of sector `x` that lies in `n` bytes from `a`, read: whether it is uncorrectable. -/
def touchSector (cls a n x : Nat) (s : State) : Bool × State :=
  let s := wakeMem x s
  match whereOf x s with
  | .gddr => readSector cls x s
  | .cxl p => if cxlPoisonAt x s then (true, bump MST_CXL_POISON_count p 1 s) else (false, s)
  | .regs => (false, s)
  | .none => (false, s)
  | _ => if s.storeErr.isEmpty then (false, s) else
    (List.range 8).foldl (fun r i =>
      let w := x + 8 * i
      if a < w + 8 ∧ w < a + n then (let (b, s) := readStoreWord w r.2; (r.1 || b, s)) else r) (false, s)

/-- The sectors of a range read in ascending order: whether any part is uncorrectable. -/
def touchRead (cls a n : Nat) (s : State) : Bool × State :=
  (rangeSectors a n).foldl (fun r x => let (b, s) := touchSector cls a n x r.2; (r.1 || b, s)) (false, s)

/-- `n` bytes from `a`, whether any is uncorrectable or poisoned, and the state after the reads. -/
def rawRead (cls a n : Nat) (s : State) : List Byte × Bool × State :=
  let (bad, s) := touchRead cls a n s
  (cells a n s, bad, s)

/-- `n` bytes from `a`, and the offsets of the sectors among them that read uncorrectable or poisoned, those of a unit that is down (R356) included. -/
def readMarked (a n : Nat) (s : State) : List Byte × List Nat × State :=
  let (bad, s) := (rangeSectors a n).foldl (fun (r : List Nat × State) x =>
    if unitDown x r.2 then (r.1 ++ [x - a], r.2) else
    let (b, s) := touchSector 6 a n x r.2
    (if b then r.1 ++ [x - a] else r.1, s)) ([], s)
  (cells a n s, bad, s)

/-- One GDDR7 sector written with the bytes `l` (all within it): push, merge, mirror (R191, R205, R331). -/
def writeSector (cls x : Nat) (l : List (Nat × Byte)) (s : State) : State :=
  let s := cowPush cls x s
  let whole := decide (l.length ≥ 64)
  let (bad, s) := if whole then (false, s) else readSector cls x s
  let s := setChk x (if bad then poisonChk else 0#32) (setCells l s)
  mirSend x s

/-- The bytes `part` of sector `x` written (R191, R209). -/
def writePart (cls x : Nat) (part : List (Nat × Byte)) (s : State) : State :=
  let s := wakeMem x s
  match whereOf x s with
  | .gddr => writeSector cls x part s
  | .cxl _ => setCells part (if part.length ≥ 64 then setCxlPoison x false s else s)
  | .regs => s
  | .none => s
  | _ =>
    let s := if s.storeErr.isEmpty then s else (List.range 8).foldl (fun s i =>
      let w := x + 8 * i
      let k := (part.filter fun c => c.1 / 8 * 8 == w).length
      if k ≥ 8 then setStoreErr w 0 s else if k > 0 then (readStoreWord w s).2 else s) s
    setCells part s

/-- The bytes of `l` written; `l` names each address at most once. -/
def rawWrite (cls : Nat) (l : List (Nat × Byte)) (s : State) : State :=
  (sectorsOf l).foldl (fun s x => writePart cls x (l.filter fun c => sectorOf c.1 == x) s) s

/-- A run of bytes written sector by sector, `n` sectors at most. -/
def runWrite (cls : Nat) : Nat → Nat → List Byte → State → State
  | 0, _, _, s => s
  | n + 1, a, d, s =>
    if d.isEmpty then s else
    let k := 64 - a % 64
    runWrite cls n (a + k) (d.drop k) (writePart cls (sectorOf a) (spread a (d.take k)) s)

/-- The bytes `d` written from `a` on. -/
def putBytes (cls a : Nat) (d : List Byte) (s : State) : State := runWrite cls (d.length / 64 + 2) a d s

/-! ### Poison that is moved or stored (R192, R206, R224) -/

/-- The sector that holds `x` marked poisoned. -/
def poisonSector (x : Nat) (s : State) : State :=
  match whereOf x s with
  | .gddr => setChk (sectorOf x) poisonChk s
  | .cxl _ => setCxlPoison (sectorOf x) true s
  | _ => s

/-- What holds byte `a` marked poisoned: its sector, or its word of a die store, whose code has no poison pattern and in which a double-bit error is what reads as uncorrectable (R209; DESIGN CHOICE, log entry 70). -/
def poisonByte (a : Nat) (s : State) : State :=
  match whereOf a s with
  | .gddr => poisonSector a s
  | .cxl _ => poisonSector a s
  | _ => setStoreErr (a / 8 * 8) 2 s

/-- The bytes from `a` on whose marks are not 0 lie poisoned. -/
def poisonMarked (a : Nat) (m : List Byte) (s : State) : State :=
  (spread a m).foldl (fun s c => if c.2 = 0#8 then s else poisonByte c.1 s) s

/-- Which of the `n` bytes from `a` lie in poisoned sectors, as marks. -/
def poisonMarks (a n : Nat) (s : State) : List Byte :=
  (List.range n).map fun i => if holdsPoison (sectorOf (a + i)) s then 0xFF#8 else 0#8

/-- Whether a sector of the range reads uncorrectable otherwise than as poison it holds. -/
def uncorrectable (cls a n : Nat) (s : State) : Bool :=
  (rangeSectors a n).any fun x => !holdsPoison x s && (touchSector cls a n x s).1

/-! ### Protection (R199 to R201) -/

/-- The decision for one granule: the lowest-numbered valid region that holds it. -/
def protGranule (cls g : Nat) (r w : Bool) (s : State) : Bool :=
  match (List.range 64).find? fun k =>
      on MST_PROT_HI_valid k s && decide (rd MST_PROT_LO_base k s ≤ g) && decide (g ≤ rd MST_PROT_HI_limit k s) with
  | none => false
  | some k => (!r || (rd MST_PROT_LO_rd_mask k s).testBit cls) && (!w || (rd MST_PROT_LO_wr_mask k s).testBit cls)

/-- Whether class `cls` may read (`r`) and write (`w`) the `n` bytes from `a`; class 6 (the module's own work and station-master cores) is not checked (R199). -/
def protOk (cls a n : Nat) (r w : Bool) (s : State) : Bool :=
  decide (cls ≥ 6) || n == 0 || (List.range ((a + n - 1) / 4096 - a / 4096 + 1)).all fun i => protGranule cls (a / 4096 + i) r w s

/-- A refusal counted and latched (R201). -/
def protRefused (cls a : Nat) (w : Bool) (s : State) : State :=
  let s := bump MST_PROT_COUNT_count 0 1 s
  if on MST_PROT_VIOL_valid 0 s then s else
  wr MST_PROT_VIOL_valid 0 1 (wr MST_PROT_VIOL_addr 0 a (wr MST_PROT_VIOL_source 0 cls (wr MST_PROT_VIOL_write 0 (if w then 1 else 0) s)))

/-! ### Watchpoints (R428, R429) -/

/-- The watchpoints an access hits. -/
def wpHits (src a n : Nat) (r w : Bool) (s : State) : List Nat :=
  (List.range 32).filter fun k =>
    on DBG_WP_BASE_valid k s && decide (rd DBG_WP_BASE_action k s ≤ 4) &&
    ((r && on DBG_WP_BASE_rd k s) || (w && on DBG_WP_BASE_wr k s)) &&
    (rd DBG_WP_LIMIT_sources k s).testBit src &&
    decide (rd DBG_WP_BASE_base k s * 64 ≤ a + n - 1) && decide (a ≤ rd DBG_WP_LIMIT_limit k s * 64 + 63)

/-- Precedence of an action: 2, 4, 3, 1, 0. -/
def wpRank (a : Nat) : Nat :=
  match a with
  | 2 => 4
  | 4 => 3
  | 3 => 2
  | 1 => 1
  | _ => 0

/-- The watchpoint hit whose action is highest. -/
def wpTop (hits : List Nat) (s : State) : Option Nat :=
  hits.foldl (fun b k => match b with
    | none => some k
    | some j => if wpRank (rd DBG_WP_BASE_action k s) > wpRank (rd DBG_WP_BASE_action j s) then some k else b) none

/-- Enable set in the trace collector of die `d`: one that starts begins its ring anew (R429, R434; DESIGN CHOICE, log entry 60). -/
def collectorStart (d : Nat) (s : State) : State :=
  let s := if on DBG_TRACE_CTL_enable d s then s else wr DBG_TRACE_WP_offset d 0 (wr DBG_TRACE_WP_wrapped d 0 s)
  wr DBG_TRACE_CTL_stopped d 0 (wr DBG_TRACE_CTL_enable d 1 s)

/-- The effect of a hit, other than the exception of action 2, recorded in `box`. -/
def wpApply (box : Nat) (hits : List Nat) (a : Nat) (s : State) : State :=
  match wpTop hits s with
  | none => s
  | some top =>
    let s := hits.foldl (fun s k => bump DBG_WP_COUNT_count k 1 (wrBit DBG_WP_HIT_hit 0 k true s)) s
    let act := rd DBG_WP_BASE_action top s
    if act = 0 then s else
    let s := msix 244 (wr DBG_STATUS_event 0 1 (event box 0x0D (hits.headD 0) a s))
    if act = 3 then collectorStart (top / 16) s
    else if act = 4 then wr DBG_TRACE_CTL_enable (top / 16) 0 s else s

/-- The accessing unit behind a watchpoint source of R434: source `n` with the signal box of its unit. -/
def srcUnit (n box : Nat) : Nat := n + 16 * box
/-- The lane row of tile `t`, as a drain. -/
def fromDrain (t : Nat) : Nat := srcUnit 1 t
/-- A shunting channel. -/
def fromChannel : Nat := srcUnit 2 boxSHN
/-- The express unit of station `u`. -/
def fromExpress (u : Nat) : Nat := srcUnit 3 (boxStation u)
/-- A packet from the fabric or the twin. -/
def fromFabric : Nat := srcUnit 4 boxRTR
/-- The host. -/
def fromHost : Nat := srcUnit 5 boxHST
/-- A source that no destination checks. -/
def unwatched : Nat := 9

/-- The box of a hit by an access of another source: its destination station's where it is checked there, else its unit's (R429). -/
def arriveBox (box a : Nat) (s : State) : Nat :=
  match whereOf a s with
  | .gddr => boxStation (stOf a)
  | _ => box

/-! ### Checked accesses -/

/-- A program buffer refuses writes while its core runs, waits, saves or restores (R112): `n` bytes from `a` lie in one that does at their first or their last. -/
def progLocked (a n : Nat) (s : State) : Bool :=
  let f := fun (a : Nat) => match whereOf a s with
    | .prog t => let st := rd TIL_CORE_STATUS_state t s
                 st == 1 || st == 2 || st == 4 || st == 6
    | _ => false
  f a || f (a + n - 1)

/-- The checks of an access in the order address, protection (R429): response status of R265 (0 may be done, 1 address, 2 protection, 3 memory-error) and the state with a refusal recorded. A tile wakes for an access to its window. -/
def access (cls a n : Nat) (r w : Bool) (s : State) : Nat × State :=
  if !mapped a n s then (1, s)
  else if !protOk cls a n r w s || (w && progLocked a n s) then (2, protRefused cls a w s)
  else if anyDown a n s then (3, s) else (0, wakeWindow a s)

/-- The watchpoints that an access of source `wsrc`, refused by neither check, hits where it arrives (R428, R429); its event follows those of the stores it reads, which have a lower code (R421). -/
def watched (wsrc a n : Nat) (r w : Bool) (s : State) : State :=
  if wsrc % 16 < 6 then wpApply (arriveBox (wsrc / 16) a s) (wpHits (wsrc % 16) a n r w s) a s else s

/-- A read by source class `cls` of the codewords at `a`, which error records show as source `src`, with the checks of reading and, where `w`, of writing: status, data (as read, also where uncorrectable), state. -/
def checkedRead (cls src wsrc a n : Nat) (w : Bool) (s : State) : Nat × List Byte × State :=
  match access cls a n true w s with
  | (0, s) => let (d, bad, s) := rawRead src a n s
              (if bad then 3 else 0, d, watched wsrc a n true w s)
  | (3, s) => (3, [], watched wsrc a n true w s)
  | (c, s) => (c, [], s)

/-- A checked read: status, data, state. -/
def memRead (cls wsrc a n : Nat) (s : State) : Nat × List Byte × State := checkedRead cls cls wsrc a n false s

/-- A checked write of bytes. -/
def memWrite (cls wsrc a : Nat) (d : List Byte) (s : State) : Nat × State :=
  match access cls a d.length false true s with
  | (0, s) => (0, watched wsrc a d.length false true (putBytes cls a d s))
  | (3, s) => (3, watched wsrc a d.length false true s)
  | (c, s) => (c, s)

/-- The new value of an atomic (R125). -/
def amoNew (op : AmoOp) (old x : U64) : U64 :=
  match op with
  | .add => old + x
  | .swap => x
  | .maxu => if old < x then x else old

/-- Atomics reach the GDDR7 tier and the yard only (R112, R211). -/
def amoPlace (a : Nat) (s : State) : Bool :=
  match whereOf a s with
  | .gddr => true
  | .yard _ => true
  | _ => false

/-- An atomic performed where it lands, with no check: status, old value, state. An uncorrectable word is not written (R125). -/
def rawAmo (cls : Nat) (op : AmoOp) (a : Nat) (x : U64) (s : State) : Nat × U64 × State :=
  let (d, bad, s) := rawRead cls a 8 s
  let old := BitVec.ofNat 64 (ofLe d)
  if bad then (3, old, s) else (0, old, putBytes cls a (leBytes (amoNew op old x).toNat 8) s)

/-- A checked atomic. -/
def memAmo (cls wsrc : Nat) (op : AmoOp) (a : Nat) (x : U64) (s : State) : Nat × U64 × State :=
  if !amoPlace a s then (1, 0#64, s) else
  match access cls a 8 true true s with
  | (0, s) => let (c, v, s) := rawAmo cls op a x s
              (c, v, watched wsrc a 8 true true s)
  | (3, s) => (3, 0#64, watched wsrc a 8 true true s)
  | (c, s) => (c, 0#64, s)

/-- A little-endian number read without checks by the module itself. -/
def ownNat (a n : Nat) (s : State) : Nat × Bool × State :=
  let (d, bad, s) := rawRead 6 a n s
  (ofLe d, bad, s)

end Sys2Proof.Machine
end

