-- ==== Sys2Proof/Machine/Tensor.lean ====
section
/-! DEFINITION. Conversion control (R53), the census (R66 to R68), the history of maxima and the tensor scale (R69 to R72), and the checks their records meet (R447). -/

namespace Sys2Proof.Machine

/-! ### Conversion control -/

def ctlFmt (c : Nat) : Nat := bits c 0 4
def ctlMode (c : Nat) : Nat := bits c 4 3
def ctlSat (c : Nat) : Bool := bit c 7
def ctlCensus (c : Nat) : Bool := bit c 8
def ctlTscale (c : Nat) : Bool := bit c 9

/-- The mode of a control, RNE standing where it is illegal (checked before use). -/
def ctlRM (c : Nat) : RMode := (rmode (ctlMode c)).getD .rne

/-- R53: listed format, listed mode, reserved bits 0, tscale only with an unscaled narrow format. -/
def ctlLegal (c : Nat) : Bool :=
  decide (ctlFmt c ≤ 8) && decide (ctlMode c ≤ 5) && bits c 10 6 == 0 &&
  (!ctlTscale c || ctlFmt c == 2 || ctlFmt c == 3 || ctlFmt c == 4)

/-- A word as an integer in units of position 0 (R18). -/
def wordInt (w : L576) : Int := w.toInt

/-! ### Census -/

/-- `l` with 1 added at position `j` (padded with zeros). -/
def listInc (l : List Nat) (j : Nat) : List Nat := (List.range (max l.length (j + 1))).map fun i => l.getD i 0 + (if i = j then 1 else 0)

/-- One converted element counted (R66, R67): exact sum, final tag, output format and encoding. -/
def Census.el (c : Census) (w : Int) (tag : Byte) (fmt enc : Nat) : Census :=
  let sp := specOf tag
  let fin0 := sp == .fin
  let nz := fin0 && w != 0
  let tb := topBit w.natAbs
  let n := fun (b : Bool) => if b then 1 else 0
  let l := decide (fmt = 8)
  { elements := c.elements + 1
    zero := c.zero + n (fin0 && w == 0)
    nan := c.nan + n (sp == .nan)
    pinf := c.pinf + n (sp == .pinf)
    ninf := c.ninf + n (sp == .ninf)
    ovf := c.ovf + n (hasTag tag tOvf)
    sat := c.sat + n (!l && hasTag tag tSat)
    subnormal := c.subnormal + n (!l && nz && isSubnormal fmt enc)
    underflow := c.underflow + n (!l && nz && isZeroEnc fmt enc)
    flo := c.flo + n (hasTag tag tFlo)
    rpl := c.rpl + n (hasTag tag tRpl)
    top := if nz then max c.top tb else c.top
    topValid := c.topValid || nz
    status := c.status ||| tag
    hist := if nz then listInc c.hist (tb / 8) else c.hist }

/-- A record's 8-byte count at offset `o`, as read. -/
def recNat (d : List Byte) (o n : Nat) : Nat := ofLe ((d.drop o).take n)

/-- Writes the counts of `c` over a census record read as `d`: the (offset, value) words that change. -/
def Census.words (c : Census) (d : List Byte) : List (Nat × Nat) :=
  let add := fun (o n : Nat) => (o, (recNat d o 8 + n) % 2 ^ 64)
  let t := recNat d 0x58 8
  let top := max (bits t 0 10) (if c.topValid then c.top else 0)
  let t' := setBits (setBits (setBits t 0 10 top) 10 1 (if bit t 10 || c.topValid then 1 else 0)) 16 8 (bits t 16 8 ||| c.status.toNat)
  [add 0x00 c.elements, add 0x08 c.zero, add 0x10 c.nan, add 0x18 c.pinf, add 0x20 c.ninf, add 0x28 c.ovf,
   add 0x30 c.sat, add 0x38 c.subnormal, add 0x40 c.underflow, add 0x48 c.flo, add 0x50 c.rpl, (0x58, t')]
  ++ (List.range 72).map fun j => add (0x80 + 8 * j) (c.hist.getD j 0)

/-- A record that an operation of class `cls` will update, read under R447: status (0 usable, 1 address, 2 protection, 3 memory-error) and bytes. -/
def recRead (cls wsrc a n : Nat) (s : State) : Nat × List Byte × State := checkedRead cls cls wsrc a n true s

/-- The counts added to the census record at `a` (R67), its bytes `d` already read. A record outside the GDDR7 tier (yard, CXL tier, tile window), which no station owns, is added to as it stands: the spec does not say where a census record lies (DESIGN CHOICE, log entry 95). -/
def censusAdd (cls a : Nat) (c : Census) (d : List Byte) (s : State) : State :=
  rawWrite cls ((c.words d).flatMap fun ov => spread (a + ov.1) (leBytes ov.2 8)) s

/-! ### History of maxima -/

/-- The control word of a history record (offset 0x20). -/
def histCtl (d : List Byte) : Nat := recNat d 0x20 8

/-- R69: grow 0 or init_scale 0xFF is illegal. -/
def histLegal (d : List Byte) : Bool := bits (histCtl d) 17 5 != 0 && bits (histCtl d) 22 8 != 255

/-- Entry `n` of a history record. -/
def histEntry (d : List Byte) (n : Nat) : Nat := recNat d (2 * n) 2

/-- choose_tensor_scale (R70): the scale byte for format `fmt`. -/
def chooseScale (d : List Byte) (fmt : Nat) : Nat :=
  let h := histCtl d
  let head := bits h 0 4
  let count := bits h 4 5
  let sOld := bits h 30 8
  let v : Int :=
    if count = 0 then bits h 22 8
    else if bit (histEntry d head) 11 then (sOld : Int) + bits h 17 5
    else
      let n := min (bits h 9 4 + 1) count
      let es := (List.range n).map fun i => histEntry d ((head + 16 - i) % 16)
      let ts := (es.filter fun e => !bit e 10).map fun e => bits e 0 10
      match ts with
      | [] => sOld
      | t :: r => (r.foldl max t : Nat) - 266 - (outFmt fmt).emax + bits h 13 4 + 127
  (min (max v 0) 254).toNat

/-- The record at `a` with the chosen scale written. -/
def histScale (cls a sc : Nat) (d : List Byte) (s : State) : State :=
  rawWrite cls (spread (a + 0x20) (leBytes (setBits (histCtl d) 30 8 sc) 8)) s

/-- append of R71: entry and counters written, unless the status carries a non-finite bit. -/
def histAppend (cls a top : Nat) (zero ovf : Bool) (status : Byte) (d : List Byte) (s : State) : State :=
  if hasTag status (tNan ||| tPinf ||| tNinf) then s else
  let h := histCtl d
  let n := (bits h 0 4 + 1) % 16
  let e := top % 1024 + (if zero then 1024 else 0) + (if ovf then 2048 else 0)
  let h := setBits (setBits h 0 4 n) 4 5 (min (bits h 4 5 + 1) 16)
  rawWrite cls (spread (a + 2 * n) (leBytes e 2) ++ spread (a + 0x20) (leBytes h 8)
    ++ spread (a + 0x28) (leBytes ((recNat d 0x28 8 + 1) % 2 ^ 64) 8)) s

def histStep (a : Nat) (s : State) : Option HistStep := Map.get (fun _ => none) s.hist a
def setHistStep (a : Nat) (v : Option HistStep) (s : State) : State := { s with hist := Map.set (fun _ => none) s.hist a v }

/-! ### Collectives that will append (R71, R72) -/

/-- The first adopt entry whose range holds an address of the partner's map gives the local address (R334). -/
def adoptAddr (a : Nat) (s : State) : Option Nat :=
  match (List.range 8).find? fun k =>
      on CUT_ADOPT_BASE_valid k s && decide (rd CUT_ADOPT_BASE_base k s ≤ a / 4096) && decide (a / 4096 ≤ rd CUT_ADOPT_LIMIT_limit k s) with
  | some k => some (rd CUT_ADOPT_LOCAL_local k s * 4096 + (a - rd CUT_ADOPT_BASE_base k s * 4096))
  | none => none

def gKind (d : List Byte) : Nat := bits (recNat d 0 8) 8 2
def gConv (d : List Byte) : Nat := bits (recNat d 0x38 8) 0 16
def gHist (d : List Byte) : Nat := recNat d 0x58 8

def coll (k : Nat) (s : State) : Coll := Map.get (fun _ => {}) s.colls k

/-- The local address of an address of collective `k`; one of the partner's outside every adopt entry leads nowhere. -/
def la (k a : Nat) (s : State) : Nat := if k % 512 < 256 then a else (adoptAddr a s).getD (2 ^ 48)

/-- The owner a history step of collective `k` is held under. -/
def collOwner (k : Nat) : Nat := 1024 + k

/-- The steps of the history record at `a` that collectives bound here have to append: key and order of binding. A collective holds the step from its binding on. -/
def collSteps (a : Nat) (s : State) : List (Nat × Nat) :=
  s.colls.filterMap fun e =>
    if e.2.phase != 0 && e.2.phase != 5 && decide (gKind e.2.desc < 2) && ctlTscale (gConv e.2.desc) && la e.1 (gHist e.2.desc) s == a then some (e.1, e.2.bound) else none

/-- Whether a conversion of `owner` with descriptor `desc` under the record at `a` must wait for an append (R72): another step of it is open, or belongs to a collective bound before it. -/
def histBusy (a owner : Nat) (desc : List Byte) (s : State) : Bool :=
  match histStep a s with
  | some h => (match h.owner with
    | some o => o != owner
    | none => h.desc != desc)
  | none => (collSteps a s).any fun e => collOwner e.1 != owner && (decide (owner < 1024) || decide (e.2 < (coll (owner - 1024) s).bound))

/-- The scale for a conversion of `owner` (R70): the one already chosen in its open step, else a new choice written to the record. Status 5 (with none) for an illegal record. -/
def takeScale (cls wsrc a fmt owner : Nat) (s : State) : Nat × Nat × State :=
  match histStep a s with
  | some h => (0, h.scale, setHistStep a (some { h with owner := some owner, desc := [] }) s)
  | none =>
    match recRead cls wsrc a 64 s with
    | (0, d, s) =>
      if !histLegal d then (5, 0, s) else
      let sc := chooseScale d fmt
      (0, sc, setHistStep a (some { owner := some owner, scale := sc }) (histScale cls a sc d s))
    | (c, _, s) => (c, 0, s)

/-- The scale of an operation with history record `a` and census record `b`, both read before it is chosen (R447): status, address of the record that failed, scale. -/
def takeScaleOf (cls wsrc a b fmt owner : Nat) (s : State) : Nat × Nat × Nat × State :=
  if (histStep a s).isSome then
    let (c, sc, s) := takeScale cls wsrc a fmt owner s
    (c, a, sc, s)
  else
    match recRead cls wsrc b 704 s with
    | (0, _, s) => let (c, sc, s) := takeScale cls wsrc a fmt owner s
                   (c, a, sc, s)
    | (c, _, s) => (c, b, 0, s)

/-- The conversion of `owner` leaves its unit before its step is appended: a suspended or repeated one takes the step up again by its descriptor `desc`. -/
def leaveStep (a owner : Nat) (desc : List Byte) (s : State) : State :=
  match histStep a s with
  | some h => if h.owner = some owner then
      setHistStep a (some { h with owner := none, desc := desc, siding := decide (owner % 512 < 168) && on ITG_TILE_CTRL_siding (owner % 512) s }) s else s
  | none => s

/-- Every step `owner` holds is closed without an append: its conversion is given up. -/
def dropSteps (owner : Nat) (s : State) : State :=
  { s with hist := s.hist.filter fun e => match e.2 with
    | some h => h.owner != some owner
    | none => true }

/-- The scale exponent k = S - 127 (R64). -/
def scaleK (sc : Nat) : Int := (sc : Int) - 127

end Sys2Proof.Machine
end

