-- ==== Sys2Proof/Machine/Lanes.lean ====
section
/-! DEFINITION. The arithmetic of one lane of the lane row (R77, R80 to R82, R93) and of a drain (R50, R90). -/

namespace Sys2Proof.Machine

/-- Elements of a stationary register for a format (R74). -/
def kOf (fmt : Nat) : Nat :=
  match fmtBits fmt with
  | 8 => 128
  | 4 => 256
  | _ => 64

/-- Bytes a shared operand occupies (R77). -/
def opBytes (fmt : Nat) : Nat := if fmt = 1 then 256 else 128

/-- Element `e` of packed elements of format `fmt` (R57). -/
def elAt (fmt : Nat) (d : List Byte) (e : Nat) : Nat :=
  match fmtBits fmt with
  | 4 => bits (d.getD (e / 2) 0#8).toNat (4 * (e % 2)) 4
  | 8 => (d.getD e 0#8).toNat
  | 16 => ofLe ((d.drop (2 * e)).take 2)
  | _ => ofLe ((d.drop (4 * e)).take 4)

/-- A decoded operand with its scale: the group's byte in block-scaled formats, else the tensor scale (R58, R59). -/
def operand (fmt : Nat) (d sc : List Byte) (tscale e : Nat) : Dec :=
  scaleDec (if fmtBlock fmt then (sc.getD (e / 32) 0#8).toNat else tscale) (decodeEl (fmtBase fmt) (elAt fmt d e))

/-- One addend of a step in a lane (R77): stationary and shared operand, parts for fp32 (R24, R93). -/
def stepTerm (sf of_ : Nat) (a b : Dec) (pa pb : Nat) (neg : Bool) (floor : Nat) : Term :=
  let za := a.isZero
  let zb := b.isZero
  let a := if sf = 1 then partDec pa a else a
  let b := if of_ = 1 then partDec pb b else b
  prodTerm a b za zb neg floor

/-- Distinct bands of a lane's addends with their contributions, in ascending order (R30). -/
def bandSums (ts : List Term) : List (Nat × Int) :=
  (List.range 34).filterMap fun b =>
    let l := ts.filter fun t => t.exact && t.l / 16 == b
    if l.isEmpty then none else some (b, l.foldl (fun a t => a + t.k * 2 ^ (t.l % 16)) 0)

/-- What a step does to one lane's group of short accumulators: the shorts, what promotions forced by slot reuse add (in units of position 0), how many they are, and the lane's cost (R80): spill cycles, slot stalls, bands. -/
structure LaneRes where
  shorts : List Short
  promoted : Int := 0
  promotions : Nat := 0
  spill : Nat := 0
  stall : Nat := 0
  nb : Nat := 1
deriving DecidableEq, Repr

/-- Sum of the valid shorts in units of position 0 (R82). -/
def shortsSum (l : List Short) : Int :=
  l.foldl (fun a h => if h.valid then a + h.v.toInt * 2 ^ (16 * h.band) else a) 0

/-- Eight empty slots. -/
def noShorts : List Short := List.replicate 8 {}

/-- A band's contribution entered: into its slot, else the lowest empty one. -/
def putBand (l : List Short) (b : Nat) (c : Int) : List Short :=
  if l.any fun h => h.valid && h.band == b then
    l.map fun h => if h.valid && h.band == b then { h with v := h.v + BitVec.ofInt 41 c } else h
  else
    match l.findIdx? fun h => !h.valid with
    | some i => l.set i { v := BitVec.ofInt 41 c, band := b, valid := true }
    | none => l

/-- Bands entered in order, promoting a full group first whenever a new band finds no slot (R80). -/
def enterBands (r : LaneRes) : List (Nat × Int) → LaneRes
  | [] => r
  | (b, c) :: rest =>
    let held := r.shorts.any fun h => h.valid && h.band == b
    let full := r.shorts.all fun h => h.valid
    let r := if !held && full then
        { r with promoted := r.promoted + shortsSum r.shorts, promotions := r.promotions + 1, shorts := noShorts } else r
    enterBands { r with shorts := putBand r.shorts b c } rest

/-- A step's addends into a lane (R80, R81). -/
def laneStep (shorts : List Short) (ts : List Term) : LaneRes :=
  let bs := bandSums ts
  let nb := max bs.length 1
  let newB := (bs.filter fun b => !(shorts.any fun h => h.valid && h.band == b.1)).length
  let free := (shorts.filter fun h => !h.valid).length
  let full := decide (newB > free)
  let r : LaneRes := { shorts := shorts, spill := (nb + 2) / 3 - 1, stall := if full then (nb + 7) / 8 else 0, nb := nb }
  let r := if full then { r with promoted := shortsSum shorts, promotions := 1, shorts := noShorts } else r
  enterBands r bs

/-- Cost of a lane (R80). -/
def LaneRes.cost (r : LaneRes) : Nat := 1 + r.spill + r.stall

/-- Histogram bin of a band count (R106). -/
def bandBin (nb : Nat) : Nat :=
  if nb ≤ 3 then nb - 1 else if nb ≤ 6 then 3 else if nb ≤ 9 then 4 else if nb ≤ 12 then 5 else if nb ≤ 18 then 6 else 7

/-! ### Drain descriptor (R89) -/

def dDest (d : List Byte) : Nat := bits (recNat d 0 8) 0 48
def dPitch (d : List Byte) : Nat := bits (recNat d 8 8) 0 24
def dI0 (d : List Byte) : Nat := bits (recNat d 8 8) 24 5
def dI1 (d : List Byte) : Nat := bits (recNat d 8 8) 29 5
def dConv (d : List Byte) : Nat := bits (recNat d 8 8) 34 16
def dPair (d : List Byte) : Nat := bits (recNat d 8 8) 50 2
def dLfmt (d : List Byte) : Nat := bits (recNat d 8 8) 52 4
def dLow (d : List Byte) : Nat := bits (recNat d 0x10 8) 0 48
def dLbase (d : List Byte) : Nat := bits (recNat d 0x10 8) 48 10
def dLw (d : List Byte) : Nat := if bit (recNat d 0x10 8) 58 then 64 else 32
def dStatus (d : List Byte) : Nat := bits (recNat d 0x18 8) 0 48
def dCensus (d : List Byte) : Nat := bits (recNat d 0x20 8) 0 48
def dSeed (d : List Byte) : Nat := recNat d 0x28 8
def dElem (d : List Byte) : Nat := recNat d 0x30 8
def dStrI (d : List Byte) : Int := sextNat (recNat d 0x38 4) 32
def dStrL (d : List Byte) : Int := sextNat (recNat d 0x3C 4) 32
def dTid (d : List Byte) : Nat := recNat d 0x40 4
def dHist (d : List Byte) : Nat := bits (recNat d 0x48 8) 0 48
def dScale (d : List Byte) : Nat := bits (recNat d 0x50 8) 0 48

/-- Bytes of one row of 64 elements in a format. -/
def rowBytes (fmt : Nat) : Nat := 64 * fmtBits fmt / 8

/-- R89, with R53 and R71: the descriptor is legal. R89 gives no range for lbase, so every value of its 10 bits is taken; nor does it say that census_addr and hist_addr must be 64-byte aligned, and a drain uses a misaligned one as it stands (DESIGN CHOICE, log entry 67), as it uses an output address of L576 words that is no multiple of 8, for which R19 names no outcome (DESIGN CHOICE, log entry 93). -/
def drainLegal (d : List Byte) : Bool :=
  let c := dConv d
  ctlLegal c && (!ctlTscale c || ctlCensus c) &&
  decide (dI0 d ≤ dI1 d) && dPitch d % 8 == 0 && decide (rowBytes (ctlFmt c) ≤ dPitch d) &&
  !(dPair d != 0 && ctlFmt c == 8) && !(dPair d == 3 && decide (dLfmt d > 4)) &&
  recNat d 0 8 / 2 ^ 48 == 0 && recNat d 8 8 / 2 ^ 56 == 0 && recNat d 0x10 8 / 2 ^ 59 == 0 && recNat d 0x18 8 / 2 ^ 48 == 0 &&
  recNat d 0x20 8 / 2 ^ 48 == 0 && recNat d 0x40 8 / 2 ^ 32 == 0 && recNat d 0x48 8 / 2 ^ 48 == 0 && recNat d 0x50 8 / 2 ^ 48 == 0 &&
  (d.drop 0x58).all fun b => b == 0#8

/-- Element index for the SR key (R90), modulo 2^64. -/
def dIndex (d : List Byte) (i j : Nat) : Nat :=
  (((dElem d : Int) + i * dStrI d + j * dStrL d) % 2 ^ 64).toNat

/-- An element converted for output: encoding, low part, and the tag after conversion (R46, R50). -/
structure OutEl where
  w : Int
  enc : Nat
  low : Nat
  tag : Byte
deriving DecidableEq, Repr

/-- The low part of a pair (R50) and the tag bits it forms; `kind` 1 whole, 2 window, 3 rounded. R50 names RNE and lfmt alone for a rounded one; it rounds with the saturate option clear (DESIGN CHOICE, log entry 67). -/
def lowPart (kind lbase lw lfmt : Nat) (fmt : Nat) (k : Int) (w : Int) (hi : Conv) (sp : Spec) : Nat × Byte :=
  if sp != .fin || hasTag hi.tag tOvf then (0, 0#8) else
  let d := w - gridOf fmt k hi.enc
  match kind with
  | 1 => ((toWord d).toNat, 0#8)
  | 2 => match placeWindow d lbase lw with
    | some v => (v, 0#8)
    | none => (((d >>> lbase) % 2 ^ lw).toNat, tWov)
  | 3 => let c := roundOut lfmt 0 .rne false 0 d
         (c.enc, c.tag)
  | _ => (0, 0#8)

/-- One element converted under control `c` with scale exponent `k`; `draw` is its SR draw. A whole L576 output is the word unchanged, with ovf in its tag where the word is not in range (R20). -/
def outEl (c : Nat) (k : Int) (draw : Nat) (pair lbase lw lfmt : Nat) (w : Int) (tag : Byte) : OutEl :=
  let fmt := ctlFmt c
  if fmt = 8 then { w := w, enc := (toWord w).toNat, low := 0, tag := tag ||| (if inRange w then 0#8 else tOvf) } else
  let hi := convEl fmt k (ctlRM c) (ctlSat c) draw w tag
  let (lo, lt) := lowPart pair lbase lw lfmt fmt k w hi (specOf tag)
  { w := w, enc := hi.enc, low := lo, tag := tag ||| hi.tag ||| lt }

/-- Encodings packed in order (R57). -/
def packEls (fmt : Nat) : List Nat → List Byte
  | [] => []
  | [x] => if fmtBits fmt = 4 then [BitVec.ofNat 8 x] else leBytes x (fmtBits fmt / 8)
  | x :: y :: l =>
    if fmtBits fmt = 4 then BitVec.ofNat 8 (x % 16 + 16 * (y % 16)) :: packEls fmt l
    else leBytes x (fmtBits fmt / 8) ++ packEls fmt (y :: l)

end Sys2Proof.Machine
end

