-- ==== Sys2Proof/Machine/LinkCode.lean ====
section
/-! DEFINITION. The code of an Ulusen link: RS(544,514) over GF(2^10) (R240) and the scrambler (R241). -/

namespace Sys2Proof.Machine

/-- Multiplication by α in GF(2^10), α a root of x^10 + x^3 + 1. -/
def lx2 (a : Nat) : Nat := if a ≥ 512 then (2 * a) ^^^ 0x409 else 2 * a

/-- Product in GF(2^10). -/
def lmul (a b : Nat) : Nat :=
  ((List.range 10).foldl (fun (acc : Nat × Nat) i => (if b.testBit i then acc.1 ^^^ acc.2 else acc.1, lx2 acc.2)) (0, a)).1

/-- `a` to the power `n`; `k` bounds the bits of `n`. -/
def lpow (a : Nat) : Nat → Nat → Nat
  | 0, _ => 1
  | k + 1, n => let h := lpow a k (n / 2); let q := lmul h h; if n % 2 = 1 then lmul q a else q

/-- α^n. -/
def lalpha (n : Nat) : Nat := lpow 2 10 (n % 1023)

/-- Inverse of a nonzero element. -/
def linv (a : Nat) : Nat := lpow a 10 1022

/-- Value of a polynomial (highest coefficient first) at `x`. -/
def leval (p : List Nat) (x : Nat) : Nat := p.foldl (fun a c => lmul a x ^^^ c) 0

/-- The generator polynomial of IEEE 802.3 Clause 91: the product of (x - α^j), j from 0 to 29, highest coefficient first. -/
def rsGen : List Nat :=
  (List.range 30).foldl (fun p j =>
    let r := lalpha j
    List.zipWith (fun a b => a ^^^ lmul r b) (p ++ [0]) (0 :: p)) [1]

/-- The 30 check symbols of 514 message symbols. -/
def rsCheck (m : List Nat) : List Nat :=
  m.foldl (fun (k : List Nat) c =>
    let f := k.headD 0 ^^^ c
    List.zipWith (fun a b => a ^^^ lmul f b) (k.tail ++ [0]) rsGen.tail) (List.replicate 30 0)

/-- A polynomial with lowest coefficient first, at `x`. -/
def levalLow (p : List Nat) (x : Nat) : Nat := p.foldr (fun c a => lmul a x ^^^ c) 0

/-- Sum of polynomials, lowest coefficient first. -/
def ladd : List Nat → List Nat → List Nat
  | [], q => q
  | p, [] => p
  | a :: p, b :: q => (a ^^^ b) :: ladd p q

/-- One step of the Berlekamp and Massey search for the error locator: locator, previous one, its discrepancy, length, shift. -/
def bmStep (s : List Nat) (st : List Nat × List Nat × Nat × Nat × Nat) (n : Nat) : List Nat × List Nat × Nat × Nat × Nat :=
  let (c, b, db, len, m) := st
  let d := (List.range (len + 1)).foldl (fun a i => a ^^^ lmul (c.getD i 0) (s.getD (n - i) 0)) 0
  if d = 0 then (c, b, db, len, m + 1)
  else
    let f := lmul d (linv db)
    let c' := ladd c (List.replicate m 0 ++ b.map (lmul f))
    if 2 * len ≤ n then (c', c, d, n + 1 - len, 1) else (c', b, db, len, m + 1)

/-- Decoding of 544 symbols: the message and the number of symbols corrected, or none where the codeword is uncorrectable. -/
def rsDecode (r : List Nat) : Option (List Nat × Nat) :=
  let s := (List.range 30).map fun j => leval r (lalpha j)
  if s.all fun x => x == 0 then some (r.take 514, 0) else
  let (loc, _, _, len, _) := (List.range 30).foldl (bmStep s) ([1], [1], 1, 0, 1)
  if len > 15 then none else
  let pos := (List.range 544).filter fun i => levalLow loc (linv (lalpha (543 - i))) == 0
  if pos.length ≠ len then none else
  -- error values by Forney: first root α^0, so e = X · Ω(X⁻¹) / Λ'(X⁻¹)
  let om := (List.range 30).map fun k => (List.range (k + 1)).foldl (fun a i => a ^^^ lmul (loc.getD i 0) (s.getD (k - i) 0)) 0
  let dl := (List.range loc.length).drop 1 |>.map fun i => if i % 2 = 1 then loc.getD i 0 else 0
  let fixed := pos.foldl (fun (w : List Nat) i =>
    let x := lalpha (543 - i)
    let xi := linv x
    let e := lmul x (lmul (levalLow om xi) (linv (levalLow dl xi)))
    w.set i (w.getD i 0 ^^^ e)) r
  if (List.range 30).all fun j => leval fixed (lalpha j) == 0 then some (fixed.take 514, len) else none

/-- `n` bits of the scrambler from state `st`, least significant first, and the state after them: each bit is the XOR of the bits 31 and 28 places before it. -/
def scramble (n st : Nat) : Nat × Nat :=
  let (o, s, _) := (List.range n).foldl (fun (a : Nat × Nat × Nat) _ =>
    let b := (if a.2.1.testBit 30 then 1 else 0)
    let f := (if a.2.1.testBit 30 != a.2.1.testBit 27 then 1 else 0)
    (a.1 + b * a.2.2, (a.2.1 * 2) % 2 ^ 31 + f, a.2.2 * 2)) (0, st, 1)
  (o, s)

/-- The scrambler's state at the first bit of a frame: all ones. -/
def scrStart : Nat := 2 ^ 31 - 1

/-- A codeword: 514 message symbols, then 30 check symbols (R240). -/
def rsEncode (m : List Nat) : List Nat := m ++ rsCheck m

/-- `n` symbols of a number, the lowest bits first. -/
def natSyms : Nat → Nat → List Nat
  | 0, _ => []
  | n + 1, v => v % 1024 :: natSyms n (v / 1024)

/-- Codewords of `n` times 5,140 message bits `v`, scrambled from state `scr` on (R240, R241). -/
def codewords : Nat → Nat → Nat → List (List Nat)
  | 0, _, _ => []
  | n + 1, v, scr =>
    let (mask, scr) := scramble 5140 scr
    rsEncode (natSyms 514 ((v % 2 ^ 5140) ^^^ mask)) :: codewords n (v / 2 ^ 5140) scr

/-- Cells as one number, the first lowest (R241). -/
def cellsToNat : List (BitVec 128) → Nat
  | [] => 0
  | c :: l => c.toNat + 2 ^ 128 * cellsToNat l

/-- The 256 codewords of a frame whose cells are `l`, the rest of it idle. -/
def frameCodewords (l : List (BitVec 128)) : List (List Nat) := codewords 256 (cellsToNat l) scrStart

/-- The symbols of a codeword that logical lane `l` of `w` carries, in order (R240). -/
def laneSymbols (w l : Nat) (cw : List Nat) : List Nat :=
  ((List.range cw.length).filter fun i => i % w == l).map fun i => cw.getD i 0

/-- Message symbols as one number, symbol j at bits [10j + 9 : 10j]. -/
def symsToNat : List Nat → Nat
  | [] => 0
  | a :: l => a % 1024 + 1024 * symsToNat l

end Sys2Proof.Machine
end

