-- ==== Sys2Proof/Machine/Shunt.lean ====
section
/-! DEFINITION. The shunting engine (R217 to R235): channels, descriptors, transforms, stops and errors, completion. -/

namespace Sys2Proof.Machine

/-! ### Channels -/

def shunt (ch : Nat) (s : State) : Shunt := Map.get (fun _ => {}) s.shunts ch
def setShunt (ch : Nat) (x : Shunt) (s : State) : State := { s with shunts := Map.set (fun _ => {}) s.shunts ch x }
/-- The coordinate a channel's packets carry: the partner's for work adopted from it (R334). -/
def chCoord (ch : Nat) (s : State) : Nat :=
  let x := shunt ch s
  let id := match x.cmd, x.starter with
    | some id, _ => id
    | none, some t => (core t s).cmd.getD 0
    | none, none => 0
  if bit id 65 then twinOf (ownCoord s) else ownCoord s

def chState (ch : Nat) (s : State) : Nat := rd SHN_CH_STATUS_state ch s

/-- What every accepted start does (R218, R235). -/
def chStart (ch cur : Nat) (x : Shunt) (s : State) : State :=
  wr SHN_CH_STATUS_flags ch 0 (wr SHN_CH_STATUS_tile_started ch (if x.starter.isSome then 1 else 0)
    (wr SHN_CH_CUR_cur ch cur (wr SHN_CH_STATUS_state ch 1 (setShunt ch x s))))

/-- A chain start by tile `t` (R131, R218), with the event bit it names; sh_busy where the channel is not idle. -/
def tileStart (t ch addr : Nat) (evt : Option Nat) (s : State) : State :=
  if chState ch s != 0 then wr TIL_CS_STATUS_sh_busy t 1 s else
  wr SHN_CH_STATUS_starter ch t (wr SHN_CH_STATUS_starter_hi ch (t / 256)
    (chStart ch addr { starter := some t, evt := evt, siding := tileClass t s == 1 } s))

/-- SHN_START (R234): a direct start. The register CUR has no descriptor address to hold, so it takes a free value. -/
def regStart (ch : Nat) (s : State) : State :=
  if chState ch s != 0 then wr SHN_CH_STATUS_start_refused ch 1 s else
  let (v, s) := takeFree s
  chStart ch v { direct := true } s

/-- SHN_START_CHAIN (R218); also the start of a SHUNT command (R368). -/
def chainStart (ch addr : Nat) (siding : Bool) (cmd : Option Nat) (s : State) : State :=
  if chState ch s != 0 then wr SHN_CH_STATUS_start_refused ch 1 s else
  chStart ch addr { siding := siding, cmd := cmd } s

/-- SHN_STOP (R228). -/
def chStop (ch : Nat) (s : State) : State := if chState ch s == 1 then wr SHN_CH_STATUS_state ch 2 s else s

/-- SHN_RESUME (R228, R229). -/
def chResume (ch : Nat) (s : State) : State :=
  if chState ch s == 3 || chState ch s == 4 then
    wr SHN_CH_STATUS_state ch 1 (setShunt ch { shunt ch s with phase := 0, err := none, toSend := [] } s)
  else s

/-- SHN_CLEAR (R229). -/
def chClear (ch : Nat) (s : State) : State :=
  if chState ch s == 3 || chState ch s == 4 then wr SHN_CH_STATUS_state ch 0 (wr SHN_CH_CUR_cur ch 0 (setShunt ch {} s)) else s

/-! ### Descriptors (R220) -/

structure SDesc where
  src : Nat
  dst : Nat
  count : Nat
  rows : Nat
  sp : Nat
  dp : Nat
  xform : Nat
  esize : Nat
  factor : Nat
  notify : Bool
  last : Bool
  remote : Bool
  coord : Nat
  conv : Nat
  sscale : Nat
  dscale : Nat
  next : Nat
  reserved : Bool
deriving DecidableEq, Repr

def sdesc (d : List Byte) : SDesc :=
  let q := fun (o : Nat) => recNat d o 8
  { src := bits (q 0) 0 48, dst := bits (q 8) 0 48, count := bits (q 0x10) 0 32, rows := bits (q 0x10) 32 20 + 1,
    sp := bits (q 0x18) 0 32, dp := bits (q 0x18) 32 32, xform := bits (q 0x20) 0 4, esize := bits (q 0x20) 4 3,
    factor := bits (q 0x20) 7 7, notify := bit (q 0x20) 14, last := bit (q 0x20) 15, remote := bit (q 0x20) 16,
    coord := bits (q 0x20) 17 18, conv := bits (q 0x20) 35 16, sscale := bits (q 0x28) 0 48, dscale := bits (q 0x30) 0 48,
    next := bits (q 0x38) 0 48
    reserved := bits (q 0) 48 16 != 0 || bits (q 8) 48 16 != 0 || bits (q 0x10) 52 12 != 0 || bits (q 0x20) 51 13 != 0
      || bits (q 0x28) 48 16 != 0 || bits (q 0x30) 48 16 != 0 || bits (q 0x38) 48 16 != 0 }

/-- The descriptor of a direct start (R234), as 64 bytes. -/
def directDesc (ch : Nat) (s : State) : List Byte :=
  leBytes (rd SHN_CH_SRC_src ch s) 8 ++ leBytes (rd SHN_CH_DST_dst ch s) 8 ++ leBytes (rd SHN_CH_COUNT_count ch s) 8
  ++ leBytes 0 8 ++ leBytes (2 ^ 14 + 2 ^ 15) 8 ++ leBytes 0 24

/-- Bits of an element of esize. -/
def SDesc.ebits (d : SDesc) : Nat := if d.xform = 0xA then fmtBits (ctlFmt d.conv) else if d.esize = 0 then 4 else 8 * 2 ^ (d.esize - 1)

/-- Elements of a source row. -/
def SDesc.cols (d : SDesc) : Nat := d.count * 8 / d.ebits

/-- Rows and row length of the destination, in planes or rows. -/
def SDesc.dstShape (d : SDesc) : Nat × Nat :=
  match d.xform with
  | 2 => (d.factor, d.count / d.factor)
  | 9 => (d.cols, d.rows * d.ebits / 8)
  | 10 => (d.cols, d.rows * d.ebits / 8)
  | _ => (d.rows, d.count)

/-- Rows and row length of the source. -/
def SDesc.srcShape (d : SDesc) : Nat × Nat := if d.xform = 1 then (d.factor, d.count / d.factor) else (d.rows, d.count)

/-- The limits of R221, R224, R226, R227 and the overlap rule of R222. A COPY takes any element size that R220 names; its codes 5 to 7 name none and are refused (DESIGN CHOICE, log entry 93). -/
def SDesc.legal (d : SDesc) : Bool :=
  let size := d.ebits / 8
  let okx := match d.xform with
    | 0 => decide (d.esize ≤ 4)
    | 1 => decide (1 ≤ d.esize ∧ d.esize ≤ 4) && decide (2 ≤ d.factor ∧ d.factor ≤ 64) && d.rows == 1 && d.count % (d.factor * size) == 0
    | 2 => decide (1 ≤ d.esize ∧ d.esize ≤ 4) && decide (2 ≤ d.factor ∧ d.factor ≤ 64) && d.rows == 1 && d.count % (d.factor * size) == 0
    | 3 => decide (d.esize ≤ 1) && d.count % (if d.esize = 0 then 32 else 64) == 0
    | 4 => decide (d.esize ≤ 1) && d.count % (if d.esize = 0 then 32 else 64) == 0
    | 5 => d.count % 2 == 0
    | 6 => d.count % 4 == 0
    | 7 => d.count % 8 == 0
    | 8 => d.count % 4 == 0
    | 9 => decide (d.esize ≤ 3) && (if d.esize = 0 then d.count % 2 == 0 && d.rows % 2 == 0 else d.count % size == 0)
    | 10 => fmtBlock (ctlFmt d.conv) && decide (ctlMode d.conv ≤ 4) && !ctlCensus d.conv && !ctlTscale d.conv && bits d.conv 10 6 == 0
        && d.rows % 32 == 0 && d.cols % 32 == 0
    | _ => false
  let (sn, sl) := d.srcShape
  let (dn, dl) := d.dstShape
  let s1 := d.src + (sn - 1) * d.sp + sl
  let d1 := d.dst + (dn - 1) * d.dp + dl
  !d.reserved && decide (1 ≤ d.count) && okx && (d.remote || decide (s1 ≤ d.dst) || decide (d1 ≤ d.src))

/-! ### Transforms (R224, R225, R227) -/

/-- Element `i` of `w` bits in a row of bytes (R57). -/
def elemOf (w : Nat) (d : List Byte) (i : Nat) : Nat :=
  if w = 4 then bits (d.getD (i / 2) 0#8).toNat (4 * (i % 2)) 4 else ofLe ((d.drop (i * (w / 8))).take (w / 8))

/-- Elements packed into bytes (R57). -/
def packW (w : Nat) : List Nat → List Byte
  | [] => []
  | [a] => if w = 4 then [BitVec.ofNat 8 a] else leBytes a (w / 8)
  | a :: b :: l => if w = 4 then BitVec.ofNat 8 (a + 16 * b) :: packW w l else leBytes a (w / 8) ++ packW w (b :: l)

/-- Bytes reversed in groups of `n`. -/
def swapBytes (n : Nat) (d : List Byte) : List Byte :=
  (List.range (d.length / n)).flatMap fun g => ((d.drop (g * n)).take n).reverse

/-- HSWAP32: the half-words of each word exchanged. -/
def hswap (d : List Byte) : List Byte :=
  (List.range (d.length / 4)).flatMap fun g => let q := (d.drop (g * 4)).take 4; q.drop 2 ++ q.take 2

/-- BPACK: groups of 64 elements of `w` bits to bit planes. -/
def bpack (w : Nat) (d : List Byte) : List Byte :=
  (List.range (d.length / (8 * w))).flatMap fun g =>
    (List.range w).flatMap fun b =>
      leBytes ((List.range 64).foldl (fun a k => if (elemOf w d (64 * g + k)).testBit b then a + 2 ^ k else a) 0) 8

/-- BUNPK: the inverse of BPACK. -/
def bunpk (w : Nat) (d : List Byte) : List Byte :=
  (List.range (d.length / (8 * w))).flatMap fun g =>
    let plane := fun (b : Nat) => recNat d (8 * w * g + 8 * b) 8
    packW w ((List.range 64).map fun k => (List.range w).foldl (fun a b => if (plane b).testBit k then a + 2 ^ b else a) 0)

/-- A part of a descriptor's work: what it reads, in order, and what it writes from those bytes, with the tag bits formed. -/
structure Unit' where
  reads : List (Nat × Nat)
  out : List Byte → List (Nat × List Byte) × Byte

/-- TRSC (R227), with the tag bits R62 and R65 give NaNs and infinities: the bytes are the source rows followed by the source scale array. -/
def trsc (d : SDesc) (b : List Byte) : List (Nat × List Byte) × Byte :=
  let fmt := ctlFmt d.conv
  let w := d.ebits
  let c := d.cols
  let el := fun (r k : Nat) => elemOf w (b.drop (r * d.count)) k
  let sc := fun (r k : Nat) => (b.getD (d.rows * d.count + r * (c / 32) + k / 32) 0#8).toNat
  let term := fun (r k : Nat) => let t := plainTerm (scaleDec (sc r k) (decodeEl fmt (el r k))) 0; (t.val, t.tag)
  let rows := (List.range c).map fun k =>
    let gs := (List.range (d.rows / 32)).map fun g =>
      let es := (List.range 32).map fun i => term (32 * g + i) k
      let s := blockScale fmt es
      (s, es.map fun e =>
        let tag := if s = 255 then e.2 ||| tNan else e.2
        let x := convEl fmt (if s = 255 then 0 else scaleK s) (ctlRM d.conv) (ctlSat d.conv) 0 e.1 tag
        (⟨x.enc, x.tag ||| specTag (specOf tag)⟩ : Conv))
    (k, gs)
  (rows.flatMap fun r =>
      [(d.dscale + r.1 * (d.rows / 32), r.2.map fun g => BitVec.ofNat 8 g.1),
       (d.dst + r.1 * d.dp, packW w (r.2.flatMap fun g => g.2.map (·.enc)))],
   rows.foldl (fun a r => r.2.foldl (fun a g => g.2.foldl (fun a e => a ||| e.tag) a) a) 0#8)

/-- The work of a descriptor, part by part. -/
def SDesc.units (d : SDesc) : List Unit' :=
  let w := d.ebits
  let size := w / 8
  let rowwise := fun (f : List Byte → List Byte) => (List.range d.rows).map fun r =>
    ({ reads := [(d.src + r * d.sp, d.count)], out := fun b => ([(d.dst + r * d.dp, f b)], 0#8) } : Unit')
  let all := (List.range d.rows).map fun r => (d.src + r * d.sp, d.count)
  match d.xform with
  | 0 => rowwise id
  | 1 => [{ reads := (List.range d.factor).map fun p => (d.src + p * d.sp, d.count / d.factor),
            out := fun b => ([(d.dst, (List.range (d.count / size)).flatMap fun i =>
              ((b.drop ((i % d.factor) * (d.count / d.factor) + (i / d.factor) * size)).take size))], 0#8) }]
  | 2 => [{ reads := [(d.src, d.count)],
            out := fun b => ((List.range d.factor).map fun p => (d.dst + p * d.dp, (List.range (d.count / d.factor / size)).flatMap fun i =>
              (b.drop ((i * d.factor + p) * size)).take size), 0#8) }]
  | 3 => rowwise (bpack w)
  | 4 => rowwise (bunpk w)
  | 5 => rowwise (swapBytes 2)
  | 6 => rowwise (swapBytes 4)
  | 7 => rowwise (swapBytes 8)
  | 8 => rowwise hswap
  | 9 => [{ reads := all, out := fun b => ((List.range d.cols).map fun c => (d.dst + c * d.dp,
              packW w ((List.range d.rows).map fun r => elemOf w (b.drop (r * d.count)) c)), 0#8) }]
  | _ => [{ reads := all ++ [(d.sscale, d.rows * (d.cols / 32))], out := trsc d }]

/-! ### Moving data -/

/-- A run of bytes cut at 256-byte boundaries (R232); `n` bounds the pieces. -/
def pieces : Nat → Nat → Nat → List (Nat × Nat)
  | 0, _, _ => []
  | n + 1, a, len => if len = 0 then [] else
    let k := min len (256 - a % 256)
    (a, k) :: pieces n (a + k) (len - k)

def cut256 (a len : Nat) : List (Nat × Nat) := pieces (len / 256 + 2) a len

/-- A run of bytes to write, cut at 256-byte boundaries. -/
def cutBytes (a : Nat) (d : List Byte) : List (Nat × List Byte) :=
  (cut256 a d.length).map fun p => (p.1, (d.drop (p.1 - a)).take p.2)

/-- Whether a transform moves poison as it finds it (R224): COPY, the swaps, ILV and DILV. -/
def SDesc.movesPoison (d : SDesc) : Bool := d.xform ≤ 2 || (5 ≤ d.xform && d.xform ≤ 8)

/-- A read of a source as class 5: status, data, marks of poisoned bytes, state. Where poison is moved, it is no error; a sector found uncorrectable is one for every transform (R192, R229; DEDUCED, log entry 91). -/
def readMove (moves : Bool) (a n : Nat) (s : State) : Nat × List Byte × List Byte × State :=
  let (c, d, s') := memRead 5 fromChannel a n s
  if moves && c == 3 && d.length == n && !uncorrectable 5 a n s then (0, d, poisonMarks a n s, s') else (c, d, List.replicate n 0#8, s')

/-- Reads made in order until one fails: the data with its marks, or the code of R229 with the failing address. -/
def readRuns (moves : Bool) : List (Nat × Nat) → State → (List Byte × List Byte ⊕ (Nat × Nat)) × State
  | [], s => (.inl ([], []), s)
  | (a, n) :: l, s =>
    match readMove moves a n s with
    | (0, d, m, s) =>
      (match readRuns moves l s with
       | (.inl r, s) => (.inl (d ++ r.1, m ++ r.2), s)
       | (.inr e, s) => (.inr e, s))
    | (c, _, _, s) => (.inr (c + 1, a), s)

/-- A write of a descriptor: address, bytes, and the marks of those to lie poisoned (none: no byte does). -/
abbrev Put := Nat × List Byte × List Byte

/-- Writes made in order as class 5 until one is refused; bytes written are counted. R229 names no code for a write answered memory-error: it takes code 4 (DESIGN CHOICE, log entry 69). -/
def writeRuns (ch : Nat) : List Put → State → Option (Nat × Nat) × State
  | [], s => (none, s)
  | (a, d, m) :: l, s =>
    match memWrite 5 fromChannel a d s with
    | (0, s) => writeRuns ch l (bump SHN_CH_BYTES_count ch d.length (poisonMarked a m s))
    | (c, s) => (some (c + 1, a), s)

/-- What a part of the work writes from what it read, cut at 256-byte boundaries. A transform that moves poison moves the marks of its bytes as it moves the bytes. -/
def Unit'.puts (u : Unit') (b m : List Byte) : List Put × Byte :=
  let (ws, t) := u.out b
  let cut := fun (a : Nat) (d m : List Byte) => (cut256 a d.length).map fun p => (p.1, (d.drop (p.1 - a)).take p.2, (m.drop (p.1 - a)).take p.2)
  (if m.all (· == 0#8) then ws.flatMap fun w => cut w.1 w.2 []
   else (ws.zip (u.out m).1).flatMap fun w => cut w.1.1 w.1.2 w.2.2, t)

def chFlags (ch : Nat) (t : Byte) (s : State) : State := wr SHN_CH_STATUS_flags ch (rd SHN_CH_STATUS_flags ch s ||| t.toNat) s

/-- The whole work of a local descriptor: an error if an access fails, the bytes before it written. -/
def moveUnits (ch : Nat) (moves : Bool) : List Unit' → State → Option (Nat × Nat) × State
  | [], s => (none, s)
  | u :: l, s =>
    match readRuns moves (u.reads.flatMap fun r => cut256 r.1 r.2) s with
    | (.inr e, s) => (some e, s)
    | (.inl (b, m), s) =>
      let (ws, t) := u.puts b m
      (match writeRuns ch ws s with
       | (none, s) => moveUnits ch moves l (chFlags ch t s)
       | (some e, s) => (some e, s))

/-- The writes of a remote descriptor, up to a source read that fails. -/
def gatherUnits (ch : Nat) (moves : Bool) : List Unit' → State → List Put × Option (Nat × Nat) × State
  | [], s => ([], none, s)
  | u :: l, s =>
    match readRuns moves (u.reads.flatMap fun r => cut256 r.1 r.2) s with
    | (.inr e, s) => ([], some e, s)
    | (.inl (b, m), s) =>
      let (ws, t) := u.puts b m
      let (r, e, s) := gatherUnits ch moves l (chFlags ch t s)
      (ws ++ r, e, s)

/-- Whether a local descriptor must wait for a mirror before it moves (R331). -/
def SDesc.waits (d : SDesc) (s : State) : Bool :=
  let (n, l) := d.dstShape
  on CUT_CONTROL_mirror_en 0 s && ((List.range n).any (fun r => writeWaits (rangeSectors (d.dst + r * d.dp) l) s)
    || (d.xform == 10 && writeWaits (rangeSectors d.dscale (d.cols * (d.rows / 32))) s))

/-- The address of the last byte a descriptor writes. -/
def SDesc.lastByte (d : SDesc) : Nat := let (n, l) := d.dstShape; d.dst + (n - 1) * d.dp + l - 1

/-- Remote writes leave while tags are free (R450); `n` bounds them. -/
def sendRemote (ch : Nat) : Nat → State → State
  | 0, s => s
  | n + 1, s =>
    let x := shunt ch s
    match x.toSend with
    | [] => s
    | (a, d, bad) :: r =>
      if (freeTag s).isNone then s else
      let s := setShunt ch { x with toSend := r, remoteOut := x.remoteOut + 1 } s
      sendRemote ch n (requestAs (chCoord ch s) (.shunt ch a d.length)
        { typ := 0x01, vc := 0, tt := 0, dst := (sdesc x.desc).coord, src := 0, addr := a, payload := d, poison := bad } s)

/-! ### Ends -/

/-- An error stop (R229, R231). -/
def chError (ch code addr : Nat) (s : State) : State :=
  let x := shunt ch s
  let s := wr SHN_CH_ERR_valid ch 1 (wr SHN_CH_ERR_code ch code (wr SHN_CH_ERR_addr ch addr (wr SHN_CH_STATUS_state ch 4 s)))
  let s := setShunt ch { x with phase := 0, err := none, toSend := [], remoteOut := 0, cmd := none } s
  let s := match x.starter with
    | some t => wrBit TIL_CS_EVT_val t 49 true s
    | none => s
  let s := event boxSHN 0x09 code addr s
  let s := if on SHN_CH_CONTROL_irq_en ch s then msix (64 + ch) s else s
  match x.cmd with
  | some id => { s with notices := s.notices ++ [.shuntDone id code addr] }
  | none => s

/-- A descriptor boundary (R228): the chain ends, stops, or goes on to the next descriptor. -/
def chBoundary (ch : Nat) (s : State) : State :=
  let x := shunt ch s
  let d := sdesc x.desc
  if d.last then wr SHN_CH_STATUS_state ch 0 (setShunt ch {} s)
  else
    wr SHN_CH_CUR_cur ch d.next (wr SHN_CH_STATUS_state ch (if chState ch s == 2 then 3 else 1) (setShunt ch { x with phase := 0, direct := false } s))

/-- A completion report (R231), then the boundary. -/
def chReport (ch : Nat) (s : State) : State :=
  let x := shunt ch s
  let d := sdesc x.desc
  let s := bump SHN_CH_STATUS_done ch 1 s
  let s := match x.starter, x.evt with
    | some t, some b => if d.last then wrBit TIL_CS_EVT_val t b true s else s
    | _, _ => s
  let s := if on SHN_CH_CONTROL_irq_en ch s then msix (64 + ch) s else s
  let s := match x.cmd with
    | some id => if d.last then { s with notices := s.notices ++ [.shuntDone id 0 0] } else s
    | none => s
  chBoundary ch s

/-- Places a descriptor may lie (R220). -/
def descPlace (a : Nat) (s : State) : Bool :=
  match whereOf a s with
  | .gddr => true
  | .yard _ => true
  | .oper _ => true
  | _ => false

/-- SHN_DESCRIPTOR_BEGIN (R221 to R223): the descriptor is read and checked, and data begins to move. One that a restore runs again is the one held at the cut (R230). -/
def chBegin (ch : Nat) (s : State) : State :=
  ascending boxSHN (rd DBG_BOX_HEAD_count boxSHN s) <|
  let x := shunt ch s
  let cur := rd SHN_CH_CUR_cur ch s
  if !(chState ch s == 1 || chState ch s == 2) || x.phase != 0 then s else
  let (c, b, s) := if x.again then (0, x.desc, s)
    else if x.direct then (0, directDesc ch s, s)
    else if cur % 64 != 0 || !descPlace cur s then (1, [], s)
    else memRead 5 fromChannel cur 64 s
  if c != 0 then chError ch (c + 1) cur s else
  let d := sdesc b
  if !d.legal then chError ch 1 cur s
  else if d.remote && x.siding then chError ch 3 d.dst s
  else
    let s := setShunt ch { x with desc := b, again := false, phase := 1, lastW := d.lastByte, err := none } s
    if !d.remote then s else
    let (ws, e, s) := gatherUnits ch d.movesPoison d.units s
    let ws := if e.isSome then [] else ws.map fun w => (w.1, w.2.1, w.2.2.any (· != 0#8))
    sendRemote ch ws.length (setShunt ch { shunt ch s with toSend := ws, err := e } s)

/-- SHN_DESCRIPTOR_WRITES_ACCEPTED (R231): every write accepted; the read-back is issued, or the descriptor ends. -/
def chAccepted (ch : Nat) (s : State) : State :=
  let x := shunt ch s
  let d := sdesc x.desc
  if x.phase != 1 then s else
  let after := fun (s : State) =>
    if !(d.notify || d.last) then chBoundary ch s
    else if !d.remote then setShunt ch { shunt ch s with phase := 2 } s
    else requestAs (chCoord ch s) (.shunt ch x.lastW 0) { typ := 0x10, vc := 0, tt := 0, dst := d.coord, src := 0, addr := x.lastW } (setShunt ch { shunt ch s with phase := 2 } s)
  if d.remote then (if x.remoteOut == 0 && x.toSend.isEmpty && x.err.isNone then after s else s)
  else if d.waits s then s
  else
    match moveUnits ch d.movesPoison d.units s with
    | (none, s) => after s
    | (some _, _) => s

/-- SHN_READBACK_RETURN (R231). -/
def chReadback (ch : Nat) (s : State) : State :=
  let x := shunt ch s
  if x.phase == 3 then (if x.err.isSome then s else chReport ch s)
  else if x.phase != 2 || (sdesc x.desc).remote then s
  else
    match memRead 5 fromChannel x.lastW 1 s with
    | (0, _, s) => chReport ch s
    | (c, _, s) => setShunt ch { x with phase := 3, err := some (if c = 3 then 6 else c + 1, x.lastW) } s

/-- SHN_ERROR_STOP (R229): the failing access of a running descriptor stops the channel once nothing is outstanding. -/
def chErrorStop (ch : Nat) (s : State) : State :=
  ascending boxSHN (rd DBG_BOX_HEAD_count boxSHN s) <|
  let x := shunt ch s
  let d := sdesc x.desc
  match x.err with
  | some e => if x.remoteOut == 0 then chError ch e.1 e.2 s else s
  | none =>
    if x.phase != 1 || d.remote || d.waits s then s else
    match moveUnits ch d.movesPoison d.units s with
    | (some e, s) => chError ch e.1 e.2 s
    | (none, _) => s

/-- A write response for a channel (R231, R229 code 5). -/
def chWrack (ch addr len status : Nat) (s : State) : State :=
  let x := shunt ch s
  let s := if status = 0 then bump SHN_CH_BYTES_count ch len s else s
  let x' := { x with remoteOut := x.remoteOut - 1 }
  let x' := if status ≠ 0 then { x' with toSend := [], err := if x.err.isSome then x.err else some (5, addr) } else x'
  sendRemote ch x'.toSend.length (setShunt ch x' s)

/-- The read-back of a remote descriptor returns. -/
def chRdata (ch addr status : Nat) (s : State) : State :=
  let x := shunt ch s
  if x.phase != 2 then s else
  setShunt ch { x with phase := 3, err := if status = 0 then x.err else if status = 3 then some (6, addr) else some (5, addr) } s

/-- The requests of a channel that wait for a response: tag, address, and the cycle each was sent. -/
def chTags (ch : Nat) (s : State) : List (Nat × Nat × Nat) :=
  s.tags.filterMap fun e => match e.2 with
    | some u => (match u.who with
      | .shunt c a _ => if c = ch && !u.abandoned then some (e.1, a, u.at_) else none
      | _ => none)
    | none => none

/-- Those of them that were sent first. -/
def chOldest (ch : Nat) (s : State) : List (Nat × Nat × Nat) :=
  let l := chTags ch s
  l.filter fun e => l.all fun f => e.2.2 ≤ f.2.2

/-- SHN_REMOTE_TIMEOUT (R229): the requests sent first have had no response for 1 ms. They are waited for no longer (R450), nothing more is sent, and the channel reports once none of the others remains outstanding, with the error met first; of requests sent in one cycle it names the lowest tag's (DESIGN CHOICE, log entry 69). -/
def chTimeout (ch : Nat) (s : State) : State :=
  match chOldest ch s with
  | [] => s
  | e :: l =>
    let x := shunt ch s
    let err := x.err.getD (5, e.2.1)
    let left := if x.phase = 2 then 0 else x.remoteOut - (l.length + 1)
    let s := setShunt ch { x with toSend := [], remoteOut := left, err := some err } ((e :: l).foldl (fun s e => abandonTag e.1 s) s)
    if left = 0 then chError ch err.1 err.2 s else s

end Sys2Proof.Machine
end

