-- ==== Sys2Proof/Machine/Links.lean ====
section
/-! DEFINITION. Ulusen ports and links (R236 to R261): bring-up, frames and replay, link control cells, flow control, low power, and the loss of a link. -/

namespace Sys2Proof.Machine

def port (p : Nat) (s : State) : Port := Map.get (fun _ => {}) s.ports p
def setPort (p : Nat) (x : Port) (s : State) : State := { s with ports := Map.set (fun _ => {}) s.ports p x }
def modPort (p : Nat) (f : Port → Port) (s : State) : State := setPort p (f (port p s)) s
def portState (p : Nat) (s : State) : Nat := rd ULP_STATUS_state p s

/-- A state change of a port, recorded in its signal box (R248, R422). -/
def portGo (p n : Nat) (s : State) : State :=
  let old := portState p s
  let s := event (boxPort p) 0x11 n (rd ULP_STATUS_fail_reason p s) (wr ULP_STATUS_state p n s)
  { s with notices := s.notices ++ [.portChange p old n] }

/-- The first element that `f` selects, and the list without it. -/
def takeFirst {α : Type} (f : α → Bool) : List α → Option (α × List α)
  | [] => none
  | a :: l => if f a then some (a, l) else (takeFirst f l).map fun r => (r.1, a :: r.2)

/-! ### Packets and cells (R242, R263, R264) -/

/-- Cells of a packet. -/
def pktCells (n : Nat) : Nat := 1 + (n + 15) / 16

def linkLocal (typ : Nat) : Bool := typ == 0x58 || typ == 0x59

def knownType (t : Nat) : Bool :=
  t == 0x01 || decide (0x10 ≤ t ∧ t ≤ 0x18) || decide (0x20 ≤ t ∧ t ≤ 0x22) || t == 0x30 || t == 0x31 || t == 0x40 || t == 0x50
  || t == 0x52 || t == 0x53 || t == 0x58 || t == 0x59 || decide (0x80 ≤ t ∧ t ≤ 0x84)

/-- A packet from its header and the bytes of its other cells. -/
def pktOf (h : Nat) (d : List Byte) : Pkt :=
  { typ := bits h 0 8, vc := bits h 8 3, tt := bits h 11 1, ca := bit h 12, ae := bit h 13, dst := bits h 24 18, src := bits h 42 18,
    hops := bits h 60 8, tag := bits h 68 12, addr := bits h 80 48, payload := d.take (bits h 15 9) }

/-- The header breaks R264. -/
def badHeader (h : Nat) : Bool :=
  !knownType (bits h 0 8) || decide (bits h 8 3 > 5) || decide (bits h 15 9 > 256) || bit h 14
  || (decide (bits h 0 8 ≥ 0x80) && bits h 96 32 != 0)

/-- The TAILs that hold port `p`, by identifier, in the order of their stream (R318). -/
def tailIds (p : Nat) (s : State) : List Nat := s.cut.tails.filterMap fun e => if e.1 = p then some e.2 else none

def tailsOn (p : Nat) (s : State) : Nat := (tailIds p s).length

/-- A packet discarded (R264, R272), counted and recorded. -/
def dropPkt (detail : Nat) (tt hdr : Nat) (s : State) : State :=
  event boxRTR 0x05 detail (hdr % 2 ^ 48) (bump RTR_DROP_count tt 1 s)

/-! ### Flow control (R253, R254) -/

def capOf (p v : Nat) (s : State) : Nat := bits (regRaw ULP_FC_CAP p s) (10 * v) 10
def resOf (p v : Nat) (s : State) : Nat := bits (regRaw ULP_FC_CONFIG p s) (10 * v) 10
def resSum (p : Nat) (s : State) : Nat := (List.range 6).foldl (fun a v => a + resOf p v s) 0

/-- Shared cells not yet freed: U. -/
def Port.used (x : Port) : Nat := x.shared.foldl (fun a e => a + e.2) 0

def zget (m : Map Nat) (k : Nat) : Nat := Map.get (fun _ => 0) m k
def zset (m : Map Nat) (k v : Nat) : Map Nat := Map.set (fun _ => 0) m k v
def zadd (m : Map Nat) (k n : Nat) : Map Nat := zset m k (zget m k + n)
def zsub (m : Map Nat) (k n : Nat) : Map Nat := zset m k (zget m k - n)

/-- limit_v of R254. -/
def Port.limitOf (x : Port) (closed : Bool) (v : Nat) : Nat :=
  if closed && x.markSeen then (zget x.base v + zget x.freed v) % 4096 else 0

/-- The link field of the moment (R243). -/
def linkField (p : Nat) (s : State) : Nat :=
  let x := port p s
  let closed := on ULP_STATUS_closed p s
  let n := fun (b : Bool) => if b then 1 else 0
  (x.need + 65535) % 65536 + n x.replay * 2 ^ 16 + (x.onv % 64) * 2 ^ 17 + n closed * 2 ^ 23 + n x.gen * 2 ^ 24
  + (List.range 6).foldl (fun a v => a + x.limitOf closed v * 2 ^ (25 + 12 * v)) 0

/-- Cells of bytes, zero-padded. -/
def bytesCells (d : List Byte) : List (BitVec 128) :=
  (List.range ((d.length + 15) / 16)).map fun i => BitVec.ofNat 128 (ofLe ((d.drop (16 * i)).take 16))

/-- The cells of an item of a frame sent with link field `f` (R242 to R244). -/
def FItem.cells (f : Nat) : FItem → List (BitVec 128)
  | .pkt q => BitVec.ofNat 128 q.header :: bytesCells q.payload
  | .ctl c => [c]
  | .flow => [BitVec.ofNat 128 (0xF0 + f * 2 ^ 16)]
  | .idle n => List.replicate n 0#128

/-- How many they are. -/
def FItem.size : FItem → Nat
  | .pkt q => pktCells q.payload.length
  | .idle n => n
  | _ => 1

/-- Cells of the stream a frame has so far, the frame cell apart. -/
def Frame.size (x : Frame) : Nat := x.lead.length + (x.items.map FItem.size).foldl (· + ·) 0

/-- The cells of a frame sent with link field `f`: the frame cell and what the stream has (R241, R243). -/
def Frame.cells (f : Nat) (x : Frame) : List (BitVec 128) :=
  BitVec.ofNat 128 (x.num + f * 2 ^ 16) :: (x.lead ++ x.items.flatMap (FItem.cells f)).take 10279

/-- The items of a frame sent again with `n` cells since the last FLOW before them: a FLOW that would stand within 64 cells of the one before it is left idle (R245). With them, the cells since the last FLOW after them. -/
def spaced : Nat → List FItem → List FItem × Nat
  | n, [] => ([], n)
  | n, i :: l =>
    if i != .flow then (let r := spaced (n + i.size) l; (i :: r.1, r.2))
    else if n < 63 then (let r := spaced (n + 1) l; (.idle 1 :: r.1, r.2))
    else let r := spaced 0 l; (.flow :: r.1, r.2)

/-- Idle cells a new FLOW must stand behind in frame `f`, now sent, so that any 64 cells hold at most one, across frames too (R245). -/
def flowGap (x : Port) (f : Frame) : Nat := 63 - (x.quiet - (10279 - f.size))

/-- Where the link field differs from the one last sent, a FLOW cell joins the frame now sent, at its next packet boundary that R245 allows; where that frame is a resent one or has no room, the change rides in the next frame cell. -/
def flowDue (p : Nat) (s : State) : State :=
  let x := port p s
  if portState p s != 6 || linkField p s == x.lastField || !x.opened then s else
  match x.frames.getLast? with
  | none => s
  | some f =>
    let gap := flowGap x f
    if f.size + gap ≥ 10279 then s else
    let add := (if gap = 0 then [] else [FItem.idle gap]) ++ [.flow]
    let v := linkField p s
    setPort p { x with lastField := v, quiet := 10278 - (f.size + gap), frames := x.frames.dropLast ++ [{ f with items := f.items ++ add }],
                       wire := x.wire ++ add.flatMap (FItem.cells v) } (wr ULP_STATUS_on p x.onv s)

/-- The on bits of open mode (R254). -/
def onBits (p : Nat) (s : State) : Nat :=
  let x := port p s
  (List.range 6).foldl (fun a v =>
    let capc := 32 * capOf p v s
    let sh := zget x.shared v
    let o := if capc != 0 && decide (sh ≥ capc) then false else if capc == 0 || decide (sh + 64 ≤ capc) then true else x.onv.testBit v
    a + (if o then 2 ^ v else 0)) 0

/-- The receive side's decisions of R254. -/
def fcUpdate (p : Nat) (s : State) : State :=
  let x := port p s
  let u := x.used
  let s := wr ULP_FC_STATUS_used p u (wr ULP_FC_STATUS_peak p (max u (rd ULP_FC_STATUS_peak p s)) s)
  let off := rd ULP_FC_STATUS_off_t p s
  let closed := on ULP_STATUS_closed p s
  let s :=
    if !closed && x.markSeen && decide (u ≥ off) && portState p s == 6 then
      bump ULP_CLOSES_count p 1 (wr ULP_STATUS_closed p 1 (setPort p { x with gen := !x.gen, markSeen := false, base := [], freed := [] } s))
    else if closed && x.markSeen && decide (u + 1024 ≤ off) then
      wr ULP_STATUS_closed p 0 (setPort p { x with gen := !x.gen, markSeen := false } s)
    else s
  flowDue p (if on ULP_STATUS_closed p s then s else setPort p { port p s with onv := onBits p s } s)

/-- `n` cells of VC `v` are freed. -/
def freeCells (p v n : Nat) (held : Bool) (s : State) : State :=
  let x := port p s
  let x := if held then { x with resv := zsub x.resv v n, freed := zadd x.freed v n } else { x with shared := zsub x.shared v n }
  fcUpdate p (setPort p x s)

/-- Whether the transmit side may start a packet of `n` cells on VC `v` (R254). -/
def admits (p v n : Nat) (s : State) : Bool :=
  let x := port p s
  if x.txClosed then decide ((zget x.limits v + 4096 - zget x.sent v % 4096) % 4096 ≥ n) else (rd ULP_STATUS_peer_on p s).testBit v

/-- Cells queued for output. -/
def outCells (p : Nat) (s : State) : Nat := (port p s).outq.foldl (fun a q => a + pktCells q.pkt.payload.length) 0

/-! ### Failure and loss (R255, R257) -/

/-- The packets of frames. -/
def framePkts (l : List Frame) : List Pkt :=
  l.flatMap fun f => f.items.filterMap fun i => match i with
    | .pkt q => some q
    | _ => none

/-- The last packet's cells taken off a stream whose newest cell stands first: those cells, and the rest. -/
def dropLastPkt : List RxCell → List RxCell × List RxCell
  | [] => ([], [])
  | c :: l =>
    match c.kind with
    | .head => ([c], l)
    | .body => let r := dropLastPkt l; (c :: r.1, r.2)
    | _ => let r := dropLastPkt l; (r.1, c :: r.2)

/-- A partly received packet is dropped and its cells freed. -/
def dropPartial (p : Nat) (s : State) : State :=
  let x := port p s
  if x.left = 0 then s else
  let (gone, keep) := dropLastPkt x.cells.reverse
  let held := gone.any (·.held)
  let s := setPort p { x with cells := keep.reverse, left := 0 } s
  if x.leftVc = 8 then s else freeCells p x.leftVc gone.length held s

/-- A link that goes down, and so runs on no lanes: unacknowledged packets are lost and counted; packets not yet framed return to the router (R257). -/
def linkGone (p : Nat) (s : State) : State :=
  let x := port p s
  let lost := (match x.frames with
    | [] => x.carryPkt
    | f :: _ => f.tail).toList ++ framePkts x.frames
  let s := setPort p { x with frames := [], carry := [], carryPkt := none, opened := false, wire := [], laneHeads := [], outq := [], ctlq := [], resend := none, retraining := false, retrainReq := false, waking := false,
                              nap := none, napEnter := none, turned := false } (wr ULP_STATUS_width8 p 0 (wr ULP_STATUS_upper p 0 s))
  let s := bump ULP_LOST_PACKETS_count p lost.length s
  let s := lost.foldl (fun s q => if linkLocal q.typ then s else dropPkt 4 q.tt q.header s) s
  dropPartial p { s with injq := s.injq ++ x.outq.filter fun q => !linkLocal q.pkt.typ }

/-- A port stops in FAILED. -/
def portFail (p reason : Nat) (s : State) : State :=
  let s := linkGone p (wr ULP_STATUS_fail_reason p reason (wr ULP_STATUS_fail_valid p 1 s))
  itgEvent 11 p 0xFF reason 0 0 (msix (224 + p) (portGo p 9 s))

/-- A port goes DOWN. -/
def portDown (p : Nat) (s : State) : State := if portState p s = 0 then s else portGo p 0 (linkGone p s)

/-- A port whose link comes up anew, not after a retrain or from SLUMBER: both sides in open mode, and nothing acted on or kept of the link before (R243, R254). -/
def freshLink (p : Nat) (s : State) : State :=
  modPort p (fun x => { x with txGen := false, txClosed := false, sent := [], limits := [], cmode := false, onv := 63, gen := false, markSeen := true, base := [], freed := [],
                               replay := false, replayAck := none, holdoff := false, again := false, need := 0, cells := x.cells.filter fun c => c.kind == .head || c.kind == .body })
    (wr ULP_STATUS_closed p 0 s)

/-- Bring-up begins (R249), for an enabled port with a cable, from the saved tap settings or the preset (R252). A fail_reason stays held until fail_valid is cleared and another replaces it (R259). -/
def portBringUp (p : Nat) (s : State) : State :=
  if !on ULP_STATUS_present p s then wr ULP_STATUS_fail_reason p 1 (wr ULP_STATUS_fail_valid p 1 s)
  else portGo p (if (port p s).saved then 2 else 1) (modPort p (fun x => { x with taps := if x.saved then x.savedTaps else [] }) (freshLink p s))

/-- A write of enable (R249, R257); a port enabled before boot lock begins its bring-up at boot lock (R392). -/
def portEnable (p : Nat) (v : Bool) (s : State) : State :=
  let s := wr ULP_CONTROL_enable p (if v then 1 else 0) s
  if v then (if portState p s = 0 then afterLock (portBringUp p) s else s) else portDown p s

/-- The retrain of R257 begins; the replay buffer, frame numbers and flow-control state stay. -/
def retrainStart (p : Nat) (s : State) : State :=
  bump ULP_RETRAINS_count p 1 (portGo p 2 (modPort p (fun x => { x with retraining := true, retrainReq := false, nap := none, napEnter := none, turned := false, opened := false, taps := x.savedTaps }) s))

/-- A write of retrain. -/
def portRetrain (p : Nat) (s : State) : State :=
  if portState p s = 6 then modPort p (fun x => { x with retrainReq := true }) s else s

/-- LINK_LOST (R257). -/
def linkLost (p : Nat) (s : State) : State :=
  let st := portState p s
  if st = 6 then (if on ULP_CONTROL_auto_retrain p s then retrainStart p s else portFail p 8 s)
  else if (port p s).retraining && decide (2 ≤ st ∧ st ≤ 5) then portFail p 8 s
  else s

/-- CABLE_PRESENCE (R249, R259). -/
def cablePresence (p : Nat) (here : Bool) (s : State) : State :=
  if here == on ULP_STATUS_present p s then s
  else if here then
    let s := modPort p (fun x => { x with saved := false }) (wr ULP_STATUS_present p 1 s)
    if on ULP_CONTROL_enable p s && portState p s == 0 then afterLock (portBringUp p) s else s
  else
    let s := modPort p (fun x => { x with saved := false }) (wr ULP_STATUS_present p 0 s)
    if portState p s == 0 || portState p s == 9 then s
    else portDown p (wr ULP_STATUS_fail_reason p 1 (wr ULP_STATUS_fail_valid p 1 s))

/-! ### Bring-up (R247 to R251) -/

/-- The checks of R247 on the 128 bytes of the identity memory. -/
def cableOk (d : List Byte) : Bool :=
  let b := fun (o : Nat) => recNat d o 1
  b 0 == 0xA7 && b 1 == 1 && b 6 == 16 && b 7 == 1 && ((List.range 128).foldl (fun a i => a + b i) 0) % 256 == 0
  && !(b 2 == 0 && decide (b 3 > 1)) && !(b 2 == 1 && decide (b 3 > 2))

/-- CABLE_IDENTITY_READ. -/
def cableRead (p : Nat) (d : List Byte) (s : State) : State :=
  if portState p s != 1 then s else
  let s := (List.range 16).foldl (fun s m => wr ULP_CABLE_data (ULP_CABLE.ix p m) (recNat d (8 * m) 8) s) s
  if cableOk d then portGo p 2 s else portFail p 2 s

/-- Entry of logical lane `l` in the receive map: the physical lane (R238, R260). -/
def rxLane (p l : Nat) (s : State) : Nat :=
  let m := if l < 8 then rd ULP_LANEMAP_RX0_map p s else rd ULP_LANEMAP_RX1_map p s
  bits m (5 * (l % 8)) 4

/-- LANE_TRAINED: `good` marks the logical lanes that trained, `nums` gives the lane number each physical lane carries. -/
def laneTrained (p good : Nat) (nums : List Nat) (s : State) : State :=
  if portState p s != 2 then s else
  if (List.range 16).any fun l => good.testBit l && nums.getD (rxLane p l s) 16 != l then portFail p 4 s
  else portGo p 3 (modPort p (fun x => { x with good := good % 65536, saved := true, savedTaps := x.taps }) s)

/-- ALIGN_LOCK. -/
def alignLock (p : Nat) (s : State) : State := if portState p s = 3 then portGo p 4 s else s

/-- The peer's coordinate and role for a role of this module (R237). -/
def peerOf (c role : Nat) : Nat × Nat :=
  let x := c % 64
  let y := c / 64 % 64
  let z := c / 4096 % 32
  let t := c / 2 ^ 17 % 2
  let mk := fun (x y z t : Nat) => x + 64 * y + 4096 * z + 2 ^ 17 * t
  match role with
  | 1 => (mk ((x + 1) % 64) y z t, 2)
  | 2 => (mk ((x + 63) % 64) y z t, 1)
  | 3 => (mk x ((y + 1) % 64) z t, 4)
  | 4 => (mk x ((y + 63) % 64) z t, 3)
  | 5 => (mk x y ((z + 1) % 32) t, 6)
  | 6 => (mk x y ((z + 31) % 32) t, 5)
  | 7 => (mk x y z (1 - t), 7)
  | 8 => (mk ((x + 32) % 64) y z t, 9)
  | 9 => (mk ((x + 32) % 64) y z t, 8)
  | _ => (c, 0)

/-- A port becomes ACTIVE; except after a retrain, frame numbers start at 0, and a fresh bring-up starts in open mode. -/
def portActive (p : Nat) (s : State) : State :=
  let x := port p s
  let y : Port := { x with frames := [], carry := [], carryPkt := none, opened := false, wire := [], laneHeads := [], txNum := 0, resend := none, need := 0, done := 0, part := 0, partBits := 0, cwIdx := 0, accept := false, replay := false }
  let s :=
    if x.retraining then
      setPort p { x with retraining := false, accept := false, resend := (x.frames.head?).map (·.num), good := x.good } s
    else if x.waking then setPort p { y with waking := false } s
    else wr ULP_STATUS_closed p 0 (setPort p { y with cmode := false, onv := 63, gen := false, markSeen := true, base := [], freed := [] } s)
  let s := if x.retraining && !x.frames.isEmpty then bump ULP_REPLAYS_count p 1 s else s
  fcUpdate p (portGo p 6 (wr ULP_FC_STATUS_peak p (port p s).used s))

/-- Lanes the link runs on: 0 all sixteen, 1 the lower, 2 the upper eight (R250). -/
def linkWidth (mine peer : Nat) (degrade : Bool) : Option Nat :=
  let both := mine &&& peer
  if both = 65535 then some 0
  else if degrade && both % 256 == 255 then some 1
  else if degrade && both / 256 == 255 then some 2
  else none

/-- VERIFY_REPORT (R250). -/
def verifyReport (p coord role : Nat) (letter : Bool) (good : Nat) (degrade : Bool) (s : State) : State :=
  if portState p s != 4 then s else
  let s := wr ULP_PEER_coord p coord (wr ULP_PEER_role p role (wr ULP_PEER_letter p (if letter then 1 else 0) (wr ULP_PEER_valid p 1 s)))
  let own := rd ULP_ROLE_role p s
  if own == 0 || peerOf (ownCoord s) own != (coord, role) || on ULP_ROLE_letter p s != letter then portFail p 5 s else
  let x := port p s
  match linkWidth x.good (good % 65536) (degrade && on ULP_CONTROL_degrade_en p s) with
  | none => portFail p 4 s
  | some w =>
    let s := wr ULP_STATUS_width8 p (if w = 0 then 0 else 1) (wr ULP_STATUS_upper p (if w = 2 then 1 else 0) s)
    if x.waking then portActive p s
    else portGo p 5 (setPort p { x with pings := 0, echoes := 0, pingAt := [], ctlq := if x.retraining then x.ctlq else [], mpart := 0, mpartBits := 0, wire := [], laneHeads := [] } s)

/-- The PING cells among items that leave now: the time of each is taken (R251). -/
def stampPings (t : Nat) (l : List FItem) (m : Map (Option Nat)) : Map (Option Nat) :=
  l.foldl (fun m i => match i with
    | .ctl c => if c.toNat % 256 = 0xF2 then Map.set (fun _ => none) m (bits c.toNat 8 16) (some t) else m
    | _ => m) m

/-- Control cells that a frame of bring-up carries: TUNE and TUNE_DONE in TRAIN, PING and ECHO in MEASURE, none between (R249, R251). -/
def trainCell (st : Nat) : FItem → Bool
  | .ctl c => let t := c.toNat % 256; (st == 2 && (t == 0xF4 || t == 0xF5)) || (st == 5 && (t == 0xF2 || t == 0xF3))
  | _ => false

/-- A control cell at the next packet boundary (R242, R251, R254): in the frame now sent where that takes cells, else ahead of all others in the next that does; a frame of MEASURE takes PING and ECHO alone. -/
def cellNow (p : Nat) (c : BitVec 128) (s : State) : State :=
  let x := port p s
  let y := { x with pingAt := stampPings s.cycle [.ctl c] x.pingAt, wire := x.wire ++ [c] }
  let later := setPort p { x with ctlq := .ctl c :: x.ctlq } s
  if portState p s = 5 && trainCell 5 (.ctl c) then (if x.wire.isEmpty || decide (x.wire.length ≥ 10280) then later else setPort p y s)
  else if portState p s != 6 || !x.opened then later
  else match x.frames.getLast? with
    | none => later
    | some f => if f.size ≥ 10279 then later else setPort p { y with frames := x.frames.dropLast ++ [{ f with items := f.items ++ [.ctl c] }] } s

/-- PING_TIMER (R251): the next PING leaves. -/
def pingTimer (p : Nat) (s : State) : State :=
  let x := port p s
  if portState p s != 5 || decide (x.pings ≥ 64) then s else
  cellNow p (BitVec.ofNat 128 (0xF2 + x.pings * 2 ^ 8)) (setPort p { x with pings := x.pings + 1 } s)

/-- The thresholds of R253, and the port's first packets. -/
def measureDone (p : Nat) (s : State) : State :=
  let rtt := rd ULP_RTT_rtt p s
  if rtt > 1000 then portFail p 6 s else
  let k := rtt * (if on ULP_STATUS_width8 p s then 14 else 27) + 128
  let rest := 32768 - resSum p s
  let s := wr ULP_FC_STATUS_skid p k (wr ULP_FC_STATUS_off_t p (rest - k) s)
  if rest < k + 2048 then portFail p 7 s else portActive p s

/-- A step of bring-up exceeds its bound (R249). -/
def trainingTimeout (p : Nat) (s : State) : State :=
  if decide (1 ≤ portState p s ∧ portState p s ≤ 5) then portFail p 3 s else s

/-! ### The receive side (R240 to R246, R254, R255) -/

/-- One cell commits in ACTIVE (R242). -/
def commitCell (p : Nat) (first : Bool) (c : BitVec 128) (s : State) : State :=
  let s := bump ULP_RX_CELLS_count p 1 s
  let x := port p s
  let n := c.toNat
  let put := fun (k : RxKind) (s : State) => modPort p (fun x => { x with cells := x.cells ++ [{ kind := k, c := c }] }) s
  if portState p s != 6 then s
  else if first then put .frame s
  else if x.left = 0 && n % 256 == 0 then s
  else if x.left = 0 && decide (n % 256 ≥ 0xF8) then bump ULP_BAD_CTL_count p 1 s
  else if x.left = 0 && decide (n % 256 ≥ 0xF0) then
    -- a MARK that ends a mode: cells after it go to the space of the new one, and in closed mode the limits start here
    let s := if n % 256 = 0xF1 && !x.markSeen && (bit n 8) == x.gen then
        setPort p { x with cmode := bit n 9, freed := [], base := if bit n 9 then (List.range 6).foldl (fun m v => zset m v (resOf p v s - zget x.resv v)) [] else [] } s
      else s
    put .ctl s
  else
    let head := decide (x.left = 0)
    let v := if head then bits n 8 3 else x.leftVc
    let left := if head then pktCells (bits n 15 9) - 1 else x.left - 1
    let v := if head && linkLocal (n % 256) then 8 else v
    if v = 8 then
      setPort p { x with left := left, leftVc := 8, cells := x.cells ++ [{ kind := if head then .head else .body, wait := tailsOn p s, rt := if head then now s else 0, c := c }] } s
    else
    let room := if x.cmode then decide (zget x.resv v < resOf p v s) else decide (x.used + resSum p s < 32768)
    if room then
      setPort p { x with left := left, leftVc := v, resv := if x.cmode then zadd x.resv v 1 else x.resv,
                         shared := if x.cmode then x.shared else zadd x.shared v 1,
                         cells := x.cells ++ [{ kind := if head then .head else .body, held := x.cmode, wait := tailsOn p s, rt := if head then now s else 0, c := c }] } s
    else
      portFail p 9 (bump ULP_OVERRUN_count p 1 (if head then s else dropPartial p s))

/-- The whole cells among `m` bits commit in order; the rest of the bits stay. `n` bounds the cells. -/
def commitBits (p : Nat) : Nat → Nat → Nat → Bool → State → (Nat × Nat) × State
  | 0, v, m, _, s => ((v, m), s)
  | n + 1, v, m, first, s =>
    if m < 128 then ((v, m), s)
    else commitBits p n (v / 2 ^ 128) (m - 128) false (commitCell p first (BitVec.ofNat 128 v) s)

/-- The cells of MEASURE, and of the training frames of TRAIN: their control cells are kept, and the frame cells of MEASURE, which carry the link field (R243). -/
def measureBits (p : Nat) : Nat → Nat → Nat → Bool → State → (Nat × Nat) × State
  | 0, v, m, _, s => ((v, m), s)
  | n + 1, v, m, first, s =>
    if m < 128 then ((v, m), s) else
    let k := v % 256
    let s := bump ULP_RX_CELLS_count p 1 s
    let s := if first then (if portState p s = 5 then modPort p (fun x => { x with cells := x.cells ++ [{ kind := .frame, c := BitVec.ofNat 128 v }] }) s else s)
      else if k < 0xF0 then s else if k ≥ 0xF8 then bump ULP_BAD_CTL_count p 1 s
      else modPort p (fun x => { x with cells := x.cells ++ [{ kind := .ctl, c := BitVec.ofNat 128 v }] }) s
    measureBits p n (v / 2 ^ 128) (m - 128) false s

/-- CODEWORD_DECODE (R240, R241, R246): 544 received symbols; `start` where frame lock puts the start of a frame. In ALIGN and VERIFY a codeword is counted (R258) and none of its cells is kept: what they say comes as ALIGN_LOCK and VERIFY_REPORT. -/
def codeword (p : Nat) (start : Bool) (syms : List Nat) (s : State) : State :=
  let st := portState p s
  if !decide (2 ≤ st ∧ st ≤ 6) then s else
  let locking := st == 3 || st == 4
  let x := port p s
  let s := bump ULP_CW_count p 1 s
  let (mask, scr) := scramble 5140 (if start then scrStart else x.scr)
  let idx := if start then 0 else x.cwIdx + 1
  let x := { x with scr := scr, cwIdx := idx }
  match rsDecode (syms.map (· % 1024)) with
  | none =>
    let s := bump ULP_CW_UNCORR_count p 1 s
    if st != 6 then setPort p { x with mpart := 0, mpartBits := 0 } s
    else if start || x.accept then flowDue p (setPort p { x with accept := false, replay := true } s)
    else setPort p x s
  | some (msg, n) =>
    let s := if n = 0 then s else bump ULP_SYM_CORR_count p n (bump ULP_CW_CORR_count p 1 s)
    let v := symsToNat msg ^^^ mask
    if locking then setPort p { x with mpart := 0, mpartBits := 0 } s
    else if st != 6 then
      let x := if start then { x with mpart := 0, mpartBits := 0 } else x
      -- after a codeword that is lost, the cell that begins in it is lost too
      let want := 5140 * idx % 128
      let skip := (128 - want) % 128
      let (u, n) := if x.mpartBits = want then (x.mpart + v * 2 ^ want, 5140 + want) else (v / 2 ^ skip, 5140 - skip)
      let ((r, m), s) := measureBits p 50 u n start (setPort p x s)
      modPort p (fun x => { x with mpart := r, mpartBits := m }) s
    else
      let num := v % 65536
      let behind := (x.need + 65536 - num) % 65536
      let x := if start then
          (if num = x.need then { x with accept := true, replay := false }
           else { x with accept := false, replay := x.replay || decide (behind > 8) })
        else x
      if !x.accept || decide (idx < x.done) || decide (idx > 255) then flowDue p (setPort p x s)
      else
        let ((r, m), s) := commitBits p 50 (x.part + v * 2 ^ x.partBits) (5140 + x.partBits) (start && x.done == 0) (setPort p x s)
        let s := if portState p s != 6 then s
          else if idx = 255 then modPort p (fun x => { x with part := 0, partBits := 0, done := 0, need := (x.need + 1) % 65536, accept := false }) s
          else modPort p (fun x => { x with part := r, partBits := m, done := idx + 1 }) s
        fcUpdate p s

/-- A cell that carries a link field: a frame cell or a FLOW cell (R243). -/
def RxCell.fielded (c : RxCell) : Bool := c.kind == .frame || (c.kind == .ctl && c.c.toNat % 256 == 0xF0)

/-- The first committed control cell of this type, wherever packets stand that wait in the receive buffer, and the cells without it. -/
def headCell (p typ : Nat) (s : State) : Option (Nat × List RxCell) :=
  (takeFirst (fun c : RxCell => c.kind == .ctl && c.c.toNat % 256 == typ) (port p s).cells).map fun r => (r.1.c.toNat, r.2)

/-- The first committed cell with a link field, where it is of kind `k`: link fields are taken in the order they came. -/
def headField (p : Nat) (k : RxKind) (s : State) : Option (Nat × List RxCell) :=
  match takeFirst RxCell.fielded (port p s).cells with
  | some (c, l) => if c.kind == k then some (c.c.toNat, l) else none
  | none => none

def setCellq (p : Nat) (l : List RxCell) (s : State) : State := modPort p (fun x => { x with cells := l }) s

/-- A go-back (R246). -/
def goBack (p from_ : Nat) (s : State) : State :=
  let x := port p s
  if x.frames.isEmpty then s else bump ULP_REPLAYS_count p 1 (setPort p { x with resend := some from_ } s)

/-- A link field is taken as the newest (R243, R246, R254). One without a request leaves the 2 µs running in which a repeated request is not acted on. -/
def linkTake (p f : Nat) (s : State) : State :=
  let x := port p s
  let ack := bits f 0 16
  let frames := x.frames.dropWhile fun fr => decide ((ack + 65536 - fr.num) % 65536 < 32768)
  let gen := bit f 24
  let closed := bit f 23
  let limits := (List.range 6).foldl (fun m v => zset m v (bits f (25 + 12 * v) 12)) []
  let s := wr ULP_STATUS_peer_closed p (if closed then 1 else 0) (wr ULP_STATUS_peer_on p (bits f 17 6) s)
  let x := { x with frames := frames, limits := limits }
  let s := if gen == x.txGen then setPort p x s else
    cellNow p (BitVec.ofNat 128 (0xF1 + (if gen then 2 ^ 8 else 0) + (if closed then 2 ^ 9 else 0)))
      (setPort p { x with txGen := gen, txClosed := closed, sent := if closed then [] else x.sent } s)
  let x := port p s
  if !bit f 16 then setPort p { x with replayAck := if x.holdoff then x.replayAck else none, again := false } s
  else if x.replayAck == some ack && x.holdoff then setPort p { x with again := true } s
  else goBack p ((ack + 1) % 65536) (setPort p { x with replayAck := some ack, holdoff := true, again := false } s)

/-- FRAME_CELL. -/
def frameCell (p : Nat) (s : State) : State :=
  match headField p .frame s with
  | some (c, l) => linkTake p (c / 2 ^ 16) (setCellq p l s)
  | none => s

/-- FLOW. -/
def flowCell (p : Nat) (s : State) : State :=
  match headField p .ctl s with
  | some (c, l) => linkTake p (c / 2 ^ 16) (setCellq p l s)
  | none => s

/-- REPLAY_HOLDOFF_EXPIRY (R246): 2 µs after a go-back; a repeat that has come is acted on. -/
def replayHoldoff (p : Nat) (s : State) : State :=
  let x := port p s
  match x.replayAck with
  | none => s
  | some a =>
    if x.holdoff && x.again then goBack p ((a + 1) % 65536) (setPort p { x with again := false } s)
    else setPort p { x with holdoff := false } s

/-- MARK (R254): the receive side's mode change takes effect. -/
def markCell (p : Nat) (s : State) : State :=
  match headCell p 0xF1 s with
  | none => s
  | some (c, l) =>
    let s := setCellq p l s
    let x := port p s
    if !x.markSeen && bit c 8 == x.gen then fcUpdate p (setPort p { x with markSeen := true } s) else s

/-- PING (R251). -/
def pingCell (p : Nat) (s : State) : State :=
  match headCell p 0xF2 s with
  | none => s
  | some (c, l) => cellNow p (BitVec.ofNat 128 (0xF3 + bits c 8 16 * 2 ^ 8)) (setCellq p l s)

/-- ECHO_CELL (R251): a sample, and the end of MEASURE after the 64th. -/
def echoCell (p : Nat) (s : State) : State :=
  match headCell p 0xF3 s with
  | none => s
  | some (c, l) =>
    let s := setCellq p l s
    let x := port p s
    match portState p s, Map.get (fun _ => none) x.pingAt (bits c 8 16) with
    | 5, some t =>
      let rtt := min 65535 (((s.cycle - t) * 5 + 8) / 9)
      let s := wr ULP_RTT_rtt p (if x.echoes = 0 then rtt else max rtt (rd ULP_RTT_rtt p s))
        (wr ULP_RTT_rtt_min p (if x.echoes = 0 then rtt else min rtt (rd ULP_RTT_rtt_min p s)) s)
      let s := setPort p { x with echoes := x.echoes + 1, pingAt := Map.set (fun _ => none) x.pingAt (bits c 8 16) none } s
      if x.echoes + 1 = 64 then measureDone p s else s
    | _, _ => s

/-- TUNE (R252): kept for the next frame boundary. -/
def tuneCell (p : Nat) (s : State) : State :=
  match headCell p 0xF4 s with
  | none => s
  | some (c, l) => modPort p (fun x => { x with tapPend := x.tapPend ++ [(bits c 8 4, bits c 12 3, bits c 15 2)] }) (setCellq p l s)

/-- TUNE_DONE (R244). -/
def tuneDone (p : Nat) (s : State) : State :=
  match headCell p 0xF5 s with
  | none => s
  | some (_, l) => setCellq p l s

/-- TUNE_INTERVAL (R252): the receiver asks for one step of one tap, in TRAIN too (R249). -/
def tuneInterval (p lane tap action : Nat) (s : State) : State :=
  if !(portState p s == 2 || portState p s == 6 || portState p s == 7) || decide (tap > 4) then s else
  modPort p (fun x => { x with ctlq := x.ctlq ++ [.ctl (BitVec.ofNat 128 (0xF4 + lane % 16 * 2 ^ 8 + tap * 2 ^ 12 + action % 4 * 2 ^ 15))] }) s

/-! ### Low power (R256) -/

/-- The deepest state the season permits a port: none, SLUMBER (some false), OFF (some true). -/
def portDepth (s : State) : Option Bool :=
  match rd PWR_STATUS_season 0 s with
  | 2 => some false
  | 3 => some true
  | _ => none

/-- The conditions of a NAP request or answer, the season apart. -/
def napOk (p : Nat) (s : State) : Bool :=
  let x := port p s
  portState p s == 6 && !on ULP_CONTROL_keep_awake p s && x.idle && x.frames.isEmpty && x.outq.isEmpty

/-- A port leaves SLUMBER or OFF: an island that wakes (R406, R417), on the station clock (R404). -/
def portWake (p : Nat) (s : State) : State :=
  if !stationClock s then s else
  match portState p s with
  | 7 => bump PWR_WAKES_count 0 1 (portGo p 3 (modPort p (fun x => { x with waking := true, idle := false }) s))
  | 8 => bump PWR_WAKES_count 0 1 (portGo p 2 (modPort p (fun x => { x with waking := false, idle := false, taps := x.savedTaps }) (freshLink p s)))
  | _ => s

/-- Control cells that a port asleep still owes its peer: a MARK (R254), a TUNE, a TUNE_DONE. -/
def sleepKeeps : FItem → Bool
  | .ctl c => let t := c.toNat % 256; t == 0xF1 || t == 0xF4 || t == 0xF5
  | _ => false

/-- A season that permits a port the state it was to enter: SLUMBER, or OFF where `deep`. -/
def seasonAllows (deep : Bool) (s : State) : Bool :=
  match portDepth s with
  | none => false
  | some d => d || !deep

/-- A port enters SLUMBER or OFF, and wakes at once where a packet was queued after the answer, where the season has turned and no longer permits that state, or where it turned to a deeper one while the nap was agreed (R256, R407). -/
def portSleep (p : Nat) (deep : Bool) (s : State) : State :=
  let turned := (port p s).turned
  let s := modPort p (fun x => { x with nap := none, napEnter := none, turned := false, ctlq := x.ctlq.filter sleepKeeps, opened := false, wire := [], laneHeads := [],
                                        saved := x.saved || deep, savedTaps := if deep then x.taps else x.savedTaps }) s
  let s := portGo p (if deep then 8 else 7) s
  if (port p s).outq.isEmpty && seasonAllows deep s && !turned then s else portWake p s

/-- NAP: the answer, and on acceptance the state to enter once it is sent. -/
def napCell (p : Nat) (s : State) : State :=
  match headCell p 0xF6 s with
  | none => s
  | some (c, l) =>
    let s := setCellq p l s
    let ans := fun (deep acc : Bool) (s : State) =>
      modPort p (fun x => { x with ctlq := x.ctlq ++ [.ctl (BitVec.ofNat 128 (0xF7 + (if deep then 2 ^ 8 else 0) + (if acc then 2 ^ 9 else 0)))] }) s
    match portDepth s with
    | none => ans (bit c 8) false s
    | some d =>
      if napOk p s then
        modPort p (fun x => { x with napEnter := some (d && bit c 8), turned := x.turned && x.nap.isSome, nap := none }) (ans (d && bit c 8) true s)
      else ans (bit c 8) false s

/-- NAP_ACK. The sequencer that takes the port down runs on the station clock, and waits for it (R404). -/
def napAck (p : Nat) (s : State) : State :=
  match headCell p 0xF7 s with
  | none => s
  | some (c, l) =>
    if (port p s).nap.isSome && bit c 9 && !stationClock s then s else
    let s := setCellq p l s
    match (port p s).nap with
    | none => s
    | some d => if bit c 9 then portSleep p (d && bit c 8) s else modPort p (fun x => { x with nap := none, turned := false }) s

/-- NAP_IDLE_EXPIRY: the port has been idle for nap_idle µs, counted on the station clock (R404). -/
def napIdle (p : Nat) (s : State) : State :=
  if portState p s != 6 || !stationClock s then s else
  let s := modPort p (fun x => { x with idle := true }) s
  match portDepth s with
  | none => s
  | some d =>
    if napOk p s && (port p s).nap.isNone then
      modPort p (fun x => { x with nap := some d, turned := false, ctlq := x.ctlq ++ [.ctl (BitVec.ofNat 128 (0xF6 + (if d then 2 ^ 8 else 0)))] }) s
    else s

/-! ### The transmit side -/

/-- A pending TUNE is applied (R252). The spec gives no limit of a tap, so at_limit is a free value. -/
def applyTap (p : Nat) (t : Nat × Nat × Nat) (s : State) : State :=
  let (lane, tap, action) := t
  let (f, s) := takeFree s
  modPort p (fun x =>
    let k := 8 * lane + tap
    let v := Map.get (fun _ => (0 : Int)) x.taps k
    let v := match action with
      | 1 => v + 1
      | 2 => v - 1
      | 3 => 0
      | _ => v
    { x with taps := if tap ≤ 4 then Map.set (fun _ => (0 : Int)) x.taps k v else x.taps,
             ctlq := x.ctlq ++ [.ctl (BitVec.ofNat 128 (0xF5 + lane * 2 ^ 8 + f % 2 * 2 ^ 12))] }) (bump ULP_TUNES_count p 1 s)

/-- Up to `n` packets in order: those R254 admits, and link-local ones, which it does not bind (R319). The last may run into the next frame (R241, R242). -/
def pickPkts (p : Nat) : Nat → Nat → List QPkt → State → List QPkt × List QPkt × State
  | _, _, [], s => ([], [], s)
  | 0, _, l, s => ([], l, s)
  | n + 1, room, q :: l, s =>
    let c := pktCells q.pkt.payload.length
    if (linkLocal q.pkt.typ || admits p q.pkt.vc c s) && decide (1 ≤ room) then
      let s := if (port p s).txClosed && !linkLocal q.pkt.typ then
        modPort p (fun x => { x with sent := zset x.sent q.pkt.vc ((zget x.sent q.pkt.vc + c) % 4096) }) s else s
      let (a, b, s) := pickPkts p n (room - c) l s
      (q :: a, b, s)
    else
      let (a, b, s) := pickPkts p (n + 1) room l s
      (a, q :: b, s)

/-- A packet as it leaves: one more link crossed (R264), and the transmit stamp of a TIME packet (R313). -/
def asSent (q : Pkt) (s : State) : Pkt :=
  let q := { q with hops := q.hops + 1 }
  if q.typ != 0x59 then q else
  let o := if bit (recNat q.payload 24 1) 0 then 16 else 0
  { q with payload := q.payload.take o ++ leBytes (now s) 8 ++ q.payload.drop (o + 8) }

/-- Frame `f` goes out: the link field of the moment with it (R243, R246). `fresh` where it still takes cells. -/
def frameSent (p : Nat) (f : Frame) (fresh : Bool) (s : State) : State :=
  let s := bump ULP_TX_CELLS_count p 10280 s
  let s := wr ULP_STATUS_on p (port p s).onv s
  modPort p (fun x =>
    let r := spaced (x.quiet + 1 + f.lead.length) f.items
    { x with lastField := linkField p s, opened := fresh, laneHeads := [], wire := { f with items := r.1 }.cells (linkField p s),
             quiet := min 10343 (r.2 + (10279 - f.size)) }) s

/-- The cells of the training frame of logical lane `l`, which starts with cell `c`: the TUNE and TUNE_DONE cells that name the lane ride in it (R249, R252; DESIGN CHOICE, log entry 80). -/
def laneFrame (p l : Nat) (c : BitVec 128) (s : State) : List (BitVec 128) :=
  c :: ((port p s).wire.drop 1).filter fun w => bits w.toNat 8 4 == l

/-- The symbols that logical lane `l` of port `p` carries for codeword `k` of the frame now sent (R240, R241). In TRAIN each lane sends a frame of its own, whose codewords it carries whole (R249; DESIGN CHOICE, log entry 80). -/
def txSymbols (p l k : Nat) (s : State) : List Nat :=
  let x := port p s
  match x.laneHeads[l]? with
  | some c => (frameCodewords (laneFrame p l c s)).getD k []
  | none =>
    let n := if on ULP_STATUS_width8 p s then 8 else 16
    laneSymbols n (l % n) ((frameCodewords x.wire).getD k [])

/-- A new frame: the rest of the packet that runs over from the last one, control cells, and packets; none while a low-power state is being agreed (R256). -/
def newFrame (p n : Nat) (s : State) : State :=
  let x := port p s
  let (sent, rest, s) := if x.nap.isSome || x.napEnter.isSome then ([], x.outq, s)
    else pickPkts p n (10279 - x.carry.length - x.ctlq.length) x.outq s
  let items := x.ctlq ++ sent.map fun q => FItem.pkt (asSent q.pkt s)
  let f : Frame := { num := x.txNum, items := items, lead := x.carry, tail := x.carryPkt }
  let spill := (x.carry ++ items.flatMap (FItem.cells 0)).drop 10279
  let s := modPort p (fun x => { x with outq := rest, ctlq := [], resend := none, idle := x.idle && sent.isEmpty, frames := x.frames ++ [f],
                                        txNum := (x.txNum + 1) % 65536, carry := spill,
                                        carryPkt := if spill.isEmpty then none else (framePkts [f]).getLast? }) s
  let s := frameSent p f true s
  match (port p s).napEnter with
  | some d => if stationClock s then portSleep p d s else s
  | none => s

/-- A frame of bring-up (R249): training frames, one on each lane with its number and the good-lane mask, ALIGN's idle frame, VERIFY's with the report in its frame cell, or MEASURE's; ALIGN's and MEASURE's frame cells carry the link field (R243, R259). -/
def trainFrame (p st : Nat) (s : State) : State :=
  let x := port p s
  let now_ := x.ctlq.filter (trainCell st)
  let f : Frame := { num := x.txNum, items := now_ }
  let report := Config.reportCell (ownCoord s) (rd ULP_ROLE_role p s) (on ULP_ROLE_letter p s) x.good (on ULP_CONTROL_degrade_en p s)
  bump ULP_TX_CELLS_count p 10280 (setPort p { x with
    laneHeads := if st = 2 then (List.range 16).map fun l => Config.laneCell l x.good else [],
    ctlq := x.ctlq.filter fun i => !trainCell st i, pingAt := stampPings s.cycle now_ x.pingAt,
    wire := if st = 4 then [report] else f.cells (linkField p s), quiet := min 10343 (x.quiet + 10280) }
    (if st = 3 || st = 5 then wr ULP_STATUS_on p x.onv s else s))

/-- FRAME_BOUNDARY (R241, R246, R252, R257): a new frame starts; `n` packets at most are framed in it. -/
def frameBoundary (p n : Nat) (s : State) : State :=
  let st := portState p s
  let x := port p s
  if !decide (2 ≤ st ∧ st ≤ 6) then s
  else if st == 6 && x.retrainReq then retrainStart p s
  else
    let s := x.tapPend.foldl (fun s t => applyTap p t s) (setPort p { x with tapPend := [] } s)
    if st != 6 then trainFrame p st s
    else
      let x := port p s
      let next := fun (k : Nat) => if x.frames.any (fun f => f.num == (k + 1) % 65536) then some ((k + 1) % 65536) else none
      match x.resend.bind fun k => x.frames.find? fun f => f.num == k with
      | some f => frameSent p f false (setPort p { x with resend := next f.num } s)
      | none =>
        match x.frames with
        | f :: _ =>
          if x.frames.length ≥ 8 then frameSent p f false (bump ULP_REPLAYS_count p 1 (setPort p { x with resend := next f.num } s))
          else newFrame p n s
        | [] => newFrame p n s

/-! ### Packets received -/

/-- The next `n` packet cells after a first one, past frame and control cells: those, and the rest. -/
def takeBody : Nat → List RxCell → Option (List RxCell × List RxCell)
  | 0, l => some ([], l)
  | _ + 1, [] => none
  | n + 1, c :: l =>
    if c.kind == .body then (takeBody n l).map fun r => (c :: r.1, r.2) else (takeBody (n + 1) l).map fun r => (r.1, c :: r.2)

/-- A whole packet found in a stream of cells: its cells, and the cells before and after it. -/
structure RxFound where
  head : RxCell
  body : List RxCell
  before : List RxCell
  after : List RxCell
deriving DecidableEq, Repr

/-- The first whole packet whose header `f` selects. A packet may straddle frames (R241): frame and control cells among its own stay behind. -/
def rxFind (f : Nat → Bool) : List RxCell → Option RxFound
  | [] => none
  | c :: l =>
    if c.kind == .head && f c.c.toNat then
      (takeBody (pktCells (bits c.c.toNat 15 9) - 1) l).map fun r => { head := c, body := r.1, before := [], after := r.2 }
    else (rxFind f l).map fun r => { r with before := c :: r.before }

def RxFound.hdr (x : RxFound) : Nat := x.head.c.toNat
def RxFound.data (x : RxFound) : List Byte := x.body.flatMap fun c => leBytes c.c.toNat 16
def RxFound.rest (x : RxFound) : List RxCell := x.before ++ x.after

/-- A TIME packet, or a TAIL, that its header does not condemn. -/
def isLocal (typ h : Nat) : Bool := bits h 0 8 == typ && !badHeader h

/-- The first packet of a port that is no TIME packet: a TAIL before it keeps its place in the stream. -/
def headPacket (p : Nat) (s : State) : Option RxFound := rxFind (fun h => !isLocal 0x59 h) (port p s).cells

def popCells (p : Nat) (l : List RxCell) (s : State) : State := modPort p (fun x => { x with cells := l, idle := false }) s

/-- PACKET_RECEIVE (R242, R264): a packet to be routed joins the port's queue, or is discarded as malformed. What stands behind a TAIL that holds the port waits (R318), and nothing passes a TAIL still to be taken. -/
def packetReceive (p : Nat) (s : State) : State :=
  match headPacket p s with
  | none => s
  | some f =>
    let h := f.hdr
    let n := f.body.length + 1
    if isLocal 0x58 h || decide (f.head.wait ≠ 0) then s else
    let logs := on CUT_STATUS_log_open 0 s && (rd CUT_STATUS_tail_wait 0 s).testBit p
    if linkLocal (bits h 0 8) then event boxRTR 0x05 0 (h % 2 ^ 48) (popCells p f.rest s)
    else if badHeader h then dropPkt 0 (bits h 11 1) h (freeCells p (bits h 8 3) n f.head.held (popCells p f.rest s))
    else modPort p (fun x => { x with inq := x.inq ++ [{ pkt := pktOf h f.data, from_ := p, hdr := h, pre := f.head.pre, log := f.head.pre || f.head.log || logs, held := f.head.held }] })
      (popCells p f.rest s)

/-- The first link-local packet of type `typ` on port `p`: it is consumed as it arrives, past packets that wait in the receive buffer (R319). -/
def localPacket (p typ : Nat) (s : State) : Option RxFound := rxFind (isLocal typ) (port p s).cells

/-- A link-local packet queued for the peer of port `p`, ahead of every packet not yet being sent (R319). -/
def sendLocal (p : Nat) (q : Pkt) (s : State) : State :=
  let s := modPort p (fun x => { x with outq := { pkt := { q with vc := 4, hops := 0 }, from_ := 16 } :: x.outq }) s
  if portState p s == 7 || portState p s == 8 then portWake p s else s

end Sys2Proof.Machine
end

