-- ==== Sys2Proof/Machine/Router.lean ====
section
/-! DEFINITION. The router (R262 to R284): targets, productive ports, the escape route, discards, the caution aspect and the rate table, congestion maps, and the in-flight log of packets that leave (R323, R324). -/

namespace Sys2Proof.Machine

/-! ### The in-flight log (R323 to R325) -/

/-- A packet that leaves is written to the log, and the cut is quiet no more (R337); a log that would exceed its size damages the cut with reason 8. -/
def logPacket (source : Nat) (pre : Bool) (hdr : Nat) (payload : List Byte) (s : State) : State :=
  let c := s.cut
  let d := leBytes (source % 32 + (if pre then 2 ^ 5 else 0) + (payload.length % 512) * 2 ^ 6) 8 ++ leBytes c.logSeq 8 ++ leBytes hdr 16
    ++ payload ++ List.replicate ((16 - payload.length % 16) % 16) 0#8
  let size := bits (recNat c.snap 0x10 8) 0 48
  let a := bits (recNat c.snap 8 8) 0 48 + c.logLen
  if c.logLen + d.length > size then cutDamage 8 s
  else if !mapped a d.length s || anyDown a d.length s then cutDamage 11 s
  else
    bump CUT_LOG_ENTRIES_count 0 1 (bump CUT_LOG_BYTES_count 0 d.length (wr CUT_STATUS_quiet 0 0
      (putBytes 6 a d { s with cut := { c with logLen := c.logLen + d.length, logSeq := c.logSeq + 1 } })))

/-- A queued packet leaves this module's receive side. -/
def leaveLog (q : QPkt) (s : State) : State :=
  if on CUT_STATUS_log_open 0 s && (q.pre || q.log) then logPacket q.from_ q.pre q.hdr q.pkt.payload s else s

/-- Packets queued anywhere in the router that the log still waits for. -/
def logHolds (s : State) : Bool :=
  s.injq.any (fun q => q.pre || q.log) ||
  s.ports.any fun e => e.2.inq.any (fun q => q.pre || q.log) || e.2.cells.any (fun c => c.pre || c.log)

/-- The log closes (R325) once every TAIL is in and every packet it takes has left. -/
def logClose (s : State) : State :=
  if on CUT_STATUS_log_open 0 s && rd CUT_STATUS_tail_wait 0 s == 0 && !logHolds s then
    wr CUT_STATUS_log_open 0 0 s
  else s

/-! ### Coordinates and timetables (R262, R267 to R273) -/

def cx (c : Nat) : Nat := c % 64
def cy (c : Nat) : Nat := c / 64 % 64
def cz (c : Nat) : Nat := c / 4096 % 32
def ct (c : Nat) : Nat := c / 2 ^ 17 % 2

/-- Hops along X with the express ports. -/
def hx (d : Nat) : Nat := min (min d (64 - d)) (1 + (if d ≥ 32 then d - 32 else 32 - d))

/-- Roles productive for target `g` from `c` (R269). -/
def productive (c g : Nat) : List Nat :=
  let dx := (cx g + 64 - cx c) % 64
  let dy := (cy g + 64 - cy c) % 64
  let dz := (cz g + 32 - cz c) % 32
  (if dx = 0 then [] else
    (if hx ((dx + 63) % 64) < hx dx then [1] else []) ++ (if hx ((dx + 1) % 64) < hx dx then [2] else [])
    ++ (if hx ((dx + 32) % 64) < hx dx then [8, 9] else []))
  ++ (if 1 ≤ dy ∧ dy ≤ 32 then [3] else []) ++ (if dy ≥ 32 then [4] else [])
  ++ (if 1 ≤ dz ∧ dz ≤ 16 then [5] else []) ++ (if dz ≥ 16 then [6] else [])
  ++ (if ct g ≠ ct c then [7] else [])

/-- Role of the escape port (R271) for the datelines `dl` of x, y and z. -/
def escapeRole (c g : Nat) (dl : Nat × Nat × Nat) : Nat :=
  let side := fun (a b n d up dn : Nat) => if (b + 2 * n - d - 1) % n > (a + 2 * n - d - 1) % n then up else dn
  if cx g ≠ cx c then side (cx c) (cx g) 64 dl.1 1 2
  else if cy g ≠ cy c then side (cy c) (cy g) 64 dl.2.1 3 4
  else if cz g ≠ cz c then side (cz c) (cz g) 32 dl.2.2 5 6
  else 7

/-- The target of a packet (R267). -/
def targetOf (tt dst : Nat) (s : State) : Nat :=
  match (List.range 64).find? fun k => on RTR_TT_REDIR_valid (RTR_TT_REDIR.ix tt k) s && rd RTR_TT_REDIR_from (RTR_TT_REDIR.ix tt k) s == dst with
  | some k => rd RTR_TT_REDIR_to (RTR_TT_REDIR.ix tt k) s
  | none => dst

/-- Ports of the given roles that are unmasked in timetable `tt`, in any state. -/
def portsOf (tt : Nat) (roles : List Nat) (s : State) : List Nat :=
  (List.range 16).filter fun p => roles.contains (rd ULP_ROLE_role p s) && (rd RTR_TT_CTL_port_mask tt s).testBit p

def activeOnly (l : List Nat) (s : State) : List Nat := l.filter fun p => portState p s == 6

/-- The admitting port with the fewest cells queued, ties by the rotating pointer (R270). -/
def bestPort (l : List Nat) (v n : Nat) (s : State) : Option Nat :=
  let ok := l.filter fun p => admits p v n s
  ok.foldl (fun b p => match b with
    | none => some p
    | some q =>
      let kp := outCells p s
      let kq := outCells q s
      let rot := fun (x : Nat) => (x + 16 - s.router.ptr) % 16
      if kp < kq || (kp == kq && rot p < rot q) then some p else b) none

/-! ### Queues -/

/-- Queue `q` of the router: 0 to 15 the ports, 16 the injection queue. -/
def rqueue (q : Nat) (s : State) : List QPkt := if q < 16 then (port q s).inq else s.injq

def setRqueue (q : Nat) (l : List QPkt) (s : State) : State := if q < 16 then modPort q (fun x => { x with inq := l }) s else { s with injq := l }

/-- The head of VC `v` in queue `q`, taken; the cells it held are freed. -/
def takeHead (q v : Nat) (s : State) : Option (QPkt × State) :=
  match takeFirst (fun e : QPkt => e.pkt.vc == v) (rqueue q s) with
  | none => none
  | some (e, l) =>
    let s := setRqueue q l s
    some (e, if q < 16 then freeCells q e.pkt.vc (pktCells e.pkt.payload.length) e.held s else s)

/-! ### Rates and echoes (R277 to R279) -/

/-- 398.35 GB/s is 398.35 bytes per ns; credit counts 1/25,600 byte, so rate r earns 39,835 r per ns. -/
def Rate.creditAt (e : Rate) (t : Nat) : Nat := min (4096 * 25600) (e.credit + e.r * 39835 * (t - e.at_))

/-- An injected packet of VC0, VC2 or VC3 must wait for its destination's rate (R279). -/
def paced (q : QPkt) (s : State) : Bool :=
  (q.from_ == 16 && (q.pkt.vc == 0 || q.pkt.vc == 2 || q.pkt.vc == 3)) &&
  s.router.rates.any fun e => e.dst == q.pkt.dst && decide (e.creditAt (now s) < pktCells q.pkt.payload.length * 16 * 25600)

/-- A paced packet leaves. -/
def spendRate (q : QPkt) (s : State) : State :=
  if !(q.from_ == 16 && (q.pkt.vc == 0 || q.pkt.vc == 2 || q.pkt.vc == 3)) then s else
  let t := now s
  let n := pktCells q.pkt.payload.length * 16 * 25600
  { s with router := { s.router with rates := s.router.rates.map fun e => if e.dst == q.pkt.dst then { e with credit := e.creditAt t - n, at_ := t } else e } }

/-- An aspect echo from `d` (R279). -/
def rateEcho (d : Nat) (s : State) : State :=
  let s := bump RTR_ECHO_RCVD_count 0 1 s
  let t := now s
  let dec := rd RTR_RATE_CONFIG_dec 0 s
  let cut := fun (r : Nat) => max (r - (r * dec + 15) / 16) (rd RTR_RATE_CONFIG_r_min 0 s)
  let l := s.router.rates
  let put := fun (l : List Rate) (s : State) => { s with router := { s.router with rates := l } }
  if l.any fun e => e.dst == d then
    put (l.map fun e =>
      if e.dst == d && decide (t ≥ e.dec + 1000 * rd RTR_RATE_CONFIG_hold_us 0 s) then { e with r := cut e.r, dec := t, credit := e.creditAt t, at_ := t } else e) s
  else
    let e : Rate := { dst := d, r := cut 256, dec := t, credit := 4096 * 25600, at_ := t }
    if l.length < 512 then put (l ++ [e]) s
    else
      let top := l.foldl (fun a e => max a e.r) 0
      match takeFirst (fun e : Rate => e.r == top) l with
      | some (_, l) => bump RTR_RATE_EVICT_count 0 1 (put (l ++ [e]) s)
      | none => s

/-- RATE_RECOVERY (R279): rec_us without an echo from `d`. -/
def rateRecovery (d : Nat) (s : State) : State :=
  let t := now s
  let l := s.router.rates.filterMap fun e =>
    if e.dst != d then some e else
    let r := min (e.r + rd RTR_RATE_CONFIG_inc 0 s) 256
    if r = 256 then none else some { e with r := r, credit := e.creditAt t, at_ := t }
  { s with router := { s.router with rates := l } }

/-- An ECHO packet to source `d`, at most one in each echo_gap_us (R278). -/
def sendEcho (d : Nat) (s : State) : State :=
  let t := now s
  let l := s.router.echoed
  if l.any fun e => e.1 == d && decide (t < e.2 + 1000 * rd RTR_RATE_CONFIG_echo_gap_us 0 s) then s else
  let l := (d, t) :: (l.filter fun e => e.1 != d)
  let s := { s with router := { s.router with echoed := l.take 256 } }
  bump RTR_ECHO_SENT_count 0 1 (inject { typ := 0x53, vc := 4, tt := 0, dst := d, src := ownCoord s } s)

/-- The congestion record of the moment. -/
def mapRecord (s : State) : List Byte :=
  let r := s.router
  leBytes (ownCoord s + 2 ^ 24) 8 ++ leBytes (now s) 8 ++ leBytes r.samples 8 ++ List.replicate 104 0#8
  ++ (List.range 16).flatMap (fun p => leBytes (Map.get (fun _ => 0) r.marks p) 8)
  ++ (List.range 768).flatMap (fun k => leBytes (Map.get (fun _ => 0) r.bins k) 4)

/-- The counts restart. -/
def mapClear (s : State) : State := { s with router := { s.router with samples := 0, bins := [], marks := [] } }

/-! ### Routing (R267 to R272) -/

/-- A packet forwarded by port `p` on VC `v`. -/
def forward (q : QPkt) (p v : Nat) (s : State) : State :=
  let markable := q.pkt.vc == 0 || q.pkt.vc == 2 || q.pkt.vc == 3
  let cau := rd RTR_CONTROL_caution_cells 0 s
  let mark := markable && cau != 0 && (decide (outCells p s > cau) || on ULP_STATUS_peer_closed p s)
  let s := if mark then
      bump RTR_CAUTION_SET_count 0 1 { s with router := { s.router with marks := Map.set (fun _ => 0) s.router.marks p (Map.get (fun _ => 0) s.router.marks p + 1) } }
    else s
  let s := if v = 5 && q.pkt.vc ≠ 5 then bump RTR_ESCAPES_count 0 1 s else s
  let s := leaveLog q s
  let s := spendRate q { s with router := { s.router with ptr := (p + 1) % 16 } }
  logClose (modPort p (fun x => { x with outq := x.outq ++ [{ q with pkt := { q.pkt with vc := v, ca := q.pkt.ca || mark }, pre := false, log := false, held := false }], idle := false }) s)

/-- What ejection does of itself: a MAPREQ latches the record it is answered with (R281). -/
def ejectLatch (q : QPkt) (s : State) : State :=
  if q.pkt.typ != 0x52 then s else
  let s := { s with router := { s.router with maps := s.router.maps ++ [mapRecord s] } }
  if bit (recNat q.pkt.payload 0 1) 0 then mapClear s else s

/-- A packet ejected here (R267, R276); one ejected before a cut point took it back is counted and echoed already (R278). This module sends no MAPREQ, so a MAPDATA answers no request of its own (R450). -/
def eject (q : QPkt) (s : State) : State :=
  let s := ejectLatch q (leaveLog q (if q.counted then s else bump RTR_EJ_count q.pkt.tt 1 s))
  if q.pkt.typ = 0x84 then logClose (event boxRTR 0x05 5 (q.hdr % 2 ^ 48) s) else
  let s := { s with ejq := s.ejq ++ [{ q with pre := false, log := false, late := false, held := false }] }
  logClose (if q.pkt.ca && !q.counted && (q.pkt.typ == 0x30 || q.pkt.typ == 0x31) then sendEcho q.pkt.src s else s)

/-- Ports asleep that a waiting packet would use are woken (R256). -/
def wakeAsleep (l : List Nat) (s : State) : State :=
  l.foldl (fun s p => if portState p s == 7 || portState p s == 8 then portWake p s else s) s

/-- The T port a mirror packet of this module takes: T-a where address bit 12 is clear, unless it is not ACTIVE (R331, R332). -/
def mirrorPorts (q : QPkt) (l : List Nat) (s : State) : List Nat :=
  match Map.get (fun _ => none) s.tags q.pkt.tag with
  | some { who := .mirror _ _ x, .. } =>
    if q.from_ != 16 || q.pkt.typ != 0x40 then l else
    let want := l.filter fun p => (rd ULP_ROLE_letter p s != 0) == bit x 12
    if want.isEmpty then l else want
  | _ => l

/-- PACKET_ROUTE: the head of VC `v` in queue `q`. -/
def packetRoute (q v : Nat) (s : State) : State :=
  match takeHead q v s with
  | none => s
  | some (e, s') =>
    let tt := e.pkt.tt
    let drop := fun (detail : Nat) => logClose (if e.counted then event boxRTR 0x05 detail (e.hdr % 2 ^ 48) s' else dropPkt detail tt e.hdr s')
    if !on RTR_TT_CTL_valid tt s then drop 3 else
    let c := ownCoord s
    let g := targetOf tt e.pkt.dst s
    if g = c then
      if e.pkt.dst = c || (e.pkt.dst == twinOf c && on RTR_CONTROL_adopt 0 s) then eject e s'
      else logClose (if e.counted then s' else bump RTR_DROP_count tt 1 s')
    else if e.pkt.hops ≥ 255 then drop 2
    else if paced e s then s
    else
      let n := pktCells e.pkt.payload.length
      let escAll := portsOf tt [escapeRole c g (rd RTR_TT_CTL_dateline_x tt s, rd RTR_TT_CTL_dateline_y tt s, rd RTR_TT_CTL_dateline_z tt s)] s
      let esc := activeOnly escAll s
      if v = 1 || v = 5 then
        if esc.isEmpty then wakeAsleep escAll (drop 1) else
        match esc.find? fun p => admits p v n s with
        | some p => forward e p v s'
        | none => s
      else
        let all := portsOf tt (productive c g) s
        let ports := mirrorPorts e (activeOnly all s) s
        match bestPort ports v n s with
        | some p => forward e p v s'
        | none =>
          if !e.late then wakeAsleep (if ports.isEmpty then all ++ escAll else []) s
          else if esc.isEmpty then (if ports.isEmpty then wakeAsleep (all ++ escAll) (drop 1) else s)
          else match (mirrorPorts e esc s).find? fun p => admits p 5 n s with
            | some p => forward e p 5 s'
            | none => s

/-- The first packet of VC `v` in a list marked late. -/
def markLate (v : Nat) : List QPkt → List QPkt
  | [] => []
  | e :: l => if e.pkt.vc = v then { e with late := true } :: l else e :: markLate v l

/-- ESCAPE_WAIT_EXPIRY (R270): the head of VC `v` in queue `q` may take the escape port. -/
def escapeExpiry (q v : Nat) (s : State) : State :=
  if v = 1 || v = 5 then s else setRqueue q (markLate v (rqueue q s)) s

/-! ### Congestion maps (R280, R281) -/

def occBin (n : Nat) : Nat :=
  if n = 0 then 0 else if n < 64 then 1 else if n < 256 then 2 else if n < 1024 then 3 else if n < 4096 then 4 else if n < 8192 then 5
  else if n < 16384 then 6 else 7

/-- CONGESTION_SAMPLE: every station tick, while the station clock runs (R440). -/
def congestion (s : State) : State :=
  if !stationClock s then s else
  let ks := (List.range 96).map fun i =>
    let x := port (i / 6) s
    i * 8 + occBin (zget x.shared (i % 6) + zget x.resv (i % 6))
  { s with router := { s.router with samples := s.router.samples + 1,
                                     bins := ks.foldl (fun m k => Map.set (fun _ => 0) m k (min (2 ^ 32 - 1) (Map.get (fun _ => 0) m k + 1))) s.router.bins } }

/-- MAP_LATCH (R283). -/
def mapLatch (clear : Bool) (s : State) : State :=
  let s := { s with router := { s.router with map := mapRecord s } }
  if clear then mapClear s else s

/-! ### Ejected packets -/

/-- The first ejected packet of a type, taken. -/
def takeEj (typ : Nat) (s : State) : Option (QPkt × State) :=
  match takeFirst (fun e : QPkt => e.pkt.typ == typ) s.ejq with
  | none => none
  | some (e, l) => some (e, { s with ejq := l })

/-- A response to a request (R265): the request's tag, and the aspect echo where the request carried ca (R278). -/
def respond (e : Pkt) (typ status seg : Nat) (d : List Byte) (s : State) : State :=
  let s := if e.ca then bump RTR_ECHO_SENT_count 0 1 s else s
  inject { typ := typ, vc := 1, tt := 0, ae := e.ca, dst := e.src, src := ownCoord s, tag := e.tag, addr := status + seg * 256, payload := d } s

/-- The local address of a request: for the adopted partner, through the adopt entries (R334). -/
def localAddr (e : Pkt) (s : State) : Option Nat := if e.dst = ownCoord s then some e.addr else adoptAddr e.addr s

/-- The request lies within one 256-byte block of the destination's map (R264). -/
def oneBlock (a n : Nat) : Bool := n == 0 || a / 256 == (a + n - 1) / 256

/-- Source class of an ejected packet (R266). -/
def fabricClass (e : QPkt) (s : State) : Nat :=
  if e.pkt.typ = 0x40 ∧ e.from_ < 16 ∧ rd ULP_ROLE_role e.from_ s = 7 then 4 else 3

/-- MAPREQ (R281): the record its ejection latched is returned in 13 segments. -/
def mapReq (s : State) : State :=
  match takeEj 0x52 s with
  | none => s
  | some (e, s) =>
    let r := s.router.maps.headD []
    let s := { s with router := { s.router with maps := s.router.maps.drop 1 } }
    (List.range 13).foldl (fun s i => respond { e.pkt with ca := e.pkt.ca && i == 0 } 0x84 0 i ((r.drop (256 * i)).take 256) s) s

/-- ECHO. -/
def echoPacket (s : State) : State :=
  match takeEj 0x53 s with
  | none => s
  | some (e, s) => rateEcho e.pkt.src s

/-- RD (R265): the first read request of any size. -/
def rdPacket (s : State) : State :=
  match takeFirst (fun e : QPkt => decide (0x10 ≤ e.pkt.typ ∧ e.pkt.typ ≤ 0x18)) s.ejq with
  | none => s
  | some (e, l) =>
    let s := { s with ejq := l }
    let n := 2 ^ (e.pkt.typ - 0x10)
    match localAddr e.pkt s with
    | none => respond e.pkt 0x81 1 0 [] s
    | some a =>
      let (c, d, s) := memRead 3 fromFabric a n s
      respond e.pkt 0x81 c 0 d s

/-- An atomic request (R265). -/
def amoPacket (typ : Nat) (op : AmoOp) (s : State) : State :=
  match takeEj typ s with
  | none => s
  | some (e, s0) =>
    match localAddr e.pkt s0 with
    | none => respond e.pkt 0x81 1 0 [] s0
    | some a =>
      if e.pkt.payload.length != 16 then respond e.pkt 0x81 4 0 [] s0
      else if a % 8 != 0 then respond e.pkt 0x81 1 0 [] s0
      else if writeWaits [sectorOf a] s0 then s
      else
        let (c, v, s) := memAmo 3 fromFabric op a (BitVec.ofNat 64 (recNat e.pkt.payload 0 8)) s0
        respond e.pkt 0x81 c 0 (if c = 0 || c = 3 then leBytes v.toNat 8 else []) s

/-- The memory work of WR and MIR: its status. -/
def putPacket (e : QPkt) (s : State) : Nat × State :=
  match localAddr e.pkt s with
  | none => (1, s)
  | some a =>
    if !oneBlock a e.pkt.payload.length then (1, s) else
    match memWrite (fabricClass e s) fromFabric a e.pkt.payload s with
    | (0, s) => (0, if e.pkt.poison then poisonMarked a (List.replicate e.pkt.payload.length 0xFF#8) s else s)
    | r => r

/-- Whether the write of a packet must wait for a mirror. -/
def putWaits (e : QPkt) (s : State) : Bool :=
  match localAddr e.pkt s with
  | none => false
  | some a => writeWaits (rangeSectors a e.pkt.payload.length) s

/-- MIR (R331). -/
def mirPacket (s : State) : State :=
  match takeEj 0x40 s with
  | none => s
  | some (e, s0) =>
    if putWaits e s0 then s else
    let (c, s) := putPacket e s0
    respond e.pkt 0x82 c 0 [] s

end Sys2Proof.Machine
end

