-- ==== Sys2Proof/Machine/Collectives.lean ====
section
/-! DEFINITION. Collectives and remote accumulation (R285 to R311). A collective is held under its cid, or 256 + cid where it belongs to the adopted partner (R334); one that has completed here but whose results or reports for other members have not all left is held 512 or a multiple of it above. -/

namespace Sys2Proof.Machine

def setColl (k : Nat) (x : Coll) (s : State) : State := { s with colls := Map.set (fun _ => {}) s.colls k x }
def modColl (k : Nat) (f : Coll → Coll) (s : State) : State := setColl k (f (coll k s)) s

/-! ### The descriptor (R286) -/

def gCid (d : List Byte) : Nat := bits (recNat d 0 8) 0 8
def gEpoch (d : List Byte) : Bool := bit (recNat d 0 8) 10
def gM (d : List Byte) : Nat := bits (recNat d 0 8) 11 18 + 1
def gRank (d : List Byte) : Nat := bits (recNat d 0 8) 29 18
def gGate (d : List Byte) : Nat := bits (recNat d 0 8) 47 2
def gIrq (d : List Byte) : Bool := bit (recNat d 0 8) 49
def gSig (d : List Byte) : Bool := bit (recNat d 0 8) 50
def gTimeout (d : List Byte) : Nat := bits (recNat d 0 8) 51 13
def gTable (d : List Byte) : Nat := recNat d 8 8
def gN (d : List Byte) : Nat := bits (recNat d 0x10 8) 0 32
def gP (d : List Byte) : Nat := bits (recNat d 0x10 8) 32 32
def gSrc (d : List Byte) : Nat := recNat d 0x18 8
def gFloors (d : List Byte) : Nat := recNat d 0x20 8
def gAcc (d : List Byte) : Nat := recNat d 0x28 8
def gResult (d : List Byte) : Nat := recNat d 0x30 8
def gTensor (d : List Byte) : Nat := bits (recNat d 0x38 8) 32 32
def gSeed (d : List Byte) : Nat := recNat d 0x40 8
def gReport (d : List Byte) : Nat := recNat d 0x48 8
def gCensus (d : List Byte) : Nat := recNat d 0x50 8
def gSummary (d : List Byte) : Nat := recNat d 0x60 8
def gReplay (d : List Byte) : Nat := recNat d 0x68 8

/-- Blocks B. -/
def gB (d : List Byte) : Nat := (gN d + 255) / 256
/-- Elements of block `b`. -/
def gNb (d : List Byte) (b : Nat) : Nat := min 256 (gN d - 256 * b)
/-- 64-byte-rounded size. -/
def up64 (n : Nat) : Nat := (n + 63) / 64 * 64
/-- Effective gate mode: 0 skip, 1 history. -/
def gMode (d : List Byte) : Nat := if gGate d = 2 then (if gM d ≤ 1024 then 0 else 1) else gGate d
/-- Words of owned blocks of a rank, whole blocks counted in full. -/
def gOwned (d : List Byte) (r : Nat) : Nat := min (256 * gP d) (gN d - 256 * gP d * r)
/-- Word address of local index `k`, and tag address (R295). -/
def accWord (d : List Byte) (k : Nat) : Nat := gAcc d + k / 56 * 4096 + k % 56 * 72
def accTag (d : List Byte) (k : Nat) : Nat := gAcc d + (256 * gP d + 55) / 56 * 4096 + k
/-- Report slots: one per block, M for kind 2. -/
def gSlots (d : List Byte) : Nat := if gKind d = 2 then gM d else if gKind d = 3 then 1 else gB d
/-- Bytes of a converted element in eighths. -/
def gBits (d : List Byte) : Nat := if ctlFmt (gConv d) = 8 then 576 else fmtBits (ctlFmt (gConv d))
/-- Bytes of the result area on one member. -/
def gResLen (d : List Byte) : Nat :=
  match gKind d with
  | 2 => gM d * gN d
  | 3 => 64
  | _ => if ctlFmt (gConv d) = 8 then up64 (72 * gN d) + gN d else (gN d * gBits d + 7) / 8

/-- The regions a collective reads or writes (R287). -/
def gRegions (d : List Byte) : List (Nat × Nat) :=
  let c := gConv d
  let k01 := gKind d < 2
  [(gTable d, 4 * gM d), (gResult d, gResLen d), (gSummary d, 8)]
  ++ (if k01 then [(gSrc d, up64 (72 * gN d) + gN d), (gFloors d, 8 * gB d), (gReport d, 8 * gB d + 4 + 4 * gB d)]
      else if gKind d = 2 then [(gSrc d, gN d), (gReport d, 8 * gM d)]
      else [(gSrc d, 32 * gN d), (gReport d, 32 * gM d)])
  ++ (if k01 && gOwned d (gRank d) != 0 then [(gAcc d, accTag d (gOwned d (gRank d)) - gAcc d)] else [])
  ++ (if k01 && ctlCensus c then [(gCensus d, 704)] else []) ++ (if k01 && ctlTscale c then [(gHist d, 64)] else [])

/-- The field rules of R286 and R287 that read no memory. -/
def gLegal (d : List Byte) : Bool :=
  let c := gConv d
  let k01 := gKind d < 2
  let hi := [0x08, 0x18, 0x20, 0x28, 0x30, 0x48, 0x50, 0x58, 0x60, 0x68].all fun o => bits (recNat d o 8) 48 16 == 0
  hi && bits (recNat d 0x38 8) 16 16 == 0 && recNat d 0x70 8 == 0 && recNat d 0x78 8 == 0
  && gGate d != 3 && decide (gRank d < gM d) && gN d != 0 && (gKind d != 3 || decide (gM d ≤ 64)) && (gKind d != 2 || gN d % 256 == 0)
  && gP d != 0 && decide ((gB d + gP d - 1) / gP d ≤ gM d) && ctlLegal c && !fmtBlock (ctlFmt c) && !(ctlTscale c && gGate d != 0 && !ctlSat c)
  && (!k01 || (gAcc d % 4096 == 0 && (!ctlCensus c || gCensus d % 64 == 0) && (!ctlTscale c || gHist d % 64 == 0)))

/-- The coordinate collective `k` sends from (R334). -/
def collCoord (k : Nat) (s : State) : Nat := if k % 512 < 256 then ownCoord s else twinOf (ownCoord s)

/-- A completion status met. Where a collective meets several, the largest stands, so that the order in which packets arrive does not show in its summary word (R14, R15; which one it is is DESIGN CHOICE, log entry 93). -/
def collCode (k c : Nat) (s : State) : State := modColl k (fun x => { x with code := max x.code c }) s

/-- A read of the module's own that returns whether it is uncorrectable, with a port that is down counted so. -/
def collRead (k a n : Nat) (s : State) : List Byte × Bool × State :=
  let a := la k a s
  if !mapped a n s then (List.replicate n 0#8, true, s) else
  let down := anyDown a n s
  let (d, bad, s) := rawRead 6 a n s
  (d, bad || down, s)

/-- A write of the module's own; a place that is not mapped takes nothing, and one whose unit answers memory-error gives the completion that status (R356). -/
def collWrite (k a : Nat) (d : List Byte) (s : State) : State :=
  let a := la k a s
  if !mapped a d.length s then s else if anyDown a d.length s then collCode k 3 s else putBytes 6 a d s

/-- The member table read for rank `r`: the rank's coordinate. -/
def memberRead (k : Nat) (d : List Byte) (r : Nat) (s : State) : Nat × State :=
  let (t, bad, s) := collRead k (gTable d + 4 * r) 4 s
  (ofLe t % 2 ^ 18, if bad then collCode k 3 s else s)

/-- Coordinate of a rank. -/
def memberOf (k : Nat) (d : List Byte) (r : Nat) (s : State) : Nat := (memberRead k d r s).1

/-- The checks of R287 before anything is sent: completion status (0 accepted). -/
def collCheck (k : Nat) (d : List Byte) (s : State) : Nat × State :=
  if !gLegal d then (1, s)
  else if !(gRegions d).all fun r => mapped (la k r.1 s) r.2 s then (1, s)
  else if decide (gKind d < 2) && !(whereOf (la k (gAcc d) s) s == .gddr && (gOwned d (gRank d) == 0 || whereOf (la k (accTag d (gOwned d (gRank d)) - 1) s) s == .gddr)) then (1, s)
  else
    let (t, bad1, s) := collRead k (gTable d) (4 * gM d) s
    let (f, bad2, s) := if gKind d < 2 then collRead k (gFloors d) (8 * gB d) s else ([], false, s)
    let (h, bad3, s) := if gKind d < 2 && ctlTscale (gConv d) then collRead k (gHist d) 64 s else ([], false, s)
    let wrongMember := (List.range (gM d)).any fun r => r != gRank d && bits (recNat t (4 * r) 4) 0 18 == collCoord k s
    let badFloor := decide (gKind d < 2) && (List.range (gB d)).any fun b => !FloorEnt.legal (recNat f (8 * b) 8)
    if (wrongMember && !bad1) || (badFloor && !bad2) || (!bad3 && h != [] && !histLegal h) then (1, s)
    else if bad1 || bad2 || bad3 then (3, s) else (0, s)

/-! ### Binding (R288) -/

/-- Floor-table entry of block `b`, as the module last wrote it for this collective or as memory holds it. -/
def floorEnt (k : Nat) (d : List Byte) (b : Nat) (s : State) : FloorEnt :=
  (Map.get (fun _ => none) (coll k s).ents b).getD (ofLe (cells (la k (gFloors d + 8 * b) s) 8 s))

/-- The entry of block `b` becomes `v`: a partial write (R191), checked by protection as the training work a collective belongs to (R200, R447; its class DESIGN CHOICE, log entry 75). One that is refused, or that meets an uncorrectable or poisoned sector, gives the completion its status; the collective goes on by the entry it has. -/
def setFloorEnt (k : Nat) (d : List Byte) (b v : Nat) (s : State) : State :=
  let s := modColl k (fun x => { x with ents := Map.set (fun _ => none) x.ents b (some v) }) s
  let a := la k (gFloors d + 8 * b) s
  if !mapped a 8 s then s
  else if !protOk 0 a 8 true true s then collCode k 2 (protRefused 0 a true s)
  else if anyDown a 8 s then collCode k 3 s
  else (let s := if (rawRead 6 a 8 s).2.1 then collCode k 3 s else s; putBytes 6 a (leBytes v 8) s)

/-- The place of a collective that binds now in the order of binding. -/
def nextBound (s : State) : Nat := (s.colls.foldl (fun m e => max m e.2.bound) 0) + 1

/-- COLL accepted: the descriptor is bound, floors are chosen, and the accumulation area is zeroed. -/
def collBind (k addr : Nat) (cmd tile : Option Nat) (d : List Byte) (s : State) : State :=
  let s := setColl k { phase := 1, desc := d, addr := addr, cmd := cmd, tile := tile, bound := nextBound s } s
  if gKind d ≥ 2 then s else
  let s := (List.range (gB d)).foldl (fun s b => setFloorEnt k d b (chooseFloor (floorEnt k d b s)) s) s
  let own := gOwned d (gRank d)
  let s := (List.range own).foldl (fun s i => collWrite k (accWord d i) (List.replicate 72 0#8) s) s
  if own = 0 then s else collWrite k (accTag d 0) (List.replicate own 0#8) s

/-! ### Completion (R299, R304) -/

/-- The tags that wait for answers to collective `k` are abandoned (R450). -/
def abandonColl (k : Nat) (s : State) : State :=
  s.tags.foldl (fun s e => match e.2 with
    | some { who := .coll k' _ _, .. } => if k' = k then abandonTag e.1 s else s
    | _ => s) s

/-- The records the collective will update, read before any changes (R447): whether they may be, with the completion status of a failure; a history record that has become illegal since it was checked gives illegal-operand. These reads, and those of its source, are checked as class 0, the class of the training work a collective belongs to (DESIGN CHOICE, log entry 75); an error record shows them as the module's own work, source 6 (R198). -/
def recordsOk (k : Nat) (s : State) : Bool × State :=
  let d := (coll k s).desc
  let c := gConv d
  let code := fun (c : Nat) => if c = 1 then 3 else c
  let (b1, s) := if ctlCensus c then (let (c, _, s) := checkedRead 0 6 unwatched (la k (gCensus d) s) 704 true s; (code c, s)) else (0, s)
  let (b2, s) := if ctlTscale c then (let (c, h, s) := checkedRead 0 6 unwatched (la k (gHist d) s) 64 true s
                                      (if c = 0 then (if histLegal h then 0 else 1) else code c, s)) else (0, s)
  if b1 != 0 then (false, collCode k b1 s) else if b2 != 0 then (false, collCode k b2 s) else (true, s)

/-- The history step that collective `k` opened is over. -/
def closeStep (k : Nat) (s : State) : State :=
  let a := la k (gHist (coll k s).desc) s
  match histStep a s with
  | some h => if h.owner = some (collOwner k) then setHistStep a none s else s
  | none => s

/-- A free key for what a completed collective of key `k` has still to send. -/
def lingerKey (k : Nat) (s : State) : Nat :=
  ((List.range (s.colls.length + 1)).map fun j => k % 512 + 512 * (j + 1)).find? (fun i => (coll i s).phase == 0) |>.getD (k % 512 + 512)

/-- The cid is free (R299). Results and reports that have not all left for other members (R297, R307) go on leaving under a key of their own; otherwise, and where the collective was lost, its answers are waited for no longer. -/
def collFree (k : Nat) (lost : Bool) (s : State) : State :=
  let x := coll k s
  if lost || x.wq.isEmpty && x.due.isEmpty then abandonColl k (setColl k {} s) else
  let n := lingerKey k s
  let who := fun (r : Requester) => match r with
    | .coll k' b m => if k' = k then .coll n b m else r
    | r => r
  let s := setColl n { phase := 5, desc := x.desc, addr := x.addr, wq := x.wq, outst := x.outst, due := x.due } (setColl k {} s)
  { s with tags := s.tags.map fun e => (e.1, e.2.map fun u => { u with who := who u.who }), tagq := s.tagq.map fun q => { q with who := who q.who } }

/-- The scale byte that collective `k` chooses from its history record, and the record with it (R70). -/
def collChoose (k : Nat) (s : State) : Nat × State :=
  let d := (coll k s).desc
  let a := la k (gHist d) s
  let hd := cells a 64 s
  let c := chooseScale hd (ctlFmt (gConv d))
  (c, histScale 6 a c hd s)

/-- The append of a collective to its history record (R71). A member that converted no block chooses the scale now, so that the record is the same on every member (R301). -/
def collAppend (k : Nat) (s : State) : State :=
  let x := coll k s
  let a := la k (gHist x.desc) s
  let s := if x.scale.isNone then (collChoose k s).2 else s
  histAppend 6 a x.top x.zero (hasTag x.stat tOvf) x.stat (cells a 64 s) s

/-- The status byte of a collective that ends before it holds every final report. -/
def earlyStatus (d : List Byte) : Byte := Config.earlyStatus [gCid d, gKind d, if gEpoch d then 1 else 0, gM d, gN d, gP d, gConv d, gTensor d, gSeed d]

/-- COLLECTIVE_COMPLETION (R299): history, summary word, the cid freed, and the completion actions. `lost` completes under R303. Only a collective that holds every final report appends (R71): one that ends before has conversions of its tensor outstanding, and its status byte is a free value, which no order of arrival changes (DESIGN CHOICE, log entry 93). -/
def collFinish (k : Nat) (lost : Bool) (s : State) : State :=
  let d := (coll k s).desc
  let s := if gKind d < 2 && ctlTscale (gConv d) then
      closeStep k (if lost || (coll k s).finals != gB d then s else
        let (ok, s) := recordsOk k s
        if ok then collAppend k s else s)
    else s
  let x := coll k s
  let code := if lost then 4 else x.code
  let st := if gKind d < 2 && x.finals != gB d then earlyStatus d else x.stat
  let refuse := hasTag st (tNan ||| tPinf ||| tNinf) || (hasTag st tWov && hasTag st tOvf)
  let n := fun (b : Bool) => if b then 1 else 0
  let s := collWrite k (gSummary d) (leBytes (st.toNat + n refuse * 2 ^ 8 + n lost * 2 ^ 9 + gMode d * 2 ^ 10 + code * 2 ^ 12) 8) s
  let code := if lost then 4 else (coll k s).code
  let s := wr COL_CID_last_code (k % 256) code (wr COL_CID_code_valid (k % 256) 1 s)
  let s := if gKind d = 3 && !lost then bump COL_VOTES_count 0 1 s else s
  let s := collFree k lost s
  let s := if gIrq d then msix 242 s else s
  let s := match gSig d, x.tile with
    | true, some t => wrBit TIL_CS_EVT_val t 57 true s
    | _, _ => s
  match x.cmd with
  | some c => { s with notices := s.notices ++ [.collDone k c code] }
  | none => s

/-! ### Sending (R289 to R292, R297, R450) -/

/-- Result and ticket writes leave while tags are free; `n` bounds them. -/
def collFlush (k : Nat) : Nat → State → State
  | 0, s => s
  | n + 1, s =>
    let x := coll k s
    match x.wq with
    | [] => s
    | (b, m, a, dt) :: l =>
      if (freeTag s).isNone then s else
      let (dst, s) := memberRead k x.desc m (modColl k (fun x => { x with wq := l }) s)
      collFlush k n (requestAs (collCoord k s) (.coll k b m) { typ := 0x01, vc := 0, tt := 0, dst := dst, src := 0, addr := a, payload := dt } s)

/-- A run of bytes queued for member `m` as WR packets of block `b`. -/
def queueWr (k b m a : Nat) (dt : List Byte) (s : State) : State :=
  let ws := cutBytes a dt
  modColl k (fun x => { x with wq := x.wq ++ ws.map fun w => (b, m, w.1, w.2),
                               outst := zadd x.outst (2 ^ 20 * b + m) ws.length }) s

/-- A report packet or, for this member itself, a report to apply (R298). -/
def sendReport (k slot m rep : Nat) (s : State) : State :=
  let x := coll k s
  let d := x.desc
  if m = gRank d then setColl k { x with reports := x.reports ++ [(slot, rep, false)] } s else
  let tag := gCid d + bits rep 19 2 * 2 ^ 8 + (if gEpoch d then 2 ^ 10 else 0)
  let (dst, s) := memberRead k d m s
  inject { typ := 0x30, vc := 2, tt := 0, dst := dst, src := collCoord k s, tag := tag,
           addr := gReport d + 8 * slot, payload := leBytes (3 * 2 ^ 8) 8 ++ leBytes rep 8 } s

/-- A report that leaves once the writes of its block to that member are answered (R297). -/
def reportAfter (k b slot m rep : Nat) (s : State) : State :=
  if zget (coll k s).outst (2 ^ 20 * b + m) = 0 then sendReport k slot m rep s
  else modColl k (fun x => { x with due := x.due ++ [(2 ^ 20 * b + m, slot, rep)] }) s

/-- A completed collective that has nothing more to send is done with. -/
def lingerEnd (k : Nat) (s : State) : State :=
  let y := coll k s
  if y.phase = 5 && y.wq.isEmpty && y.due.isEmpty then abandonColl k (setColl k {} s) else s

/-- The answer to a write of a collective (R297, R299); what a completed one had to send is done with once all of it has left. -/
def collWrack (k b m : Nat) (s : State) : State :=
  let x := coll k s
  if x.phase = 0 then s else
  let key := 2 ^ 20 * b + m
  let x := { x with outst := zsub x.outst key 1 }
  let s := setColl k x s
  let s := if zget x.outst key = 0 then
      (let (go, rest) := x.due.partition fun e => e.1 == key
       go.foldl (fun s e => sendReport k e.2.1 m e.2.2 s) (setColl k { x with due := rest } s))
    else s
  lingerEnd k (collFlush k (coll k s).wq.length s)

/-! ### The Leroth adder (R294) -/

/-- One contribution added to local word `i` for class `cls`, a whole word or a window; a word or tag that cannot be read takes nan. The adder adds in the GDDR7 tier alone: an add to another place, which an adopted collective's area may lead to, is refused (R211). Only a whole word may be an out-of-range addend: a window is added exactly. -/
def lerothAdd (k cls i : Nat) (whole : Bool) (w : Int) (tag : Byte) (s : State) : State :=
  let d := (coll k s).desc
  let wa := la k (accWord d i) s
  let ta := la k (accTag d i) s
  let s := bump COL_CONTRIB_count 0 1 s
  if anyDown wa 72 s || anyDown ta 1 s then collCode k 3 s
  else if whereOf wa s != .gddr || whereOf ta s != .gddr then collCode k 1 s
  else
  let (wb, bad1, s) := rawRead cls wa 72 s
  let (tb, bad2, s) := rawRead cls ta 1 s
  let old := (BitVec.ofNat 576 (ofLe wb)).toInt
  let t0 := (tb.headD 0#8)
  let oor := whole && !inRange w
  let t := t0 ||| tag ||| (if oor then tOvf ||| (if w < 0 then tNinf else tPinf) else 0#8)
  if bad1 || bad2 then collCode k 3 (putBytes cls ta [t ||| tNan] s)
  else putBytes cls ta [t] (if oor then s else putBytes cls wa (leBytes (toWord (old + w)).toNat 72) s)

/-- Watchpoints of source 4 that an add from the fabric to local word `i` and its tag hits, as a read and a write (R428). -/
def accWatch (k i : Nat) (s : State) : State :=
  let d := (coll k s).desc
  let wa := la k (accWord d i) s
  let ws := wpHits 4 wa 72 true true s
  let ts := wpHits 4 (la k (accTag d i) s) 1 true true s
  wpApply (arriveBox boxRTR wa s) ((List.range 32).filter fun w => ws.contains w || ts.contains w) wa s

/-! ### Block completion (R297) -/

/-- The elements of an owned block as (word, tag, unreadable). -/
def blockEls (k b : Nat) (s : State) : List (Int × Byte) × State :=
  let d := (coll k s).desc
  (List.range (gNb d b)).foldl (fun (a : List (Int × Byte) × State) i =>
    let j := 256 * b + i - 256 * gP d * gRank d
    let (wb, bad1, s) := collRead k (accWord d j) 72 a.2
    let (tb, bad2, s) := collRead k (accTag d j) 1 s
    let t := tb.headD 0#8
    if bad1 || bad2 then (a.1 ++ [(0, t ||| tNan)], collCode k 3 s)
    else (a.1 ++ [((BitVec.ofNat 576 (ofLe wb)).toInt, t)], s)) ([], s)

def mkReport (status : Byte) (top : Nat) (zero : Bool) (replays : Nat) (final done : Bool) (floor : Nat) : Nat :=
  let n := fun (b : Bool) => if b then 1 else 0
  status.toNat + top % 1024 * 2 ^ 8 + n zero * 2 ^ 18 + replays % 4 * 2 ^ 19 + n final * 2 ^ 21 + n done * 2 ^ 22 + floor % 1024 * 2 ^ 32

/-- Members in order, this one last. -/
def othersFirst (d : List Byte) : List Nat := (List.range (gM d)).filter (· != gRank d) ++ [gRank d]

/-- A conversion of the collective must wait for the append of another step of its history record (R72). -/
def collHeld (k : Nat) (s : State) : Bool :=
  let x := coll k s
  ctlTscale (gConv x.desc) && x.scale.isNone && histBusy (la k (gHist x.desc) s) (collOwner k) x.desc s

/-- The tensor scale of a collective (R70), chosen once, at its first conversion on this module; a member that converts no block chooses as it appends. Where its records may not be read, or are illegal, its completion status says so (R447), and what it converts takes the scale of the history record's bytes as they lie (DESIGN CHOICE, log entry 93). -/
def collScale (k : Nat) (s : State) : Int × State :=
  let x := coll k s
  let d := x.desc
  if !ctlTscale (gConv d) then (0, s) else
  match x.scale with
  | some c => (scaleK c, s)
  | none =>
    let (ok, s) := recordsOk k s
    let (c, t) := collChoose k s
    let s := if ok then setHistStep (la k (gHist d) t) (some { owner := some (collOwner k), scale := c }) t else s
    (scaleK c, modColl k (fun x => { x with scale := some c }) s)

/-- The bytes of converted elements from element `e0` on, with their addresses in the result area. Where a 4-bit format has an odd number of elements, the high nibble of the last byte is written 0 (DESIGN CHOICE, log entry 73). -/
def resultParts (d : List Byte) (e0 : Nat) (encs : List Nat) (tags : List Byte) : List (Nat × List Byte) :=
  if ctlFmt (gConv d) = 8 then [(gResult d + 72 * e0, encs.flatMap fun e => leBytes e 72), (gResult d + up64 (72 * gN d) + e0, tags)]
  else [(gResult d + e0 * gBits d / 8, packEls (ctlFmt (gConv d)) encs)]

/-- BLOCK_COMPLETION (R297): a replay ordered, or the block converted and reported, once its tensor scale may be chosen (R72). wov here is what the window test of R39 finds of the final sums, as R43 has the replay decided: a tag contributed with wov orders no replay by itself, and adds no ovf (DESIGN CHOICE, log entry 86). -/
def blockDone (k b : Nat) (s : State) : State :=
  let d := (coll k s).desc
  let e := floorEnt k d b s
  let w := if e.wide then 64 else 32
  let rnd := zget (coll k s).rounds b
  let (els, s) := blockEls k b s
  let els := els.map fun x => if (placeWindow x.1 e.floor w).isNone then (x.1, x.2 ||| tWov, true) else (x.1, x.2, false)
  let wov := els.any fun x => x.2.2
  let nz := (els.filter fun x => x.1 != 0).map fun x => topBit x.1.natAbs
  let top := nz.foldl max 0
  let j0 := 256 * b - 256 * gP d * gRank d
  if wov && decide (rnd < 3) then
    let e' := raiseFloor (setBits e 42 2 rnd)
    let s := setFloorEnt k d b e' s
    let s := (List.range (gNb d b)).foldl (fun s i => collWrite k (accWord d (j0 + i)) (List.replicate 72 0#8) s) s
    let s := collWrite k (accTag d j0) (List.replicate (gNb d b) tRpl) s
    let s := modColl k (fun x => { x with counts := zset x.counts b 0, rounds := zset x.rounds b e'.replays }) s
    let rep := mkReport (els.foldl (fun a x => a ||| x.2.1) 0#8) top nz.isEmpty e'.replays false false e'.floor
    (othersFirst d).foldl (fun s m => sendReport k b m rep s) (bump COL_REPLAYS_count 0 (gM d) s)
  else if collHeld k s then modColl k (fun x => { x with hold := x.hold ++ [b] }) s
  else
    let c := gConv d
    let (sk, s) := collScale k s
    let conv := (List.range els.length).map fun i =>
      let x := els.getD i (0, 0#8, false)
      let draw := if ctlRM c == .sr then rng32 (gSeed d) (gTensor d) (256 * b + i) 1 else 0
      outEl c sk draw 0 0 64 0 x.1 (if x.2.2 then x.2.1 ||| tOvf else x.2.1)
    let status := conv.foldl (fun a x => a ||| x.tag) 0#8
    let parts := resultParts d (256 * b) (conv.map (·.enc)) (conv.map (·.tag))
    let s := parts.foldl (fun s p => collWrite k p.1 p.2 s) s
    let s := if gKind d = 1 then
        (List.range (gM d)).foldl (fun s m => if m = gRank d then s else parts.foldl (fun s p => queueWr k b m p.1 p.2 s) s) s
      else s
    let s := if ctlCensus c then
        (let (ok, s) := recordsOk k s
         if ok then censusAdd 6 (la k (gCensus d) s) (conv.foldl (fun q x => q.el x.w x.tag (ctlFmt c) x.enc) {}) (cells (la k (gCensus d) s) 704 s) s else s)
      else s
    let rep := mkReport status top nz.isEmpty rnd true false e.floor
    let s := collFlush k (coll k s).wq.length s
    (othersFirst d).foldl (fun s m => reportAfter k b b m rep s) s

/-- The collective holds every final report: it completes, once the step of its history record is the next to be appended (R72). -/
def collAll (k : Nat) (s : State) : State :=
  let x := coll k s
  if gKind x.desc < 2 && (x.phase == 2 || x.phase == 3) && x.finals == gB x.desc && !collHeld k s then collFinish k false s else s

/-- What of collective `k` waited for a history append, tried again (R72): its complete blocks, and its completion. -/
def collGo (k : Nat) (s : State) : State :=
  let x := coll k s
  collAll k (if x.hold.isEmpty then s else x.hold.foldl (fun s b => blockDone k b s) (setColl k { x with hold := [] } s))

/-- Elements counted toward a block; the block completes at M × n_b (R296). -/
def countEls (k b n : Nat) (s : State) : State :=
  let d := (coll k s).desc
  let s := modColl k (fun x => { x with counts := zadd x.counts b n }) s
  if zget (coll k s).counts b = gM d * gNb d b then blockDone k b s else s

/-! ### This member's contributions (R292) -/

/-- The source word and tag of element `e`; one that cannot be read is zero with nan. -/
def srcEl (k e : Nat) (s : State) : (Int × Byte) × State :=
  let d := (coll k s).desc
  let (c1, wb, s) := checkedRead 0 6 unwatched (la k (gSrc d + 72 * e) s) 72 false s
  let (c2, tb, s) := checkedRead 0 6 unwatched (la k (gSrc d + up64 (72 * gN d) + e) s) 1 false s
  if c1 != 0 || c2 != 0 then ((0, tNan), collCode k (if c1 = 2 ∨ c2 = 2 then 2 else 3) s) else (((BitVec.ofNat 576 (ofLe wb)).toInt, tb.headD 0#8), s)

/-- How an element travels: 0 zero run, 1 window, 2 whole. -/
def elClass (x : Int × Byte) (f w : Nat) : Nat := if x.1 = 0 ∧ x.2 = 0#8 then 0 else if (placeWindow x.1 f w).isSome then 1 else 2

/-- The longest run from the front that one packet carries: of class `c` and at most the items of R290. -/
def runLen (c w f : Nat) : Nat → Bool → List (Int × Byte) → Nat
  | _, _, [] => 0
  | n, tg, x :: l =>
    let tg' := tg || x.2 != 0#8
    let cap := if c = 0 then 256 else if c = 2 then 3 else if w = 32 then (if tg' then 48 else 62) else (if tg' then 27 else 31)
    if elClass x f w = c ∧ n < cap then 1 + runLen c w f (n + 1) tg' l else 0

def pad8 (l : List Byte) : List Byte := l ++ List.replicate ((8 - l.length % 8) % 8) 0#8

/-- The payload of a run (R289 to R291), and whether it is ACCW. -/
def runPayload (c w f : Nat) (xs : List (Int × Byte)) : Bool × List Byte :=
  let tg := xs.any fun x => x.2 != 0#8
  let h := fun (form : Nat) (t : Bool) => leBytes (xs.length - 1 + form * 2 ^ 8 + (if t then 2 ^ 10 else 0) + f * 2 ^ 11) 8
  if c = 0 then (false, h 2 false)
  else if c = 2 then (true, h 0 false ++ xs.flatMap (fun x => leBytes (toWord x.1).toNat 72) ++ pad8 (xs.map (·.2)))
  else (false, h (if w = 32 then 0 else 1) tg ++ (if tg then pad8 (xs.map (·.2)) else [])
    ++ xs.flatMap fun x => leBytes ((windowOf x.1 f w).getD 0) (w / 8))

/-- Contributions sent from element `e` of block `b`: how many elements they carry. -/
def sendRun (k b e : Nat) (first : Bool) (s : State) : Nat × State :=
  let d := (coll k s).desc
  let ent := floorEnt k d b s
  let w := if ent.wide then 64 else 32
  let f := ent.floor
  let fin := 256 * b + gNb d b
  let xs := (List.range (fin - e)).map fun i => (srcEl k (e + i) s).1
  match xs with
  | [] => (0, s)
  | x :: _ =>
    let c := elClass x f w
    let n := runLen c w f 0 false xs
    let run := xs.take n
    let s := (List.range n).foldl (fun s i => (srcEl k (e + i) s).2) s
    let o := b / gP d
    let i0 := e - 256 * gP d * o
    if o = gRank d then
      let s := (List.range n).foldl (fun s i => let x := run.getD i (0, 0#8); lerothAdd k 6 (i0 + i) (c == 2) x.1 x.2 s) s
      (n, countEls k b n s)
    else
      let (whole, pl) := runPayload c w f run
      let lastOf := min (gN d) (256 * gP d * (o + 1))
      let tag := gCid d + ent.replays * 2 ^ 8 + (if gEpoch d then 2 ^ 10 else 0) + (if first && e + n == lastOf then 2 ^ 11 else 0)
      let (dst, s) := memberRead k d o (if whole then bump COL_WIDEN_count 0 n s else s)
      (n, inject { typ := if whole then 0x31 else 0x30, vc := 2, tt := 0, dst := dst,
                   src := collCoord k s, tag := tag, addr := accWord d i0, payload := pl } s)

/-- Pieces of this member's bytes for one member, cut at 256-byte blocks of the result area (kind 2). -/
def gatherPieces (d : List Byte) : Nat := ((gResult d + gRank d * gN d) % 256 + gN d + 255) / 256

/-- Piece `j`: its address and length. -/
def gatherPiece (d : List Byte) (j : Nat) : Nat × Nat :=
  let a := gResult d + gRank d * gN d
  let lo := max a ((a / 256 + j) * 256)
  (lo, min (a + gN d) ((a / 256 + j + 1) * 256) - lo)

/-- The sectors of the words and tags of `n` owned elements from local index `j`. -/
def accSectors (k j n : Nat) (s : State) : List Nat :=
  let d := (coll k s).desc
  ((List.range n).flatMap fun i => rangeSectors (la k (accWord d (j + i)) s) 72) ++ rangeSectors (la k (accTag d j) s) n

/-- A contribution of this member to a block of its own waits where an add would write a mirrored sector whose station has no room (R331). -/
def ownWaits (k b : Nat) (s : State) : Bool :=
  let d := (coll k s).desc
  on CUT_CONTROL_mirror_en 0 s && b / gP d == gRank d && writeWaits (accSectors k (256 * b - 256 * gP d * gRank d) (gNb d b) s) s

/-- CONTRIBUTION_SEND: this member's next packet. A member's bytes of an all-gather go to the other members first, so that it has sent them all before it completes. -/
def contributionSend (k : Nat) (s : State) : State :=
  let x := coll k s
  let d := x.desc
  if !(x.phase == 2 || x.phase == 3) then s
  else if gKind d < 2 && ownWaits k (if x.next < gN d then x.next / 256 else x.resend.headD 0) s then s
  else if gKind d < 2 then
    if x.next < gN d then
      let (n, s) := sendRun k (x.next / 256) x.next true s
      modColl k (fun y => if y.phase = 0 then y else { y with next := x.next + n }) s
    else match x.resend with
      | [] => s
      | b :: _ =>
        let e := 256 * b + x.pos
        let (n, s) := sendRun k b e false s
        modColl k (fun y => if y.phase = 0 then y else
          if x.pos + n ≥ gNb d b then { y with resend := y.resend.drop 1, pos := 0 } else { y with pos := x.pos + n }) s
  else if gKind d = 2 then
    let per := gatherPieces d
    match (othersFirst d)[x.next / per]? with
    | none => s
    | some m =>
    let (a, n) := gatherPiece d (x.next % per)
    let (dt, bad, s1) := collRead k (gSrc d + (a - (gResult d + gRank d * gN d))) n s
    let s1 := if bad then collCode k 3 s1 else s1
    let final := x.next % per + 1 == per
    let rep := mkReport 0#8 0 true 0 true true 0
    let step := fun (s : State) => modColl k (fun y => { y with next := x.next + 1 }) s
    if m = gRank d then (let s := step (collWrite k a dt s1); if final then sendReport k (gRank d) m rep s else s)
    else if (freeTag s).isNone then s
    else
      let s := collFlush k 1 (queueWr k 0 m a dt (step s1))
      if final then reportAfter k 0 (gRank d) m rep s else s
  else s

/-! ### Tickets (R306, R307) -/

/-- The ticket of one list entry. -/
def ticketEntry (k : Nat) (e : List Byte) (s : State) : List Byte × Bool × State :=
  let a := bits (recNat e 0 8) 0 48
  let tid := recNat e 8 4
  let c0 := recNat e 16 4
  let n := recNat e 20 4
  let (ls, bad, s) := (List.range n).foldl (fun (q : List (List Byte) × Bool × State) i =>
    let (dt, b, s) := collRead k (a + 65536 * i) 65536 q.2.2
    (q.1 ++ [ticketLeaf tid (c0 + i) dt], q.2.1 || b, s)) ([], false, s)
  (ticketOf tid c0 n ls, bad, s)

/-- The value held by most, and by how many. -/
def majority (l : List (List Byte)) : List Byte × Nat :=
  l.foldl (fun a t => let n := (l.filter (· == t)).length; if n > a.2 then (t, n) else a) ([], 0)

/-- TICKET_VOTE_DECISION (R307), once rank 0 holds M tickets. -/
def voteDecide (k : Nat) (s : State) : State :=
  let x := coll k s
  let d := x.desc
  let ts := (List.range (gM d)).map fun r => Map.get (fun _ => []) x.tickets r
  if ts.any List.isEmpty then s else
  let (t, n) := majority ts
  let out := if n = gM d then 0 else if 2 * n > gM d then 1 else 2
  let expelled := (List.range (gM d)).filter fun r => out == 1 && ts.getD r [] != t
  let recd := leBytes (out + (if out = 2 then 0 else n % 256) * 2 ^ 8) 8 ++ leBytes (expelled.foldl (fun a r => a + 2 ^ r) 0) 8
    ++ (if out = 2 then List.replicate 32 0#8 else t) ++ leBytes (now s) 8 ++ List.replicate 8 0#8
  let s := bump COL_EXPELLED_count 0 expelled.length (collWrite k (gResult d) recd s)
  let s := (List.range (gM d)).foldl (fun s m => if m = 0 then s else queueWr k 0 m (gResult d) recd s) (setColl k { x with tickets := [], phase := 4 } s)
  let s := collFlush k (coll k s).wq.length s
  (othersFirst d).foldl (fun s m => reportAfter k 0 0 m (mkReport 0#8 0 true 0 true false 0) s) s

/-- A ticket of rank `r` counted at rank 0. -/
def ticketIn (k r : Nat) (t : List Byte) (s : State) : State :=
  voteDecide k (modColl k (fun x => { x with tickets := Map.set (fun _ => []) x.tickets r t }) s)

/-- LIST_TICKET_DONE: this member's list ticket is computed and written to rank 0. -/
def listTicketDone (k : Nat) (s : State) : State :=
  let x := coll k s
  let d := x.desc
  if x.phase != 2 || gKind d != 3 || x.next != 0 then s else
  let (ts, bad, s) := (List.range (gN d)).foldl (fun (q : List (List Byte) × Bool × State) i =>
    let (e, b0, s) := collRead k (gSrc d + 32 * i) 32 q.2.2
    let (t, b, s) := ticketEntry k e s
    (q.1 ++ [t], q.2.1 || b0 || b, s)) ([], false, s)
  let t := listTicket ts
  let s := modColl k (fun x => { x with next := 1 }) (if bad then collCode k 3 s else s)
  let a := gReport d + 32 * gRank d
  if gRank d = 0 then ticketIn k 0 t (collWrite k a t s) else collFlush k 2 (queueWr k 0 0 a t s)

/-- The bytes of slot `r` of the report area that a write of `n` bytes at `a` covers, as bits. -/
def slotBits (d : List Byte) (r a n : Nat) : Nat :=
  (List.range 32).foldl (fun m i => let x := gReport d + 32 * r + i; if a ≤ x ∧ x < a + n then m + 2 ^ i else m) 0

/-- Slot `r` of the vote of collective `k` gains bytes; once it has all 32, its ticket counts. Tickets that come while the cid is still zeroing count as they come. -/
def ticketPart (k r m : Nat) (s : State) : State :=
  let x := coll k s
  let g := zget x.got r ||| m
  let s := setColl k { x with got := zset x.got r g } s
  if m = 0 || g != 2 ^ 32 - 1 then s else
    let (t, bad, s) := collRead k (gReport x.desc + 32 * r) 32 s
    ticketIn k r t (if bad then collCode k 3 s else s)

/-- A WR that lands in the report area of a vote at rank 0 brings tickets, or parts of one that crosses a 256-byte block. -/
def ticketWr (ad : Bool) (a : Nat) (dt : List Byte) (s : State) : State :=
  match s.colls.find? fun e => e.1 / 256 == (if ad then 1 else 0) && gKind e.2.desc == 3 && gRank e.2.desc == 0 && (e.2.phase == 1 || e.2.phase == 2)
      && decide (a < gReport e.2.desc + 32 * gM e.2.desc) && decide (gReport e.2.desc < a + dt.length) with
  | some e => (List.range (gM e.2.desc)).foldl (fun s r => if (coll e.1 s).phase == 1 || (coll e.1 s).phase == 2 then ticketPart e.1 r (slotBits e.2.desc r a dt.length) s else s) s
  | none => s

/-! ### Packets (R289, R293, R302) -/

/-- Bytes a held packet takes. -/
def heldBytes (s : State) : Nat := s.heldq.foldl (fun a h => a + 16 * pktCells h.q.pkt.payload.length) 0

/-- A packet held until its cid binds (R302). -/
def holdPkt (q : QPkt) (s : State) : State :=
  if heldBytes s + 16 * pktCells q.pkt.payload.length > 2 ^ 18 then bump COL_STRAY_count 0 1 s
  else { s with heldq := s.heldq ++ [{ q := q, at_ := now s }] }

/-- A packet rejected as bad (R293). -/
def badPkt (q : QPkt) (s : State) : State := event boxCOL 0x0A (q.pkt.tag % 256) q.pkt.addr (bump COL_BAD_count 0 1 s)

/-- The element of an owned block at a word address (R295). -/
def locate (d : List Byte) (a : Nat) : Option Nat :=
  if a < gAcc d then none else
  let o := a - gAcc d
  if o % 4096 % 72 != 0 || decide (o % 4096 / 72 ≥ 56) then none else
  let k := o / 4096 * 56 + o % 4096 / 72
  if k < gOwned d (gRank d) then some (256 * gP d * gRank d + k) else none

/-- The contributions of a payload: (value, tag) of each element, or none where it breaks R290 or R291. -/
def accItems (whole : Bool) (pl : List Byte) : Option (List (Int × Byte)) :=
  let h := recNat pl 0 8
  let n := bits h 0 8 + 1
  if pl.length < 8 then none
  else if whole then
    if n > 3 ∨ pl.length ≠ 16 + 72 * n then none else
    some ((List.range n).map fun i => ((BitVec.ofNat 576 (recNat pl (8 + 72 * i) 72)).toInt, pl.getD (8 + 72 * n + i) 0#8))
  else
    let form := bits h 8 2
    let tg := bit h 10
    if form = 2 then (if pl.length ≠ 8 then none else some (List.replicate n (0, 0#8))) else
    if form = 3 then none else
    let w := if form = 0 then 32 else 64
    let pt := if tg then (n + 7) / 8 * 8 else 0
    if pl.length ≠ 8 + pt + n * (w / 8) then none else
    some ((List.range n).map fun i => (unwindow (recNat pl (8 + pt + i * (w / 8)) (w / 8)) (bits h 11 10) w, if tg then pl.getD (8 + i) 0#8 else 0#8))

/-- A packet for a bound, zeroed cid (R293, R298). -/
def applyAcc (k : Nat) (q : QPkt) (s : State) : State :=
  let x := coll k s
  let d := x.desc
  let pl := q.pkt.payload
  let whole := q.pkt.typ == 0x31
  let h := recNat pl 0 8
  if !whole && bits h 8 2 == 3 then
    let n := bits h 0 8 + 1
    let off := q.pkt.addr - gReport d
    if n > 31 || pl.length != 8 + 8 * n || decide (q.pkt.addr < gReport d) || off % 8 != 0 || decide (off / 8 + n > gSlots d) then badPkt q s
    else setColl k { x with reports := x.reports ++ (List.range n).map fun i => (off / 8 + i, recNat pl (8 + 8 * i) 8, true) } s
  else
    match accItems whole pl, (if gKind d < 2 then locate d q.pkt.addr else none) with
    | some items, some e =>
      let n := items.length
      let b := e / 256
      let rnd := bits q.pkt.tag 8 2
      if rnd < zget x.rounds b then bump COL_STALE_count 0 n s
      else if decide (rnd > zget x.rounds b) || bits h 11 10 != (floorEnt k d b s).floor || decide (e + n > 256 * b + gNb d b) then badPkt q s
      else
        let j := e - 256 * gP d * gRank d
        let ok := (List.range n).all fun i => protOk 3 (la k (accWord d (j + i)) s) 72 true true s
        if !(ok && protOk 3 (la k (accTag d j) s) n true true s) then
          let s := protRefused 3 (la k (accWord d j) s) true s
          let s := (List.range n).foldl (fun s i => (let (t, _, s) := collRead k (accTag d (j + i)) 1 s; collWrite k (accTag d (j + i)) [t.headD 0#8 ||| tNan] s)) s
          countEls k b n (collCode k 2 s)
        else
          let s := if !whole && bits h 8 2 == 2 then bump COL_ZERO_count 0 n s else s
          let s := (List.range n).foldl (fun s i => let y := items.getD i (0, 0#8); lerothAdd k 3 (j + i) whole y.1 y.2 (accWatch k (j + i) s)) s
          countEls k b n s
    | _, _ => badPkt q s

/-- The collective a packet names: its key, and whether it can take the packet now. -/
def accKey (q : QPkt) (s : State) : Nat × Bool :=
  let k := q.pkt.tag % 256 + (if q.pkt.dst = ownCoord s then 0 else 256)
  let x := coll k s
  (k, decide (x.phase ≥ 2) && gEpoch x.desc == bit q.pkt.tag 10)

/-- The adds of a packet wait where they would write a mirrored sector whose station has no room (R331). -/
def accPacketWaits (k : Nat) (q : QPkt) (s : State) : Bool :=
  let d := (coll k s).desc
  let whole := q.pkt.typ == 0x31
  on CUT_CONTROL_mirror_en 0 s && !(!whole && bits (recNat q.pkt.payload 0 8) 8 2 == 3) &&
  match accItems whole q.pkt.payload, (if gKind d < 2 then locate d q.pkt.addr else none) with
  | some items, some e => writeWaits (accSectors k (e - 256 * gP d * gRank d) items.length s) s
  | _, _ => false

/-- ACC and ACCW. -/
def accPacket (typ : Nat) (s : State) : State :=
  match takeEj typ s with
  | none => s
  | some (q, s') =>
    -- the adopted partner's packets name addresses of its own map (R334)
    let (k, ok) := accKey q s
    if ok && accPacketWaits k q s then s
    else if ok then applyAcc k q s' else holdPkt q s'

/-- COLLECTIVE_ZEROING_END (R288): the cid runs and held packets are applied. -/
def zeroingEnd (k : Nat) (s : State) : State :=
  let x := coll k s
  if x.phase != 1 then s else
  let s := setColl k { x with phase := 2 } s
  let (mine, rest) := s.heldq.partition fun h => accKey h.q s == (k, true)
  mine.foldl (fun s h => let (k, ok) := accKey h.q s; if ok then applyAcc k h.q s else holdPkt h.q s) { s with heldq := rest }

/-- HOLD_EXPIRY (R302): packets held longer than hold_us. -/
def holdExpiry (s : State) : State :=
  let us := 1000 * rd COL_CONTROL_hold_us 0 s
  let (old, keep) := s.heldq.partition fun h => decide (now s > h.at_ + us)
  bump COL_STRAY_count 0 old.length { s with heldq := keep }

/-- COLLECTIVE_TIMEOUT (R303). -/
def collTimeout (k : Nat) (s : State) : State :=
  let x := coll k s
  if x.phase = 0 || gTimeout x.desc = 0 then s else collFinish k true (bump COL_TIMEOUTS_count 0 1 s)

/-! ### Reports (R298 to R300) -/

/-- The replay list in memory: its count, then its blocks. -/
def writeList (k : Nat) (s : State) : State :=
  let x := coll k s
  collWrite k (gReport x.desc + 8 * gB x.desc) (leBytes x.rlist.length 4 ++ x.rlist.flatMap fun b => leBytes b 4) s

/-- The replay command dispatched with the list as it stands. -/
def replayDispatch (k : Nat) (s : State) : State :=
  let x := coll k s
  { setColl k { x with rbusy := true, rrun := x.rlist, phase := 3 } s with notices := s.notices ++ [.collReplay k] }

/-- A report written to its slot (R298). One that another module sent (`other`) is an access of class 3 (R266); where protection refuses the slot, the slot keeps what it holds, and the report counts all the same, as the elements of a refused contribution do, with status protection for the completion (R293; DESIGN CHOICE, log entry 93). -/
def reportWrite (k slot rep : Nat) (other : Bool) (s : State) : State :=
  let a := gReport (coll k s).desc + 8 * slot
  if !other then collWrite k a (leBytes rep 8) s else
  match memWrite 3 fromFabric (la k a s) (leBytes rep 8) s with
  | (2, s) => collCode k 2 s
  | (3, s) => collCode k 3 s
  | (_, s) => s

/-- REPORT_RECEIVE: the next report of collective `k` is written to its slot and applied. -/
def reportReceive (k : Nat) (s : State) : State :=
  let x := coll k s
  let d := x.desc
  match x.reports with
  | [] => s
  | (slot, rep, other) :: l =>
    if x.phase < 2 then s else
    let s := reportWrite k slot rep other (setColl k { x with reports := l } s)
    if gKind d = 3 then
      (if bit rep 21 then collFinish k false { s with notices := s.notices ++ [.vote (la k (gResult d) s) (gCid d) (x.cmd.getD 0)] } else s)
    else if gKind d = 2 then
      if !bit rep 22 || Map.get (fun _ => false) x.fins slot then s else
      let s := modColl k (fun x => { x with fins := Map.set (fun _ => false) x.fins slot true, finals := x.finals + 1 }) s
      if (coll k s).finals = gM d then collFinish k false s else s
    else
      let e := floorEnt k d slot s
      let e := setBits (setBits e 0 10 (bits rep 32 10)) 42 2 (bits rep 19 2)
      if bit rep 21 then
        if Map.get (fun _ => false) x.fins slot then s else
        let zero := bit rep 18
        let e := setBits (setBits (setBits e 30 1 1) 31 1 (if zero then 1 else 0)) 32 10 (bits rep 8 10)
        let s := setFloorEnt k d slot e s
        let s := modColl k (fun x => { x with fins := Map.set (fun _ => false) x.fins slot true, finals := x.finals + 1,
                                              stat := x.stat ||| BitVec.ofNat 8 rep, top := if zero then x.top else max x.top (bits rep 8 10), zero := x.zero && zero }) s
        collAll k s
      else
        let s := setFloorEnt k d slot e s
        let s := writeList k (modColl k (fun x => { x with rlist := x.rlist ++ [slot] }) s)
        if gReplay d = 0 then collFinish k false (modColl k (fun x => { x with code := 1 }) s)
        else if x.rbusy then s else replayDispatch k s

/-- Block `b` put into a list of blocks in ascending order. -/
def insertBlock (b : Nat) : List Nat → List Nat
  | [] => [b]
  | x :: l => if b ≤ x then b :: x :: l else x :: insertBlock b l

/-- The end of a replay command (R300), with its completion status. The blocks it covered are sent again in ascending order (R292). -/
def replayEnded (k status : Nat) (s : State) : State :=
  let x := coll k s
  if !x.rbusy then s
  else if status = 1 || status = 2 || status = 3 then collFinish k false (collCode k status (setColl k { x with code := 0 } s))
  else if status != 0 then collFinish k true s
  else
    let s := writeList k (setColl k { x with rbusy := false, rrun := [], phase := 2, rlist := x.rlist.drop x.rrun.length,
                                             resend := x.resend ++ x.rrun.foldr insertBlock [] } s)
    if (coll k s).rlist.isEmpty then s else replayDispatch k s

/-- REPLAY_COMMAND_COMPLETE: the completed replay command of collective `k` is acted on. -/
def replayComplete (k : Nat) (s : State) : State :=
  match (coll k s).ended with
  | some st => replayEnded k st (modColl k (fun x => { x with ended := none }) s)
  | none => s

/-! ### Results refused (R297) -/

/-- A refused WR into the result area of a collective bound here: its completion follows the refusal. -/
def resultRefused (ad : Bool) (a status : Nat) (s : State) : State :=
  match s.colls.find? fun e => e.1 / 256 == (if ad then 1 else 0) && decide (e.2.phase ≥ 1) && decide (gResult e.2.desc ≤ a) && decide (a < gResult e.2.desc + gResLen e.2.desc) with
  | some e => collCode e.1 (if status = 2 then 2 else if status = 3 then 3 else 1) s
  | none => s

/-- WR (R265): performed and answered; a ticket is counted, and a refusal in a result area noted. -/
def wrPacket (s : State) : State :=
  match takeEj 0x01 s with
  | none => s
  | some (e, s0) =>
    if putWaits e s0 then s else
    let (c, s) := putPacket e s0
    let ad := e.pkt.dst != ownCoord s
    let s := if c = 0 then ticketWr ad e.pkt.addr e.pkt.payload s else resultRefused ad e.pkt.addr c s
    respond e.pkt 0x80 c 0 [] s

end Sys2Proof.Machine
end

