-- ==== Sys2Proof/Machine/Fp.lean ====
section
/-! DEFINITION. The fp32 operations of the vector unit: IEEE binary32 arithmetic (R145), minima and relations (R146), the correctly rounded functions (R150), the attention weight (R156) and the rounding of rationals (R152). -/

namespace Sys2Proof.Machine

/-- The NaN every fp32 operation delivers (R145). -/
def f32Nan : Nat := 0x7FC00000

def f32Inf (s : Bool) : Nat := if s then 0xFF800000 else 0x7F800000

def f32Zero (s : Bool) : Nat := if s then 0x80000000 else 0

/-- Round `(-1)^s × n × 2^e` to fp32, to nearest with ties to even. With `sticky`, the magnitude lies strictly between n and n + 1 units of 2^e (n then has more than 25 bits, or lies below the smallest half subnormal). -/
def f32Round (s : Bool) (n : Nat) (e : Int) (sticky : Bool) : Nat :=
  if n = 0 then f32Zero s else
  let top : Int := topBit n + e
  let q : Int := max top (-126) - 23
  let sh := q - e
  let keep := if sh ≤ 0 then n * 2 ^ (-sh).toNat else n >>> sh.toNat
  let rest := if sh ≤ 0 then 0 else n % 2 ^ sh.toNat
  let half := if sh ≤ 0 then 1 else 2 ^ (sh.toNat - 1)
  let up := decide (rest > half) || (rest == half && (sticky || keep % 2 == 1))
  let keep := if up then keep + 1 else keep
  let (keep, q) := if keep == 2 ^ 24 then (2 ^ 23, q + 1) else (keep, q)
  if keep < 2 ^ 23 then encEl 1 s 0 keep
  else if q + 150 > 254 then f32Inf s
  else encEl 1 s (q + 150).toNat (keep - 2 ^ 23)

/-- The fp32 value nearest a positive rational n / d (n, d > 0). -/
def f32Rat (s : Bool) (n d : Nat) : Nat :=
  if n = 0 ∨ d = 0 then f32Zero s else
  let sh : Int := max 0 ((topBit d : Int) - topBit n + 40)
  let sh := max sh 200
  let m := n * 2 ^ sh.toNat
  f32Round s (m / d) (-sh) (m % d != 0)

/-- A finite decoded value as an integer at exponent `e` (e at most its own). -/
def decInt (s : Bool) (m : Nat) (q e : Int) : Int :=
  let v : Int := (m * 2 ^ (q - e).toNat : Nat)
  if s then -v else v

/-- An exact sum at exponent `e` rounded to fp32; an exact zero takes sign `zs`. -/
def f32OfInt (v e : Int) (zs : Bool) : Nat :=
  if v = 0 then f32Zero zs else f32Round (decide (v < 0)) v.natAbs e false

def f32Add (a b : Nat) : Nat :=
  match decodeEl 1 a, decodeEl 1 b with
  | .nan, _ => f32Nan
  | _, .nan => f32Nan
  | .inf s, .inf t => if s == t then f32Inf s else f32Nan
  | .inf s, _ => f32Inf s
  | _, .inf t => f32Inf t
  | .fin s m q, .fin t n r =>
    let e := min q r
    f32OfInt (decInt s m q e + decInt t n r e) e (s && t)

def f32Flip (a : Nat) : Nat := a ^^^ 0x80000000

def f32Sub (a b : Nat) : Nat := f32Add a (f32Flip b)

def f32Mul (a b : Nat) : Nat :=
  match decodeEl 1 a, decodeEl 1 b with
  | .nan, _ => f32Nan
  | _, .nan => f32Nan
  | .inf s, .inf t => f32Inf (s != t)
  | .inf s, .fin t n _ => if n = 0 then f32Nan else f32Inf (s != t)
  | .fin s m _, .inf t => if m = 0 then f32Nan else f32Inf (s != t)
  | .fin s m q, .fin t n r => f32Round (s != t) (m * n) (q + r) false

/-- fusedMultiplyAdd: a × b + c, rounded once (R145). -/
def f32Fma (a b c : Nat) : Nat :=
  match decodeEl 1 a, decodeEl 1 b, decodeEl 1 c with
  | .nan, _, _ => f32Nan
  | _, .nan, _ => f32Nan
  | _, _, .nan => f32Nan
  | .fin s m q, .fin t n r, .fin u k p =>
    let e := min (q + r) p
    f32OfInt (decInt (s != t) (m * n) (q + r) e + decInt u k p e) e ((s != t) && u)
  | .fin s m _, .fin t n _, .inf u => let _ := (s, m, t, n); f32Inf u
  | x, y, z =>
    -- an infinite factor
    let s := a.testBit 31 != b.testBit 31
    if x.isZero || y.isZero then f32Nan else
    match z with
    | .inf u => if u == s then f32Inf s else f32Nan
    | _ => f32Inf s

/-- The total order key of a non-NaN encoding, -0 below +0 (R146). -/
def f32Key (a : Nat) : Int := if a ≥ 2 ^ 31 then -((a - 2 ^ 31 : Nat) : Int) - 1 else (a : Int)

def f32IsNan (a : Nat) : Bool := decodeEl 1 a == .nan

def f32Min (a b : Nat) : Nat :=
  if f32IsNan a || f32IsNan b then f32Nan else if f32Key a ≤ f32Key b then a else b

def f32Max (a b : Nat) : Nat :=
  if f32IsNan a || f32IsNan b then f32Nan else if f32Key a ≤ f32Key b then b else a

def f32Abs (a : Nat) : Nat := if f32IsNan a then f32Nan else a % 2 ^ 31

def f32Neg (a : Nat) : Nat := if f32IsNan a then f32Nan else f32Flip a

/-- The relations of VCMP (R129, R146): 0 eq, 1 ne, 2 lt, 3 le; -0 equals +0. -/
def f32Cmp (rel a b : Nat) : Bool :=
  let nan := f32IsNan a || f32IsNan b
  let key := fun (x : Nat) => if x % 2 ^ 31 = 0 then (0 : Int) else f32Key x
  match rel with
  | 0 => !nan && key a == key b
  | 1 => nan || key a != key b
  | 2 => !nan && decide (key a < key b)
  | _ => !nan && decide (key a ≤ key b)

/-! ### Functions (R150) -/

/-- Integer square root, bit by bit from bit `k`. -/
def isqrtFrom : Nat → Nat → Nat → Nat
  | 0, n, r => if (r + 1) * (r + 1) ≤ n then r + 1 else r
  | k + 1, n, r => let c := r + 2 ^ (k + 1); isqrtFrom k n (if c * c ≤ n then c else r)

def isqrt (n : Nat) : Nat := isqrtFrom (topBit n / 2 + 1) n 0

def f32Rcp (a : Nat) : Nat :=
  match decodeEl 1 a with
  | .nan => f32Nan
  | .inf s => f32Zero s
  | .fin s m q =>
    if m = 0 then f32Inf s
    else if q ≤ 0 then f32Rat s (2 ^ (-q).toNat) m else f32Rat s 1 (m * 2 ^ q.toNat)

def f32Rsqrt (a : Nat) : Nat :=
  match decodeEl 1 a with
  | .nan => f32Nan
  | .inf s => if s then f32Nan else f32Zero false
  | .fin s m q =>
    if m = 0 then f32Inf s
    else if s then f32Nan
    else
      -- 1 / sqrt(m 2^q) = sqrt(2^(2k - q) / m) / 2^k, with 2k - q ≥ 0
      let k : Nat := 400
      let n := 2 ^ ((2 * k : Int) - q).toNat
      let r := isqrt (n / m)
      f32Round false r (-(k : Int)) (!(n % m == 0 && r * r == n / m))

/-- Fraction bits of log2 of `x / 2^p` in [1, 2), by repeated squaring at `p` fraction bits: `n` bits appended to `acc`. -/
def log2Frac (p : Nat) : Nat → Nat → Nat → Nat
  | 0, _, acc => acc
  | n + 1, x, acc =>
    let y := (x * x) >>> p
    if y ≥ 2 ^ (p + 1) then log2Frac p n (y / 2) (2 * acc + 1) else log2Frac p n y (2 * acc)

/-- Digits kept of a logarithm, and the working precision of the squarings. -/
def logDigits : Nat := 160

/-- floor(2^160 × log2(m / 2^topBit m)). -/
def log2Mant (m : Nat) : Nat :=
  let p := 2 * logDigits + 64
  log2Frac p logDigits (m * 2 ^ (p - topBit m)) 0

def f32Log2 (a : Nat) : Nat :=
  match decodeEl 1 a with
  | .nan => f32Nan
  | .inf s => if s then f32Nan else f32Inf false
  | .fin s m q =>
    if m = 0 then f32Inf true
    else if s then f32Nan
    else
      let e : Int := topBit m + q
      if m = 2 ^ topBit m then f32OfInt e 0 false
      else
        -- log2 = e + F / 2^160 with F strictly below the exact fraction
        let v : Int := e * 2 ^ logDigits + log2Mant m
        if v < 0 then f32Round true (v.natAbs - 1) (-(logDigits : Int)) true
        else f32Round false v.natAbs (-(logDigits : Int)) true

/-- Fixed-point precision of the exponential. -/
def expPrec : Nat := 512

/-- Σ r^k / k! at 512 fraction bits, terms k to k + n - 1 with `t` the k-th. -/
def expTerms : Nat → Nat → Nat → Nat → Nat → Nat
  | 0, _, _, _, acc => acc
  | n + 1, r, k, t, acc => expTerms n r (k + 1) (t * r / 2 ^ expPrec / (k + 1)) (acc + t)

def squareN : Nat → Nat → Nat
  | 0, x => x
  | n + 1, x => squareN n (x * x / 2 ^ expPrec)

/-- e^(-v / 2^512), for 0 ≤ v / 2^512 < 128, at 512 fraction bits. -/
def expNeg (v : Nat) : Nat :=
  let r := v / 2 ^ 20
  let e := expTerms 40 r 0 (2 ^ expPrec) 0        -- e^(r)
  let inv := 2 ^ (2 * expPrec) / e                -- e^(-r)
  squareN 20 inv

def f32Sigm (a : Nat) : Nat :=
  match decodeEl 1 a with
  | .nan => f32Nan
  | .inf s => if s then 0 else 0x3F800000
  | .fin s m q =>
    if m = 0 then 0x3F000000
    else if topBit m + q ≥ 7 then (if s then 0 else 0x3F800000)
    else
      let e := expNeg (m * 2 ^ (q + expPrec).toNat)
      let one := 2 ^ expPrec
      let n := (if s then e else one) * one / (one + e)
      f32Round false n (-(expPrec : Int)) true

/-! ### The attention weight (R156) -/

/-- How many of the 128 midpoints (2c + 257) / 256 between neighbouring bf16 values of [1, 2] lie below 2^x, where x = xn / 2^160: binary search on c, from the highest of `k` bits. -/
def exp2Index (xn : Nat) : Nat → Nat → Nat
  | 0, c => c
  | k + 1, c =>
    let d := c + 2 ^ k
    -- midpoint index d - 1 lies below 2^x exactly when its logarithm does
    exp2Index xn k (if log2Mant (257 + 2 * (d - 1)) < xn then d else c)

/-- VEXP2's weight as an fp32 encoding, with the tag bits it forms. -/
def f32Exp2Att (a : Nat) : Conv :=
  match decodeEl 1 a with
  | .nan => ⟨f32Nan, tNan⟩
  | .inf s => if s then ⟨0, 0#8⟩ else ⟨f32Inf false, tOvf⟩
  | .fin s m q =>
    -- t in units of 2^-149
    let v : Int := decInt s m q (-149)
    if v ≥ 128 * 2 ^ 149 then ⟨f32Inf false, tOvf⟩
    else if v < -133 * 2 ^ 149 then ⟨0, 0#8⟩
    else
      let k := v >>> 149
      let x := (v - k * 2 ^ 149).toNat
      let xn := x * 2 ^ (logDigits - 149)
      let c := 128 + (if log2Mant 511 < xn then 128 else exp2Index xn 7 0)
      let r := roundOut 0 0 .rne false 0 ((c : Int) * 2 ^ (k - 7 + 266).toNat)
      ⟨r.enc * 65536, r.tag⟩

/-! ### Moments (R152) -/

/-- rnd32 of a rational n / d, d > 0, with the tag bits it forms. -/
def f32Rnd (n : Int) (d : Nat) : Conv :=
  if n = 0 then ⟨0, 0#8⟩ else
  let r := f32Rat (decide (n < 0)) n.natAbs d
  ⟨r, if r % 2 ^ 31 == 0x7F800000 then tOvf else 0#8⟩

/-- The special value of a tag as fp32 (R35, R48). -/
def f32OfSpec (sp : Spec) : Nat := (specialOut 1 false sp).enc

/-- moment of R152: mean and variance with the tag bits formed. -/
def moment (s1 : Int) (t1 : Byte) (s2 : Int) (t2 : Byte) (n : Nat) : Nat × Nat × Byte :=
  if n = 0 then (f32Nan, f32Nan, tNan) else
  let mean : Conv := match specOf t1 with
    | .fin => f32Rnd s1 (n * 2 ^ 266)
    | .nan => ⟨f32Nan, tNan⟩
    | sp => ⟨f32OfSpec sp, 0#8⟩
  let var : Conv :=
    if specOf t1 != .fin || specOf t2 != .fin then ⟨f32Nan, tNan⟩
    else f32Rnd (max ((n : Int) * s2 * 2 ^ 266 - s1 * s1) 0) (n * n * 2 ^ 532)
  (mean.enc, var.enc, mean.tag ||| var.tag)

end Sys2Proof.Machine
end

