-- ==== Sys2Proof/Machine/LaneRow.lean ====
section
/-! DEFINITION. The lane row as a machine: steps and passes (R77 to R88), sampled passes (R342, R343), loads (R75, R76), drains (R85, R89 to R92), suspension and restore (R95 to R97, R448, R449), exceptions (R107), ballast (R99). -/

namespace Sys2Proof.Machine

/-! ### Small parts of the state -/

/-- The active stationary register and the set of the pass tag (R86). -/
def sset (t : Nat) (s : State) : Nat := rd TIL_LR_STATUS_pass_tag t s % 2
def aset (t : Nat) (s : State) : Nat := rd TIL_LR_STATUS_pass_tag t s / 2 % 2

def drainingFld (set : Nat) : Fld := if set = 0 then TIL_LR_STATUS_set0_draining else TIL_LR_STATUS_set1_draining
def parkedFld (set : Nat) : Fld := if set = 0 then TIL_LR_STATUS_set0_parked else TIL_LR_STATUS_set1_parked
def draining (t set : Nat) (s : State) : Bool := on (drainingFld set) t s
def parked (t set : Nat) (s : State) : Bool := on (parkedFld set) t s
def stoppedDrain (t set : Nat) (s : State) : Option Drain := if set = 0 then (lrow t s).stopped0 else (lrow t s).stopped1
def setStopped (t set : Nat) (d : Option Drain) (s : State) : State :=
  modLr t (fun l => if set = 0 then { l with stopped0 := d } else { l with stopped1 := d }) s
def countOf (t set : Nat) (s : State) : Nat := if set = 0 then (lrow t s).count0 else (lrow t s).count1
def setCount (t set n : Nat) (s : State) : State :=
  modLr t (fun l => if set = 0 then { l with count0 := n } else { l with count1 := n }) s

def laneReg (r : Nat) (l : LaneRow) : Map Byte := if r = 0 then l.st0 else l.st1
def laneScl (r : Nat) (l : LaneRow) : Map Byte := if r = 0 then l.sc0 else l.sc1
def lanePa (r : Nat) (l : LaneRow) : Nat := if r = 0 then l.pa0 else l.pa1
def zb : Nat → Byte := fun _ => 0#8
def zw : Nat → L576 := fun _ => 0#576

/-- Key of entry (set, index, lane). -/
def ekey (set i j : Nat) : Nat := 2048 * set + 64 * i + j

/-- An entry's word and tag; a fresh one reads as zero with a clear tag (R82, R90). -/
def entry (l : LaneRow) (set i j : Nat) : L576 × Byte :=
  let k := ekey set i j
  if Map.get (fun _ => false) l.written k then (Map.get zw l.words k, Map.get zb l.tags k) else (0#576, 0#8)

def setEntry (l : LaneRow) (set i j : Nat) (w : L576) (tg : Byte) : LaneRow :=
  let k := ekey set i j
  { l with words := Map.set zw l.words k w, tags := Map.set zb l.tags k tg, written := Map.set (fun _ => false) l.written k true }

def blkFloor (l : LaneRow) (set b : Nat) : BlkFloor := Map.get (fun _ => {}) l.floors (8 * set + b)

def counting (t : Nat) (s : State) : Bool := on TIL_LR_CONTROL_count_en t s
def lrCount (f : Fld) (t n : Nat) (s : State) : State := if counting t s then bump f t n s else s

/-- TIL_LR_FAULT takes a code (R104). -/
def lrFault (t code addr : Nat) (s : State) : State :=
  wr TIL_LR_FAULT_code t code (wr TIL_LR_FAULT_valid t 1 (wr TIL_LR_FAULT_addr t addr s))

/-- The lane row raises an exception for the instruction issued at `idx` (R107). -/
def lrExc (t code idx : Nat) (addr : Option Nat) (s : State) : State :=
  modLr t (fun l => { l with exc := some { code := code, slot := 5, addr := addr, lrEpc := some idx } }) s

/-- A store error met by the tile's own core or lane row makes the tile failed (R352). -/
def notice (n : Notice) (s : State) : State := { s with notices := s.notices ++ [n] }

/-- Whether an address lies in the tile's own stores. -/
def ownStore (t a : Nat) (s : State) : Bool := whereOf a s == .oper t || whereOf a s == .prog t

/-- Whether writing the bytes `l` reads, to merge it, a word of tile `t`'s own stores that is uncorrectable (R209). -/
def partBad (t : Nat) (l : List (Nat × Byte)) (s : State) : Bool :=
  !s.storeErr.isEmpty && l.any fun c => ownStore t c.1 s && decide (storeErrAt (c.1 / 8 * 8) s ≥ 2) && decide ((l.filter fun e => e.1 / 8 == c.1 / 8).length < 8)

/-- A tile that meets an uncorrectable word of its own stores as it writes the bytes `l` becomes failed (R352); `pre` is the state before the write. -/
def partFails (t : Nat) (l : List (Nat × Byte)) (pre s : State) : State := if partBad t l pre then notice (.failed t 2) s else s

/-- After a read of `n` bytes from `a` for tile `t` with status `c`: an uncorrectable word of the tile's own stores among them makes it failed (R352). -/
def ownMet (t a n c : Nat) (s : State) : State :=
  if c == 3 && s.storeErr.any fun e => decide (e.2 ≥ 2) && decide (e.1 < a + n) && decide (a < e.1 + 8) && ownStore t e.1 s then notice (.failed t 2) s else s

/-- `partFails` for the writes `ws` that were made: all, or those before the one at `stop`. -/
def writesFail (t : Nat) (ws : List (Nat × List Byte)) (stop : Option Nat) (pre s : State) : State :=
  (ws.takeWhile fun w => stop != some w.1).foldl (fun s w => partFails t (spread w.1 w.2) pre s) s

/-- Read of the tile's own operand store: data, uncorrectable or not. -/
def operRead (t o n : Nat) (s : State) : List Byte × Bool × State :=
  let (d, bad, s) := rawRead 6 (winAddr t o) n s
  (d, bad, if bad then notice (.failed t 2) s else s)

/-! ### The accumulator store's code (R209) -/

/-- The accumulator words in error that `p` selects, by entry, are read: single-bit errors are corrected and recorded; a double-bit error makes the tile failed (R352). -/
def accRead (t : Nat) (p : Nat → Bool) (s : State) : Bool × State :=
  let es := (lrow t s).accErr.filter fun e => p (e.1 / 9)
  let s := es.foldl (fun s e => if e.2 = 1 then
      event t 0x04 1 (8 * e.1) (modLr t (fun l => { l with accErr := Map.set (fun _ => 0) l.accErr e.1 0 }) s) else s) s
  if es.any fun e => decide (e.2 ≥ 2) then (true, notice (.failed t 2) s) else (false, s)

/-! ### Promotion (R81, R82) -/

/-- Every lane's group promoted into entries of `set` at the group's index. -/
def promote (t set : Nat) (s : State) : State :=
  if !(lrow t s).groupValid then s else
  let i := 32 * set + (lrow t s).groupIndex
  let s := (accRead t (fun k => k / 64 == i) s).2
  let l := lrow t s
  let l := (List.range 64).foldl (fun l j =>
    let sh := Map.getList (fun _ => ({} : Short)) l.shorts (8 * j) 8
    let (w, tg) := entry l set l.groupIndex j
    let l := setEntry l set l.groupIndex j (w + toWord (shortsSum sh)) tg
    { l with shorts := Map.setList (fun _ => ({} : Short)) l.shorts (8 * j) noShorts }) l
  let n := l.promFrac + 64
  lrCount TIL_LR_PROMOTIONS_count t (n / 64)
    (setLr t { l with groupValid := false, groupSteps := 0, promFrac := if counting t s then n % 64 else l.promFrac } s)

/-! ### Images (R96) -/

/-- Floors of a set as 16 bytes. -/
def floorBytes (l : LaneRow) (set : Nat) : List Byte :=
  (List.range 8).flatMap fun b =>
    let f := blkFloor l set b
    leBytes (f.floor + if f.set then 2 ^ 15 else 0) 2

def wordBytes (l : LaneRow) (set : Nat) : List Byte :=
  (List.range 2048).flatMap fun k => leBytes (entry l set (k / 64) (k % 64)).1.toNat 72

def tagBytes (l : LaneRow) (set : Nat) : List Byte :=
  (List.range 2048).map fun k => (entry l set (k / 64) (k % 64)).2

def shortBytes (l : LaneRow) : List Byte :=
  (Map.getList (fun _ => ({} : Short)) l.shorts 0 512).flatMap fun h =>
    leBytes (if h.valid then h.v.toNat + h.band * 2 ^ 41 + 2 ^ 47 else 0) 8

def drainBytes (d : Option Drain) : List Byte := match d with
  | some d => d.desc
  | none => List.replicate 128 0#8

/-- The running or waiting drain of a set. -/
def drainOf (l : LaneRow) (set : Nat) : Option Drain :=
  match l.run with
  | some d => if d.set = set then some d else
    (match l.waiting with
     | some e => if e.set = set then some e else none
     | none => none)
  | none => none

/-- The state word of the record. -/
def lrStateWord (t : Nat) (s : State) : Nat :=
  let l := lrow t s
  let n := fun (b : Bool) => if b then 1 else 0
  rd TIL_LR_STATUS_pass_tag t s + rd TIL_LR_STATUS_pass_open t s * 2 ^ 4 + rd TIL_LR_STATUS_pending_valid t s * 2 ^ 5
  + rd TIL_LR_STATUS_shadow_valid t s * 2 ^ 6 + rd TIL_LR_STATUS_set0_parked t s * 2 ^ 7 + rd TIL_LR_STATUS_set1_parked t s * 2 ^ 8
  + l.groupIndex * 2 ^ 9 + l.groupSteps * 2 ^ 14 + n l.groupValid * 2 ^ 18
  + n (drainOf l 0).isSome * 2 ^ 19 + n (drainOf l 1).isSome * 2 ^ 20
  + (match l.run with | some d => d.set | none => 0) * 2 ^ 21
  + lanePa (sset t s) l * 2 ^ 22 + lanePa (1 - sset t s) l * 2 ^ 24

/-- The record after its header, from offset 8. -/
def lrBody (t : Nat) (s : State) : List Byte :=
  let l := lrow t s
  let a := sset t s
  leBytes l.steps 8 ++ leBytes l.count0 8 ++ leBytes l.count1 8 ++ leBytes (lrStateWord t s) 8
  ++ leBytes l.current 8 ++ leBytes (if on TIL_LR_STATUS_pending_valid t s then l.pending else 0) 8 ++ leBytes 0 8
  ++ floorBytes l 0 ++ floorBytes l 1 ++ leBytes 0 32
  ++ drainBytes (drainOf l 0) ++ drainBytes (drainOf l 1) ++ l.drainDesc ++ shortBytes l
  ++ Map.getList zb (laneReg a l) 0 16384 ++ Map.getList zb (laneScl a l) 0 512
  ++ Map.getList zb (laneReg (1 - a) l) 0 16384 ++ Map.getList zb (laneScl (1 - a) l) 0 512
  ++ wordBytes l 0 ++ tagBytes l 0 ++ wordBytes l 1 ++ tagBytes l 1

/-- The record's header, complete. -/
def lrHeader (t : Nat) : List Byte := leBytes (1 + 2 ^ 16 + (t % 256) * 2 ^ 32 + (t / 256) * 2 ^ 40) 8

/-! ### Sampled passes (R342, R343) -/

def dieOfTile (t : Nat) : Nat := if t < 84 then 0 else 1
def poss (d : Nat) (s : State) : Poss := Map.get (fun _ => {}) s.itg.poss d
def setPoss (d : Nat) (p : Poss) (s : State) : State := { s with itg := { s.itg with poss := Map.set (fun _ => {}) s.itg.poss d p } }

/-- Tile `t` is in a possession that has begun. -/
def underPoss (t : Nat) (s : State) : Bool := let p := poss (dieOfTile t) s; decide (p.st ≥ 2) && p.tile == t

def checkSlot (k : Nat) (s : State) : CheckSlot := Map.get (fun _ => {}) s.checks k
def setCheck (k : Nat) (c : CheckSlot) (s : State) : State := { s with checks := Map.set (fun _ => {}) s.checks k c }

/-- Yard address of check slot `k` (8 × die + slot). -/
def slotAddr (k : Nat) (s : State) : Nat := rd ITG_DUP_BASE_base (k / 8) s * 2 ^ 21 + (k % 8) * 0x200000

/-- DUPLICATE_SELECTION (R342) of a pass that opens on tile `t`: the n-th pass of its die; a selected pass takes a free check slot, whose opening image is written, or is dropped. -/
def sampleOpen (t : Nat) (s : State) : State :=
  let die := dieOfTile t
  let n := Map.get (fun _ => 0) s.passes die
  let s := { s with passes := Map.set (fun _ => 0) s.passes die (n + 1) }
  let per := rd ITG_CONTROL_dup_period 0 s
  if per = 0 then s else
  let again := Map.get (fun _ => false) s.dupNext die
  let sel := again || decide (rng32 (rd ITG_DUP_SEED_dup_seed 0 s) die n 0 < 2 ^ 32 / per)
  if !sel then s else
  let s := { s with dupNext := Map.set (fun _ => false) s.dupNext die false }
  match (List.range 8).find? fun k => (checkSlot (8 * die + k) s).st == 0 with
  | none => bump ITG_DUP_DROPPED_count 0 1 s
  | some k =>
    let s := setCheck (8 * die + k) { st := 1, tile := t, set := aset t s, steps := 0, cmd := (core t s).cmd } s
    let s := modLr t (fun l => { l with sample := some { slot := 8 * die + k, steps := 0 } }) s
    bump ITG_DUP_SAMPLED_count 0 1 (putBytes 6 (slotAddr (8 * die + k) s) (lrHeader t ++ lrBody t s) s)

/-- A sampled pass dropped; its slot is freed (R343). -/
def sampleDrop (t : Nat) (s : State) : State :=
  match (lrow t s).sample with
  | none => s
  | some p => bump ITG_DUP_DROPPED_count 0 1 (setCheck p.slot {} (modLr t (fun l => { l with sample := none }) s))

/-- The pass of tile `t` ends: a sampled one leaves its set draining until the closing image is written (R343). -/
def sampleClose (t : Nat) (s : State) : State :=
  match (lrow t s).sample with
  | none => s
  | some p =>
    let s := setCheck p.slot { checkSlot p.slot s with st := 2, steps := p.steps, set := aset t s } s
    wr (drainingFld (aset t s)) t 1 (modLr t (fun l => { l with sample := none }) s)

/-- Step `k` of a sampled pass logged; beyond 4,096 steps the sample is dropped and the next pass of the die is selected (R342). -/
def sampleStep (t : Nat) (op sc : List Byte) (info : Nat) (s : State) : State :=
  match (lrow t s).sample with
  | none => s
  | some p =>
    if p.steps ≥ 4096 then
      let s := sampleDrop t s
      { s with dupNext := Map.set (fun _ => false) s.dupNext (dieOfTile t) true }
    else
      let d := op ++ List.replicate (256 - op.length) 0#8 ++ (sc ++ List.replicate (8 - sc.length) 0#8) ++ leBytes info 8
      let s := putBytes 6 (slotAddr p.slot s + 0x77000 + 288 * p.steps) d s
      modLr t (fun l => { l with sample := some { p with steps := p.steps + 1 } }) s

/-- Whether set `set` of tile `t` waits for its closing image. -/
def closing (t set : Nat) (s : State) : Bool :=
  (List.range 16).any fun k => let c := checkSlot k s
                               c.st == 2 && c.tile == t && c.set == set

/-! ### Drains (R85, R89 to R92) -/

/-- The draining bit of a set as its drains and a pending closing image give it. -/
def drainBits (t : Nat) (s : State) : State :=
  let f := fun (set : Nat) (s : State) =>
    wr (drainingFld set) t (if (drainOf (lrow t s) set).isSome || (stoppedDrain t set s).isSome || closing t set s then 1 else 0) s
  let s := f 1 (f 0 s)
  wr TIL_LR_STATUS_drain_fault t (if (stoppedDrain t 0 s).isSome || (stoppedDrain t 1 s).isSome then 1 else 0) s

/-- The drain bits of a check slot's source once its closing image is written (R343). -/
def fillSlot (k : Nat) (s : State) : State :=
  let c := checkSlot k s
  if c.st != 2 then s else
  let s := (accRead c.tile (fun k => k / 2048 == c.set) s).2
  let l := lrow c.tile s
  let a := slotAddr k s
  let info := c.tile % 256 + c.steps * 2 ^ 8
  let s := putBytes 6 (a + 0x52600) (wordBytes l c.set ++ tagBytes l c.set ++ leBytes info 8 ++ leBytes (countOf c.tile c.set s) 8
    ++ floorBytes l c.set ++ leBytes (c.cmd.getD 0) 8) s
  drainBits c.tile (setCheck k { c with st := 3 } s)
/-- Every closing image of tile `t` written. -/
def fillAll (t : Nat) (s : State) : State :=
  (List.range 16).foldl (fun s k => if (checkSlot k s).st == 2 && (checkSlot k s).tile == t then fillSlot k s else s) s

/-- The owner a history step of a drain is held under. -/
def drainOwner (t set : Nat) : Nat := t + 512 * set

/-- Whether the history step that drain `d` needs is open for set `set` of tile `t`. -/
def holdsStep (t set : Nat) (d : Drain) (s : State) : Bool :=
  ctlTscale (dConv d.desc) && (match histStep (dHist d.desc) s with
    | some h => h.owner == some (drainOwner t set)
    | none => false)

/-- A stopped drain ordered again keeps its open step where its new descriptor names the same history record, and gives it up where it does not. -/
def keepStep (t set : Nat) (s : State) : State :=
  let d := (lrow t s).drainDesc
  match stoppedDrain t set s with
  | some o => if holdsStep t set o s && !(ctlTscale (dConv d) && dHist d == dHist o.desc) then setHistStep (dHist o.desc) none s else s
  | none => s

/-- DRAIN_ORDER: a drain of `set` ordered with the current descriptor captured (R85, R89). A drain held under R72 for the step of the one ordered lets it go ahead (DESIGN CHOICE, log entry 85). -/
def orderDrain (t set : Nat) (s : State) : State :=
  let s := keepStep t set s
  let l := lrow t s
  let d : Drain := { set := set, desc := l.drainDesc, parked := parked t set s }
  let l := match l.run with
    | none => { l with run := some d }
    | some r => if !r.active && holdsStep t set r s then { l with run := some d, waiting := some r } else { l with waiting := some d }
  drainBits t (setStopped t set none (setLr t l s))

/-- The waiting drain moves up. -/
def nextDrain (t : Nat) (s : State) : State :=
  drainBits t (modLr t (fun l => { l with run := l.waiting, waiting := none }) s)

/-- The running drain stops under R92 with a fault code and address. -/
def stopDrain (t code addr : Nat) (s : State) : State :=
  match (lrow t s).run with
  | none => s
  | some d => nextDrain t (setStopped t d.set (some { d with active := false }) (lrFault t code addr s))

/-- Entry numbers a drain reads. -/
def drainReads (d : Drain) (k : Nat) : Bool := k / 2048 == d.set && decide (dI0 d.desc ≤ k / 64 % 32) && decide (k / 64 % 32 ≤ dI1 d.desc)

/-- DRAIN_START (R91): the running drain begins converting, its tensor scale chosen first (R70); held while another step of its history record is open (R72). A drain that a repeat writes again uses the scale of its first run (R354). -/
def drainStart (t : Nat) (s : State) : State :=
  match (lrow t s).run with
  | none => s
  | some d =>
    if d.active then s else
    let go := fun (sc : Nat) (s : State) =>
      match accRead t (drainReads d) s with
      | (true, s) => s
      | (false, s) => modLr t (fun l => { l with run := some { d with active := true, scale := sc } }) s
    let c := dConv d.desc
    if !ctlTscale c then go d.scale s else
    if (core t s).drainSkip > 0 then go ((core t s).skipScales.headD 0) s else
    if histBusy (dHist d.desc) (drainOwner t d.set) d.desc s then s else
    match takeScaleOf (tileClass t s) (fromDrain t) (dHist d.desc) (dCensus d.desc) (ctlFmt c) (drainOwner t d.set) s with
    | (0, _, sc, s) => go sc s
    | (e, a, _, s) => stopDrain t 7 a (ownMet t a 704 e s)

/-- The elements of index `i` converted (R90). -/
def drainRow (l : LaneRow) (d : Drain) (k : Int) (i : Nat) : List OutEl × List Nat :=
  let c := dConv d.desc
  let fmt := ctlFmt c
  let es := (List.range 64).map fun j => entry l d.set i j
  let scales := if fmtBlock fmt then
      [blockScale fmt ((es.take 32).map fun e => (wordInt e.1, e.2)), blockScale fmt ((es.drop 32).map fun e => (wordInt e.1, e.2))]
    else []
  let els := (List.range 64).map fun j =>
    let e := es.getD j (0#576, 0#8)
    let draw := if ctlRM c == .sr then rng32 (dSeed d.desc) (dTid d.desc) (dIndex d.desc i j) 1 else 0
    let sb := scales.getD (j / 32) 127
    let tg := if sb = 255 then e.2 ||| tNan else e.2
    outEl c (if fmtBlock fmt then (if sb = 255 then 0 else scaleK sb) else k) draw (dPair d.desc) (dLbase d.desc) (dLw d.desc) (dLfmt d.desc) (wordInt e.1) tg
  (els, scales)

/-- Bytes of a low part (R90). -/
def lowSize (d : List Byte) : Nat :=
  match dPair d with
  | 1 => 72
  | 2 => dLw d / 8
  | _ => fmtBits (dLfmt d) / 8

/-- The writes of one index, in order: (address, bytes). A whole row of an index is one write, refused as one (DESIGN CHOICE, log entry 85). -/
def rowWrites (d : Drain) (i : Nat) (els : List OutEl) (scales : List Nat) : List (Nat × List Byte) :=
  let fmt := ctlFmt (dConv d.desc)
  let r := i - dI0 d.desc
  let main := (dDest d.desc + r * dPitch d.desc,
    if fmt = 8 then els.flatMap fun e => leBytes e.enc 72 else packEls fmt (els.map (·.enc)))
  let extra :=
    if fmt = 8 then [(dLow d.desc + r * 64, els.map (·.tag))]
    else if fmtBlock fmt then [(dScale d.desc + r * 2, scales.map fun x => BitVec.ofNat 8 x)]
    else []
  let low :=
    if dPair d.desc = 0 then []
    else if dPair d.desc = 3 ∧ fmtBits (dLfmt d.desc) = 4 then [(dLow d.desc + r * 32, packEls 4 (els.map (·.low)))]
    else [(dLow d.desc + r * 64 * lowSize d.desc, els.flatMap fun e => leBytes e.low (lowSize d.desc))]
  main :: (extra ++ low)

/-- Writes made in order until one is refused: the refused address, if any. -/
def writeAll (cls wsrc : Nat) : List (Nat × List Byte) → State → Option Nat × State
  | [], s => (none, s)
  | (a, d) :: l, s =>
    match memWrite cls wsrc a d s with
    | (0, s) => writeAll cls wsrc l s
    | (_, s) => (some a, s)

/-- Status bytes of a drain: for each block with a drained index, the OR of its elements' final tags. -/
def blockStatus (rows : List (Nat × List OutEl)) : List (Nat × Byte) :=
  (List.range 8).filterMap fun b =>
    let rs := rows.filter fun r => r.1 / 4 == b
    if rs.isEmpty then none else
    some (b, rs.foldl (fun a r => r.2.foldl (fun a e => a ||| e.tag) a) 0#8)

/-- What a drain converts: index, elements, scale bytes. -/
def drainConv (t : Nat) (d : Drain) (s : State) : List (Nat × List OutEl × List Nat) :=
  let k : Int := if ctlTscale (dConv d.desc) then scaleK d.scale else 0
  ((List.range (dI1 d.desc + 1)).filter fun i => decide (dI0 d.desc ≤ i)).map fun i => (i, drainRow (lrow t s) d k i)

/-- The element writes of a drain, in order (R90, R91). -/
def drainWrites (t : Nat) (d : Drain) (s : State) : List (Nat × List Byte) := (drainConv t d s).flatMap fun r => rowWrites d r.1 r.2.1 r.2.2

/-- A drain waits where it would write a mirrored sector whose station has no room (R331). -/
def drainWaits (t : Nat) (d : Drain) (s : State) : Bool :=
  on CUT_CONTROL_mirror_en 0 s && (drainWrites t d s).any fun w => writeWaits (rangeSectors w.1 w.2.length) s

/-- The records a drain updates, read before it does (R447): the fault code and address of one that is unusable, else the bytes of census and history record. -/
def drainRecords (t : Nat) (d : Drain) (s : State) : Option (Nat × Nat) × List Byte × List Byte × State :=
  let cls := tileClass t s
  let c := dConv d.desc
  if !ctlCensus c || decide ((core t s).drainSkip > 0) then (none, [], [], s) else
  match recRead cls (fromDrain t) (dCensus d.desc) 704 s with
  | (0, cd, s) =>
    if !ctlTscale c then (none, cd, [], s) else
    (match recRead cls (fromDrain t) (dHist d.desc) 64 s with
     | (0, hd, s) => (if histLegal hd then none else some (7, dHist d.desc), cd, hd, s)
     | (e, _, s) => (some (7, dHist d.desc), [], [], ownMet t (dHist d.desc) 64 e s))
  | (e, _, s) => (some (7, dCensus d.desc), [], [], ownMet t (dCensus d.desc) 704 e s)

/-- A drain's counts added and its history entry appended (R66, R71), the records read as `cd` and `hd`; one that a repeat writes again adds and appends nothing (R354). -/
def drainCounts (t : Nat) (d : Drain) (rows : List (Nat × List OutEl)) (cd hd : List Byte) (s : State) : State :=
  let cls := tileClass t s
  let c := dConv d.desc
  if !ctlCensus c || decide ((core t s).drainSkip > 0) then s else
  let cs := rows.foldl (fun a r => r.2.foldl (fun (a : Census) e => a.el e.w e.tag (ctlFmt c) e.enc) a) ({} : Census)
  let s := censusAdd cls (dCensus d.desc) cs cd s
  if !ctlTscale c then s else
  let top := recNat (cells (dCensus d.desc + 0x58) 8 s) 0 8
  let stt := BitVec.ofNat 8 (bits top 16 8)
  setHistStep (dHist d.desc) none (histAppend cls (dHist d.desc) (bits top 0 10) (!bit top 10) (hasTag stt tOvf) stt hd s)

/-- The end of a drain's work (R91, R92, R447): its element writes, the read of its records, its status bytes, census and history. The result is none when all of it is done, else the fault code and address under which it stops. -/
def drainWork (t : Nat) (d : Drain) (s : State) : Option (Nat × Nat) × State :=
  let cls := tileClass t s
  let ws := drainWrites t d s
  let rows := (drainConv t d s).map fun r => (r.1, r.2.1)
  let s := modCore t (fun q => { q with storeBytes := q.storeBytes + ws.foldl (fun a w => a + w.2.length) 0 }) s
  let pre := s
  match writeAll cls (fromDrain t) ws s with
  | (some a, s) => (some (1, a), writesFail t ws (some a) pre s)
  | (none, s) =>
    let s := writesFail t ws none pre s
    match drainRecords t d s with
    | (some f, _, _, s) => (some f, s)
    | (none, cd, hd, s) =>
      let bs := (blockStatus rows).map fun b => (dStatus d.desc + b.1, [b.2])
      match writeAll cls (fromDrain t) bs s with
      | (stop, s') =>
        let s' := writesFail t bs stop s s'
        if stop.isSome then (stop.map fun a => (1, a), s') else (none, drainCounts t d rows cd hd s')

/-- An LRDRAIN at the head of the queue that waited for the drain of `set` orders its new drain as that one completes (R85). -/
def drainAgain (t set : Nat) (s : State) : State :=
  let l := lrow t s
  match l.queue with
  | c :: r => if bits c.slot 0 8 == 6 && bits c.slot 12 1 == set && l.exc.isNone && l.suspBusy.isNone && l.restBusy.isNone
      && !on TIL_LR_STATUS_suspended t s then orderDrain t set (setLr t { l with queue := r } s) else s
  | [] => s

/-- DRAIN_COMPLETE (R91): the set becomes free or parked, and event bit 48 is set. The elements count in TIL_LR_DRAIN_ELEMENTS as the drain completes: those of one that stops do not (DESIGN CHOICE, log entry 85). -/
def drainDone (t : Nat) (d : Drain) (s : State) : State :=
  let n := (dI1 d.desc - dI0 d.desc + 1) * 64
  let s := lrCount TIL_LR_DRAIN_ELEMENTS_count t n s
  let s := wrBit TIL_CS_EVT_val t 48 true s
  let s := modCore t (fun c => { c with drainsDone := c.drainsDone + 1, scales := c.scales ++ [d.scale], drainSkip := c.drainSkip - 1, skipScales := c.skipScales.tail }) s
  drainAgain t d.set (nextDrain t s)

/-! ### Suspension (R95, R448, R449) -/

/-- The check of R448: 0 passes, 3 address, 4 protection, which R201 counts and latches. -/
def recCheck (t a : Nat) (s : State) : Nat :=
  if a % 512 != 0 || !mapped a 0x52600 s then 3
  else if !protOk (tileClass t s) a 0x52600 false true s || progLocked a 0x52600 s then 4 else 0

/-- A suspension begins (R95): 0 begun, 1 joined one under way, 3 held behind a restore, which that of a suspended row is too, 2 the row is suspended and none restores it, 4 refused by R448. Queued instructions return to the replay buffer (R137). -/
def suspendStart (t a : Nat) (s : State) : Nat × State :=
  let l := lrow t s
  if l.suspBusy.isSome then (1, s)
  else if l.restBusy.isSome || rd TIL_CORE_STATUS_state t s == 6 then (3, modLr t (fun l => { l with suspHeld := true }) s)
  else if on TIL_LR_STATUS_suspended t s then (2, s)
  else if recCheck t a s = 4 then (4, lrFault t 4 a (protRefused (tileClass t s) a true s))
  else if recCheck t a s != 0 then (4, lrFault t 4 a s)
  else
    let s := modCore t (fun c => { c with replay := c.replay ++ l.queue }) s
    (0, setLr t { l with queue := [], suspBusy := some a } s)

/-- The row of tile `t` cannot be saved for its die's throttle: the tile runs at level 15 until the die's suspension is released (R448). -/
def throttleRefused (t : Nat) (s : State) : State :=
  { s with power := { s.power with rows := s.power.rows.filter (· != t), at15 := t :: s.power.at15.filter (· != t) } }

/-- The shadow registers filled from a stored tile (R75): stationary bytes, and for a block-scaled format scale bytes. A load of any other format copies no scale byte, and those of an earlier load stay as they are, which no step reads (DESIGN CHOICE, log entry 67). -/
def loadData (l : LoadOp) (rdB : Nat → Byte) : List (Nat × Byte) × List (Nat × Byte) :=
  let k := kOf l.fmt
  let bw := fmtBits l.fmt
  let elem := fun (r c : Nat) =>
    if bw = 4 then bits (rdB (l.base + (r * k + c) / 2)).toNat (4 * ((r * k + c) % 2)) 4
    else ofLe ((List.range (bw / 8)).map fun i => rdB (l.base + (r * k + c) * (bw / 8) + i))
  let lane := fun (j : Nat) =>
    packEls l.fmt ((List.range k).map fun e => if l.dir then elem e (l.o + j) else elem (l.o + j) e)
  let st := (List.range 64).flatMap fun j => spread (256 * j) (lane j ++ List.replicate (256 - k * bw / 8) 0#8)
  let sc := if fmtBlock l.fmt then
      (List.range 64).flatMap fun j => spread (8 * j) ((List.range 8).map fun g => if g < k / 32 then rdB (l.sbase + (l.o + j) * (k / 32) + g) else 0#8)
    else []
  (st, sc)

/-- Bytes the stored tile of a format occupies (R74). -/
def storedBytes (fmt : Nat) : Nat := kOf fmt * kOf fmt * fmtBits fmt / 8

/-- A load ends and the next one that waits moves up: the shadow registers hold the stored tile (R76), or a memory error is raised and the tile fails. shadow_valid is set once no load behind it waits. The whole stored tile is read, and a block-scaled load reads the scale bytes of its 64 rows (DESIGN CHOICE, log entry 85). -/
def loadDone (t : Nat) (s : State) : State :=
  let l := lrow t s
  match l.load with
  | none => s
  | some q =>
    let (_, bad, s) := operRead t q.base (storedBytes q.fmt) s
    let so := q.sbase + q.o * (kOf q.fmt / 32)
    let (_, bad2, s) := if fmtBlock q.fmt then operRead t so (64 * (kOf q.fmt / 32)) s else ([], false, s)
    let more := !l.nextLoads.isEmpty
    let s := modLr t (fun l => { l with load := l.nextLoads.head?, nextLoads := l.nextLoads.tail }) (wr TIL_LR_STATUS_shadow_loading t (if more then 1 else 0) s)
    if bad || bad2 then lrExc t 5 q.idx (some (winAddr t (if bad then q.base else so))) s else
    let (st, sc) := loadData q fun o => byteAt (winAddr t o) s
    let r := 1 - sset t s
    let put := fun (m : Map Byte) (d : List (Nat × Byte)) => d.foldl (fun m (c : Nat × Byte) => Map.set zb m c.1 c.2) m
    let s := modLr t (fun l =>
      if r = 0 then { l with st0 := put l.st0 st, sc0 := put l.sc0 sc, pa0 := q.pa }
      else { l with st1 := put l.st1 st, sc1 := put l.sc1 sc, pa1 := q.pa }) s
    if more then s else wr TIL_LR_STATUS_shadow_valid t 1 s

/-- Every load that has left the queue ends, in order; `n` bounds them. -/
def loadsDone (t : Nat) : Nat → State → State
  | 0, s => s
  | n + 1, s => if (lrow t s).load.isNone then s else loadsDone t n (loadDone t s)

/-- A lane row left empty (R95): no pass, no pending descriptor, both sets free and fresh, no valid shadow; registers of R101 other than status keep their values. A drain stopped under R92 neither runs nor waits: it is not recorded, it is dropped, and its set is left free (DESIGN CHOICE, log entry 67). -/
def emptyRow (t : Nat) (s : State) : State :=
  let l := lrow t s
  let s := setLr t { l with shorts := [], words := [], tags := [], written := [], accErr := [], floors := [], count0 := 0, count1 := 0, groupValid := false,
                            groupSteps := 0, load := none, nextLoads := [], run := none, waiting := none, stopped0 := none, stopped1 := none, sample := none } s
  let s := wr TIL_LR_STATUS_pass_open t 0 (wr TIL_LR_STATUS_pending_valid t 0 (wr TIL_LR_STATUS_shadow_valid t 0 (wr TIL_LR_STATUS_shadow_loading t 0 s)))
  drainBits t (wr TIL_LR_STATUS_set0_parked t 0 (wr TIL_LR_STATUS_set1_parked t 0 s))

/-- Every step that a drain of tile `t` holds is given up. -/
def dropDrains (t : Nat) (s : State) : State := dropSteps (drainOwner t 1) (dropSteps (drainOwner t 0) s)

/-- The drains of tile `t` leave it: the running one lets go of its history step, which it takes up again where it restarts; a stopped one gives its step up. -/
def leaveHist (t : Nat) (s : State) : State :=
  dropDrains t (match (lrow t s).run with
    | some d => if d.active && ctlTscale (dConv d.desc) then leaveStep (dHist d.desc) (drainOwner t d.set) d.desc s else s
    | none => s)

/-- SUSPEND_RECORD_WRITTEN (R95 steps 2 to 6): the record goes out, header last, and the lane row is left empty. A CXL port that is down leaves it incomplete (R448), as a program buffer locked meanwhile does (R112). -/
def suspendDone (t : Nat) (s : State) : State :=
  match (lrow t s).suspBusy with
  | none => s
  | some a =>
    let s := fillAll t (sampleDrop t s)
    let s := leaveHist t (accRead t (fun _ => true) (loadsDone t ((lrow t s).nextLoads.length + 1) s)).2
    let away := (lrow t s).run.isSome || (lrow t s).waiting.isSome
    let s := if cxlDown a 0x52600 s || progLocked a 0x52600 s then lrFault t 4 a s
      else putBytes (tileClass t s) a (lrHeader t) (putBytes (tileClass t s) (a + 8) (lrBody t s) s)
    let s := emptyRow t s
    wr TIL_LR_STATUS_suspended t 1 (modLr t (fun l => { l with suspBusy := none, suspAddr := some a, drainAway := away }) s)

/-! ### Restore (R97) -/

/-- The lane row is empty: no pass, no pending descriptor, no set draining or parked, no shadow valid or loading, nothing under way. A free set counts as empty whatever its entries hold (DESIGN CHOICE, log entry 85). -/
def rowEmpty (t : Nat) (s : State) : Bool :=
  let l := lrow t s
  !on TIL_LR_STATUS_pass_open t s && !on TIL_LR_STATUS_pending_valid t s && !on TIL_LR_STATUS_shadow_valid t s &&
  !draining t 0 s && !draining t 1 s && !parked t 0 s && !parked t 1 s && l.load.isNone && l.suspBusy.isNone && l.restBusy.isNone

/-- Field of a record read as `d`. -/
def lrRec (d : List Byte) (o n : Nat) : Nat := recNat d o n

/-- The lane row a record describes (R96, R97), every fresh bit clear. -/
def rowOf (d : List Byte) (old : LaneRow) : LaneRow :=
  let w := lrRec d 0x20 8
  let a := bits w 0 1
  let map := fun (o n : Nat) => (spread 0 ((d.drop o).take n)).foldl (fun m c => Map.set zb m c.1 c.2) ([] : Map Byte)
  let words := fun (o set : Nat) (m : Map L576) => (List.range 2048).foldl (fun m k => Map.set zw m (2048 * set + k) (BitVec.ofNat 576 (lrRec d (o + 72 * k) 72))) m
  let tags := fun (o set : Nat) (m : Map Byte) => (List.range 2048).foldl (fun m k => Map.set zb m (2048 * set + k) (d.getD (o + k) 0#8)) m
  let fl := (List.range 16).foldl (fun m k =>
    let x := lrRec d (0x40 + 2 * k) 2
    Map.set (fun _ => {}) m k { floor := bits x 0 10, set := bit x 15 }) ([] : Map BlkFloor)
  let sh := (List.range 512).foldl (fun m k =>
    let x := lrRec d (0x200 + 8 * k) 8
    Map.set (fun _ => ({} : Short)) m k (if bit x 47 then { v := BitVec.ofNat 41 x, band := bits x 41 6, valid := true } else {})) ([] : Map Short)
  let act := map 0x1200 16384
  let sha := map 0x5400 16384
  let sca := map 0x5200 512
  let scs := map 0x9400 512
  let dr := fun (o set b : Nat) => if bit w b then some ({ set := set, desc := (d.drop o).take 128, parked := bit w (7 + set) } : Drain) else none
  let d0 := dr 0x80 0 19
  let d1 := dr 0x100 1 20
  let first := if bit w 21 then d1 else d0
  let second := if bit w 21 then d0 else d1
  { old with
    st0 := if a = 0 then act else sha, st1 := if a = 0 then sha else act
    sc0 := if a = 0 then sca else scs, sc1 := if a = 0 then scs else sca
    pa0 := if a = 0 then bits w 22 2 else bits w 24 2, pa1 := if a = 0 then bits w 24 2 else bits w 22 2
    shorts := sh, words := words 0x9600 0 (words 0x2DE00 1 []), tags := tags 0x2D600 0 (tags 0x51E00 1 [])
    written := (List.range 4096).map fun k => (k, true)
    floors := fl, count0 := lrRec d 0x10 8, count1 := lrRec d 0x18 8, steps := lrRec d 8 8
    current := lrRec d 0x28 8, pending := lrRec d 0x30 8
    groupIndex := bits w 9 5, groupSteps := bits w 14 4, groupValid := bit w 18
    drainDesc := (d.drop 0x180).take 128
    run := match first with | some x => some x | none => second
    waiting := match first with | some _ => second | none => none
    accErr := [], load := none, nextLoads := [], stopped0 := none, stopped1 := none }

/-- The register fields a record sets. -/
def rowFields (t : Nat) (d : List Byte) (s : State) : State :=
  let w := lrRec d 0x20 8
  wr TIL_LR_STATUS_pass_tag t (bits w 0 4) (wr TIL_LR_STATUS_pass_open t (bits w 4 1) (wr TIL_LR_STATUS_pending_valid t (bits w 5 1)
    (wr TIL_LR_STATUS_shadow_valid t (bits w 6 1) (wr TIL_LR_STATUS_set0_parked t (bits w 7 1) (wr TIL_LR_STATUS_set1_parked t (bits w 8 1)
      (wr TIL_LR_STATUS_suspended t 0 s))))))

/-- The lane row takes record `d`; replay entries enter the queue ahead of later instructions (R137). -/
def applyRow (t : Nat) (d : List Byte) (s : State) : State :=
  let l := rowOf d (lrow t s)
  let s := setLr t { l with queue := (core t s).replay ++ l.queue, suspAddr := none, restBusy := none, restIdx := none } s
  drainBits t (rowFields t d (modCore t (fun c => { c with replay := [] }) s))

/-- A restore begins (R97): 0 begun, else the code of TIL_LR_FAULT for its refusal (2 row not empty, which a context restore under way makes it too (R449), 5 address or protection). -/
def restoreStart (t a : Nat) (s : State) : Nat × State :=
  if !rowEmpty t s || rd TIL_CORE_STATUS_state t s == 6 then (2, lrFault t 2 a s)
  else if a % 512 != 0 || !mapped a 0x52600 s then (5, lrFault t 5 a s)
  else if !protOk (tileClass t s) a 0x52600 true false s then (5, lrFault t 5 a (protRefused (tileClass t s) a false s))
  else (0, modLr t (fun l => { l with restBusy := some a }) s)

/-- LANE_ROW_RESTORE_COMPLETE (R97): the record read and checked: 0 restored, 3 incomplete, 5 a read refused, 6 uncorrectable. A restore of LRREST that is refused raises restore-fault; one of TIL_LR_SUSPEND raises nothing. -/
def restoreDone (t : Nat) (s : State) : Nat × State :=
  match (lrow t s).restBusy with
  | none => (0, s)
  | some a =>
    let (c, d, s) := memRead (tileClass t s) unwatched a 0x52600 s
    let s := ownMet t a 0x52600 c s
    let rest := (lrow t s).restIdx
    let s := modLr t (fun l => { l with restBusy := none, restIdx := none }) s
    let refuse := fun (code : Nat) (s : State) => match rest with
      | some i => lrExc t 9 i (some a) (lrFault t code a s)
      | none => lrFault t code a s
    if c != 0 then (let code := if c = 3 then 6 else 5
                    (code, refuse code s))
    else if bits (lrRec d 0 8) 16 8 != 1 then (3, refuse 3 s)
    else (0, applyRow t d s)

/-! ### The queue (R78) -/

/-- Fields of a captured slot word. -/
def capOp (c : Cap) : Nat := bits c.slot 0 8

/-- Outcome of the head of the queue: it waits, it left, or it left as a step. -/
inductive QRes where
  | wait (s : State) | left (s : State) | step (s : State)

def pop (t : Nat) (s : State) : State := modLr t (fun l => { l with queue := l.queue.tail }) s

/-- LRLOAD leaves the queue (R75, R107). One that finds a load outstanding waits behind it outside the queue, so that it delays no step (R76); shadow_valid falls as soon as an LRLOAD has left the queue, before its load writes (DESIGN CHOICE, log entry 67). The range check covers the whole stored tile and its whole scale array (DESIGN CHOICE, log entry 85). -/
def qLoad (t : Nat) (c : Cap) (s : State) : QRes :=
  let fmt := bits c.slot 20 4
  let dir := bit c.slot 24
  let o := bits c.slot 25 2 * 64
  let pa := bits c.slot 27 2
  let base := c.c0.toNat % 2 ^ 21
  let sb := c.c1.toNat % 2 ^ 21
  let s1 := pop t s
  if fmt > 7 || (fmtBlock fmt && dir) || decide (o ≥ kOf fmt) || decide (pa > 2) then .left (lrExc t 2 c.idx none s1)
  else if base % 256 != 0 || decide (base + storedBytes fmt > 0x200000) || (fmtBlock fmt && decide (sb + kOf fmt * (kOf fmt / 32) > 0x200000)) then
    .left (lrExc t 3 c.idx (some (winAddr t base)) s1)
  else
    let q : LoadOp := { base := base, sbase := sb, fmt := fmt, dir := dir, o := o, pa := pa, idx := c.idx, busy := false }
    .left (wr TIL_LR_STATUS_shadow_loading t 1 (wr TIL_LR_STATUS_shadow_valid t 0
      (modLr t (fun l => if l.load.isNone then { l with load := some q } else { l with nextLoads := l.nextLoads ++ [q] }) s1)))

/-- LRDCFG (R89). -/
def qDcfg (t : Nat) (c : Cap) (s : State) : QRes :=
  let o := c.c0.toNat % 2 ^ 21
  let s := pop t s
  if o % 128 != 0 then .left (lrExc t 3 c.idx (some (winAddr t o)) s) else
  let (d, bad, s) := operRead t o 128 s
  if bad then .left (lrExc t 5 c.idx (some (winAddr t o)) s)
  else if !drainLegal d then .left (lrExc t 2 c.idx none s)
  else .left (modLr t (fun l => { l with drainDesc := d }) s)

/-- LRCLOSE (R85). -/
def qClose (t : Nat) (c : Cap) (s : State) : QRes :=
  let s := pop t s
  if !on TIL_LR_STATUS_pass_open t s then .left (lrExc t 7 c.idx none s) else
  let a := aset t s
  let s := wr TIL_LR_STATUS_pass_open t 0 (promote t a s)
  let s := if bit c.slot 12 then wr (parkedFld a) t 1 s else orderDrain t a s
  .left (sampleClose t s)

/-- LRDRAIN (R85, R92). -/
def qDrain (t : Nat) (c : Cap) (s : State) : QRes :=
  let set := bits c.slot 12 1
  if (stoppedDrain t set s).isSome then .left (orderDrain t set (pop t s))
  else if draining t set s then .wait s
  else if (on TIL_LR_STATUS_pass_open t s && aset t s == set) || !parked t set s then .left (lrExc t 7 c.idx none (pop t s))
  else .left (orderDrain t set (pop t s))

/-- LRSUSP (R95, R448). -/
def qSusp (t : Nat) (c : Cap) (s : State) : QRes :=
  let a := c.c0.toNat % 2 ^ 48
  let s := pop t s
  match suspendStart t a s with
  | (4, s) => .left (lrExc t (recCheck t a s) c.idx (some a) s)
  | (_, s) => .left s

/-- LRREST (R97, R107): the restore's own refusals are raised as it starts. -/
def qRest (t : Nat) (c : Cap) (s : State) : QRes :=
  let a := c.c0.toNat % 2 ^ 48
  let s := pop t s
  match restoreStart t a s with
  | (0, s) => .left (modLr t (fun l => { l with restIdx := some c.idx }) s)
  | (2, s) => .left (lrExc t 7 c.idx (some a) s)
  | (_, s) => .left (lrExc t 9 c.idx (some a) s)

/-- Fields of a pass descriptor (R83). -/
def pSf (d : Nat) : Nat := bits d 0 4
def pOf (d : Nat) : Nat := bits d 4 4
def pAdd (d : Nat) : Bool := bit d 8
def pHand (d : Nat) : Nat := bits d 9 2
def pIdle (d : Nat) : Nat := bits d 11 1
def pKeep (d : Nat) : Bool := bit d 12
def pSs (d : Nat) : Nat := bits d 13 8
def pOs (d : Nat) : Nat := bits d 21 8

/-- R60: the formats pair. -/
def pairs (a b : Nat) : Bool := decide (a ≤ 7) && decide (b ≤ 7) && fmtBits a == fmtBits b && ((a == 1) == (b == 1))

/-- R83: the descriptor may open a pass. -/
def passLegal (d : Nat) : Bool :=
  let okS := fun (fmt sc : Nat) => sc != 255 && (sc == 127 || fmt == 2 || fmt == 3 || fmt == 4)
  pairs (pSf d) (pOf d) && okS (pSf d) (pSs d) && okS (pOf d) (pOs d) && pHand d != 3

/-- The set the pending pass will use (R84). -/
def nextSet (t : Nat) (s : State) : Nat :=
  let d := (lrow t s).pending
  if on TIL_LR_STATUS_pass_open t s then (if pHand d = 0 then aset t s else 1 - aset t s) else pIdle d

/-- The stationary register the pending pass will use. -/
def nextReg (t : Nat) (s : State) : Nat :=
  if pKeep (lrow t s).pending then sset t s else 1 - sset t s

/-- PASS_OPEN (R84, R85): the pending pass opens; the old set is dealt with first. -/
def openPass (t : Nat) (s : State) : State :=
  let d := (lrow t s).pending
  let wasOpen := on TIL_LR_STATUS_pass_open t s
  let a := aset t s
  let n := nextSet t s
  let r := nextReg t s
  let s := promote t a s
  let s := if wasOpen then (if n = a then fillAll t (sampleClose t s) else sampleClose t s) else s
  let s := if wasOpen && pHand d == 1 then orderDrain t a s else if wasOpen && pHand d == 2 then wr (parkedFld a) t 1 s else s
  let seq := (rd TIL_LR_STATUS_pass_tag t s / 4 + 1) % 4
  let s := wr TIL_LR_STATUS_pass_tag t (r + 2 * n + 4 * seq) s
  let s := wr TIL_LR_STATUS_pass_open t 1 (wr TIL_LR_STATUS_pending_valid t 0 (wr TIL_LR_STATUS_suspended t 0 s))
  let s := wr (parkedFld n) t 0 s
  let s := if pKeep d then s else wr TIL_LR_STATUS_shadow_valid t 0 s
  let s := modLr t (fun l => { l with current := d, steps := 0 }) s
  if pAdd d then s else
  setCount t n 0 (modLr t (fun l =>
    { l with written := Map.drop (fun k => k / 2048 == n) l.written, words := Map.drop (fun k => k / 2048 == n) l.words,
             tags := Map.drop (fun k => k / 2048 == n) l.tags, accErr := Map.drop (fun k => k / 18432 == n) l.accErr, floors := Map.drop (fun k => k / 8 == n) l.floors }) s)

/-- The step that has reached Read, its pass open, formed into lane `0..63` (R77, R79, R80). -/
def stepLanes (l : LaneRow) (sreg set idx : Nat) (op sc : List Byte) (pb : Nat) (neg : Bool) (floor : Nat) : LaneRow × List LaneRes :=
  let d := l.current
  (List.range 64).foldl (fun (acc : LaneRow × List LaneRes) j =>
    let l := acc.1
    let st := Map.getList zb (laneReg sreg l) (256 * j) 256
    let ss := Map.getList zb (laneScl sreg l) (8 * j) 8
    let ts := (List.range (kOf (pSf d))).map fun e =>
      stepTerm (pSf d) (pOf d) (operand (pSf d) st ss (pSs d) e) (operand (pOf d) op sc (pOs d) e) (lanePa sreg l) pb neg floor
    let r := laneStep (Map.getList (fun _ => ({} : Short)) l.shorts (8 * j) 8) ts
    let (w, tg) := entry l set idx j
    let tg := ts.foldl (fun a t => a ||| t.tag) tg
    let l := setEntry l set idx j (w + toWord r.promoted) tg
    ({ l with shorts := Map.setList (fun _ => ({} : Short)) l.shorts (8 * j) r.shorts }, acc.2 ++ [r])) (l, [])

/-- Counters of a step (R80, R106). -/
def stepCounts (t : Nat) (rs : List LaneRes) (s : State) : State :=
  let c := rs.foldl (fun a r => max a r.cost) 1
  let lead := (rs.find? fun r => r.cost == c).getD { shorts := [] }
  let nb := rs.foldl (fun a r => max a r.nb) 1
  let n := (lrow t s).promFrac + rs.foldl (fun a r => a + r.promotions) 0
  let s := if counting t s then modLr t (fun l => { l with promFrac := n % 64 }) s else s
  lrCount TIL_LR_STEPS_count t 1 (lrCount TIL_LR_STEP_CYCLES_count t c (lrCount TIL_LR_SPILL_CYCLES_count t lead.spill
    (lrCount TIL_LR_SLOT_STALLS_count t lead.stall (lrCount TIL_LR_PROMOTIONS_count t (n / 64)
      (if counting t s then bump TIL_LR_BAND_HIST_count (8 * t + bandBin nb) 1 s else s)))))

/-- LRSTEP leaves the queue (R77, R78, R84, R87, R88, R107). Where a step has several causes of an exception at once, the first in the order written here is raised (DESIGN CHOICE, log entry 67). -/
def qStep (t : Nat) (c : Cap) (s : State) : QRes :=
  let l := lrow t s
  let first := bit c.slot 38
  let idx := bits c.slot 20 5
  let floor := bits c.slot 25 10
  let pb := bits c.slot 35 2
  let neg := bit c.slot 37
  let exc := fun (code : Nat) (a : Option Nat) => QRes.left (lrExc t code c.idx a (pop t s))
  if first && !on TIL_LR_STATUS_pending_valid t s then exc 7 none
  else if !first && !on TIL_LR_STATUS_pass_open t s then exc 7 none
  else if first && !pKeep l.pending && !on TIL_LR_STATUS_shadow_valid t s && l.load.isNone then exc 7 none
  else if first && !passLegal l.pending then exc 2 none
  else if first && (stoppedDrain t (nextSet t s) s).isSome then exc 8 none
  else if first && ((!pKeep l.pending && !on TIL_LR_STATUS_shadow_valid t s) || draining t (nextSet t s) s) then .wait s
  else
    let d := if first then l.pending else l.current
    let set := if first then nextSet t s else aset t s
    let o := c.c0.toNat % 2 ^ 21
    let so := c.c1.toNat % 2 ^ 21
    let nsc := kOf (pOf d) / 32
    let fl := blkFloor l set (idx / 4)
    let flSet := fl.set && !(first && !pAdd d)
    let cnt := if first && !pAdd d then 0 else countOf t set s
    if floor > 521 || (flSet && fl.floor != floor) || decide (pb > 2) then exc 2 none
    else if o % opBytes (pOf d) != 0 || decide (o + opBytes (pOf d) > 0x200000) then exc 3 (some (winAddr t o))
    else if fmtBlock (pOf d) && decide (so + nsc > 0x200000) then exc 3 (some (winAddr t so))
    else if cnt + kOf (pOf d) > 2 ^ 53 then exc 6 none
    else
      let s := pop t s
      let (accBad, s) := accRead t (fun k => k / 64 == 32 * set + idx && !(first && !pAdd d)) s
      if accBad then .left s else
      let (op, bad, s) := operRead t o (opBytes (pOf d)) s
      let (sc, bad2, s) := if fmtBlock (pOf d) then operRead t so nsc s else ([], false, s)
      if bad || bad2 then .left (lrExc t 5 c.idx (some (winAddr t o)) s) else
      let s := if first then openPass t s else if l.groupValid && l.groupIndex != idx then promote t set s else s
      let s := if first then sampleOpen t s else s
      let (l', rs) := stepLanes (lrow t s) (sset t s) set idx op sc pb neg floor
      let l' := { l' with floors := Map.set (fun _ => {}) l'.floors (8 * set + idx / 4) { floor := floor, set := true },
                          groupIndex := idx, groupSteps := (if l'.groupValid then l'.groupSteps else 0) + 1, groupValid := true,
                          steps := l'.steps + 1, idleRun := 0, ballast := 0 }
      let s := setCount t set (countOf t set s + kOf (pOf d)) (setLr t l' s)
      let s := wr TIL_LR_STATUS_ballast_active t 0 (stepCounts t rs s)
      let s := sampleStep t op sc (idx + floor * 2 ^ 5 + pb * 2 ^ 15 + (if neg then 2 ^ 17 else 0)) s
      .step (if (lrow t s).groupSteps ≥ 8 then promote t set s else s)

/-- The head of the queue leaves, waits, or raises. -/
def qHead (t : Nat) (c : Cap) (s : State) : QRes :=
  match capOp c with
  | 1 => qStep t c s
  | 2 => qLoad t c s
  | 3 => .left (wr TIL_LR_STATUS_pending_valid t 1 (modLr t (fun l => { l with pending := c.c0.toNat }) (pop t s)))
  | 4 => qDcfg t c s
  | 5 => qClose t c s
  | 6 => qDrain t c s
  | 7 => qSusp t c s
  | 8 => qRest t c s
  | _ => .left (pop t s)

/-- LR_QUEUE_DISPATCH (R78): at most one step, with every non-step instruction ahead of it; `n` bounds the queue. -/
def dispatchQ (t : Nat) : Nat → State → State
  | 0, s => s
  | n + 1, s =>
    let l := lrow t s
    if l.exc.isSome then s else
    match l.queue with
    | [] => s
    | c :: _ =>
      -- a restore that meets a suspension or another restore under way is refused (R449)
      if (l.suspBusy.isSome || l.restBusy.isSome || on TIL_LR_STATUS_suspended t s) && capOp c != 8 then s else
      match qHead t c s with
      | .wait s => s
      | .step s => s
      | .left s => dispatchQ t n s

/-- Whether the queue, loads and drains are all quiet (R123, R126). -/
def rowQuiet (t : Nat) (s : State) : Bool :=
  let l := lrow t s
  l.queue.isEmpty && l.load.isNone && l.run.isNone && l.waiting.isNone


end Sys2Proof.Machine
end

