-- ==== Sys2Proof/Machine/Scalar.lean ====
section
/-! DEFINITION. Registers of the tile core (R108 to R110, R116) and the scalar slots (R118 to R120). Sources are read from the core as it stood before the long word issued; results go to the core as it then stands. -/

namespace Sys2Proof.Machine

def z64 : Nat → U64 := fun _ => 0#64

/-! ### Register files (R108) -/

/-- s[i]; s0 reads as 0. -/
def Core.sg (c : Core) (i : BitVec 5) : U64 := if i = 0#5 then 0#64 else Map.get z64 c.s i.toNat
def Core.setS (c : Core) (i : BitVec 5) (v : U64) : Core := if i = 0#5 then c else { c with s := Map.set z64 c.s i.toNat v }
def Core.ag (c : Core) (i : BitVec 4) : U64 := Map.get z64 c.a i.toNat
def Core.setA (c : Core) (i : BitVec 4) (v : U64) : Core := { c with a := Map.set z64 c.a i.toNat v }
/-- p[i]; p0 reads as all ones. -/
def Core.pr (c : Core) (i : BitVec 3) : U64 := if i = 0#3 then BitVec.allOnes 64 else Map.get z64 c.p i.toNat
def Core.setP (c : Core) (i : BitVec 3) (v : U64) : Core := if i = 0#3 then c else { c with p := Map.set z64 c.p i.toNat v }
def Core.vg (c : Core) (i : BitVec 5) : BitVec 2048 := Map.get (fun _ => 0#2048) c.v i.toNat
def Core.setV (c : Core) (i : BitVec 5) (v : BitVec 2048) : Core := { c with v := Map.set (fun _ => 0#2048) c.v i.toNat v }

/-- Word and tag of lane `j` of Leroth row `w`. -/
def Core.rowW (c : Core) (w j : Nat) : L576 := Map.get zw c.w (64 * w + j)
def Core.rowT (c : Core) (w j : Nat) : Byte := Map.get zb c.wtag (64 * w + j)
def Core.setRow (c : Core) (w j : Nat) (x : L576) (t : Byte) : Core :=
  { c with w := Map.set zw c.w (64 * w + j) x, wtag := Map.set zb c.wtag (64 * w + j) t }
def Core.rowSt (c : Core) (w : Nat) : RowSt := Map.get (fun _ => {}) c.wst w
def Core.setRowSt (c : Core) (w : Nat) (r : RowSt) : Core := { c with wst := Map.set (fun _ => {}) c.wst w r }

/-- Whether a slot with this header takes effect (R115). -/
def Core.takes (c : Core) (pg : BitVec 3) (pn : Bool) : Bool := (c.pr pg).getLsbD 0 != pn

/-! ### Special registers (R109) -/

def specialRegs : List Reg :=
  [TIL_CS_STATUS, TIL_CS_CAUSE, TIL_CS_EPC, TIL_CS_EADDR, TIL_CS_LR_EPC, TIL_CS_TILE_ID, TIL_CS_TILE_BASE, TIL_CS_EVT, TIL_CS_CYCLE,
   TIL_CS_RTIME, TIL_CS_VSEED, TIL_CS_VTID, TIL_CS_VFLAGS, TIL_CS_SHN_GRANT_LO, TIL_CS_SHN_GRANT_HI, TIL_CS_CMDARG]

/-- Special register `n` of tile `t`. -/
def special (t n : Nat) (s : State) : Nat :=
  match n with
  | 5 => rd TIL_CS_TILE_ID_rank t s * 256 + t % 256
  | 6 => 0x210000000000 + t * 0x400000
  | 8 => tileCycle t s
  | 9 => now s
  | _ => match specialRegs[n]? with
    | some r => regRaw r t s
    | none => 0

/-- MTSR to a register the core may write; reserved bits are ignored (R7). -/
def setSpecial (t n : Nat) (v : U64) (s : State) : State :=
  let x := v.toNat
  match n with
  | 0 => wr TIL_CS_STATUS_sov t x (wr TIL_CS_STATUS_dzero t (x / 2) (wr TIL_CS_STATUS_sig_lost t (x / 4) (wr TIL_CS_STATUS_sh_busy t (x / 8) s)))
  | 10 => wr TIL_CS_VSEED_val t x s
  | 11 => wr TIL_CS_VTID_val t x s
  | 12 => wr TIL_CS_VFLAGS_val t x s
  | _ => s

/-- Registers MTSR may write (R109). -/
def mtsrOk (n : Nat) : Bool := n == 0 || n == 10 || n == 11 || n == 12

/-! ### Results of the scalar slots (R119, R120) -/

/-- A result with the sticky flags it sets. -/
structure SRes where
  v : U64
  sov : Bool := false
  dzero : Bool := false
deriving DecidableEq, Repr

/-- A signed result and whether it differs from the exact one. -/
def signedRes (exact : Int) : SRes :=
  let v := BitVec.ofInt 64 exact
  { v := v, sov := v.toInt != exact }

/-- Leading zeros of a 64-bit value. -/
def clz64 (a : U64) : Nat := if a.toNat = 0 then 64 else 63 - topBit a.toNat

/-- Trailing zeros of a 64-bit value. -/
def ctz64 (a : U64) : Nat := ((List.range 64).find? fun i => a.getLsbD i).getD 64

def popc64 (a : U64) : Nat := ((List.range 64).filter fun i => a.getLsbD i).length

/-- The operation of a register form on the values of sa and sb. -/
def srRes (op : SrOp) (a b : U64) : SRes :=
  let sh := b.toNat % 64
  match op with
  | .add => signedRes (a.toInt + b.toInt)
  | .sub => signedRes (a.toInt - b.toInt)
  | .and => { v := a &&& b }
  | .or => { v := a ||| b }
  | .xor => { v := a ^^^ b }
  | .shl => { v := a <<< sh }
  | .shr => { v := a >>> sh }
  | .sra => { v := a.sshiftRight sh }
  | .min => { v := if a.toInt ≤ b.toInt then a else b }
  | .max => { v := if a.toInt ≤ b.toInt then b else a }
  | .minu => { v := if a.toNat ≤ b.toNat then a else b }
  | .maxu => { v := if a.toNat ≤ b.toNat then b else a }
  | .mul => signedRes (a.toInt * b.toInt)
  | .mulhs => { v := BitVec.ofInt 64 ((a.toInt * b.toInt) / 2 ^ 64) }
  | .mulhu => { v := BitVec.ofNat 64 (a.toNat * b.toNat / 2 ^ 64) }
  | .div => if b = 0#64 then { v := BitVec.allOnes 64, dzero := true } else signedRes (a.toInt.tdiv b.toInt)
  | .divu => if b = 0#64 then { v := BitVec.allOnes 64, dzero := true } else { v := BitVec.ofNat 64 (a.toNat / b.toNat) }
  | .rem => if b = 0#64 then { v := a, dzero := true } else { v := BitVec.ofInt 64 (a.toInt.tmod b.toInt) }
  | .remu => if b = 0#64 then { v := a, dzero := true } else { v := BitVec.ofNat 64 (a.toNat % b.toNat) }
  | .clz => { v := BitVec.ofNat 64 (clz64 a) }
  | .ctz => { v := BitVec.ofNat 64 (ctz64 a) }
  | .popc => { v := BitVec.ofNat 64 (popc64 a) }

/-- The register form of an immediate form (R119). -/
def siBase (op : SiOp) : SrOp :=
  match op with
  | .addi => .add
  | .subi => .sub
  | .andi => .and
  | .ori => .or
  | .xori => .xor
  | .shli => .shl
  | .shri => .shr
  | .srai => .sra
  | .muli => .mul

/-- A compare (R119). -/
def cmpRes (op : CmpOp) (a b : U64) : Bool :=
  match op with
  | .eq => a == b
  | .ne => a != b
  | .lt => decide (a.toInt < b.toInt)
  | .ltu => decide (a.toNat < b.toNat)
  | .le => decide (a.toInt ≤ b.toInt)
  | .leu => decide (a.toNat ≤ b.toNat)

/-- All ones when true, all zeros when false. -/
def allBits (b : Bool) : U64 := if b then BitVec.allOnes 64 else 0#64

def ppRes (op : PpOp) (a b : U64) : U64 :=
  match op with
  | .pand => a &&& b
  | .por => a ||| b
  | .pxor => a ^^^ b
  | .pandn => a &&& ~~~b

/-- A scalar result written with its flags. -/
def putS (t : Nat) (sd : BitVec 5) (r : SRes) (s : State) : State :=
  let s := modCore t (fun c => c.setS sd r.v) s
  let s := if r.sov then wr TIL_CS_STATUS_sov t 1 s else s
  if r.dzero then wr TIL_CS_STATUS_dzero t 1 s else s

/-- LIH: bits [63:47] replaced (R119). -/
def lihRes (old : U64) (imm : BitVec 17) : U64 := BitVec.ofNat 64 (old.toNat % 2 ^ 47 + imm.toNat * 2 ^ 47)

/-- Effects of the scalar slots; `c` is the core before the long word. -/
def runSr (t : Nat) (c : Core) (op : SrOp) (f : FSR) (s : State) : State := putS t f.sd (srRes op (c.sg f.sa) (c.sg f.sb)) s
def runSi (t : Nat) (c : Core) (op : SiOp) (f : FSI) (s : State) : State := putS t f.sd (srRes (siBase op) (c.sg f.sa) (f.imm.signExtend 64)) s
def runLi (t : Nat) (sd : BitVec 5) (imm : BitVec 47) (s : State) : State := putS t sd { v := imm.signExtend 64 } s
def runLih (t : Nat) (c : Core) (sd : BitVec 5) (imm : BitVec 17) (s : State) : State := putS t sd { v := lihRes (c.sg sd) imm } s
def runCmp (t : Nat) (c : Core) (op : CmpOp) (f : FPR) (s : State) : State := modCore t (fun q => q.setP f.pd (allBits (cmpRes op (c.sg f.sa) (c.sg f.sb)))) s
def runCmpi (t : Nat) (c : Core) (op : CmpOp) (f : FPI) (s : State) : State := modCore t (fun q => q.setP f.pd (allBits (cmpRes op (c.sg f.sa) (f.imm.signExtend 64)))) s
def runPp (t : Nat) (c : Core) (op : PpOp) (f : FPP) (s : State) : State := modCore t (fun q => q.setP f.pd (ppRes op (c.pr f.pa) (c.pr f.pb))) s
def runMfsr (t : Nat) (pre : State) (sd : BitVec 5) (num : BitVec 8) (s : State) : State := putS t sd { v := BitVec.ofNat 64 (special t num.toNat pre) } s
def runMtsr (t : Nat) (c : Core) (sa : BitVec 5) (num : BitVec 8) (s : State) : State := setSpecial t num.toNat (c.sg sa) s

end Sys2Proof.Machine
end

