-- ==== Sys2Proof/Machine/Vector.lean ====
section
/-! DEFINITION. The vector slot (R128 to R130, R145 to R156): operand checks and results of every vector instruction. -/

namespace Sys2Proof.Machine

/-- Lane `j` of a vector register, as a number. -/
def vlane (v : BitVec 2048) (j : Nat) : Nat := (v.extractLsb' (32 * j) 32).toNat

/-- `v` with the `w` bits from `lo` set to `x`. -/
def vput (v : BitVec 2048) (lo w x : Nat) : BitVec 2048 := BitVec.ofNat 2048 (setBits v.toNat lo w x)

/-- Whether lane `j` is active (R115). -/
def Core.active (c : Core) (pg : BitVec 3) (pn : Bool) (j : Nat) : Bool := (c.pr pg).getLsbD j != pn

/-- The active lanes. -/
def Core.lanes (c : Core) (pg : BitVec 3) (pn : Bool) : List Nat := (List.range 64).filter fun j => c.active pg pn j

/-- Slices a format allows (R129). -/
def sliceOk (fmt slice : Nat) : Bool :=
  match fmtBits fmt with
  | 8 => true
  | 16 => decide (slice ≤ 1)
  | _ => slice == 0

/-- The operand checks of R130: the exception code, if one is raised. -/
def vecCheck (c : Core) (op : VOp) (f : FV) (nActive : Nat) : Option Nat :=
  let ctl := f.ctl.toNat
  let fmt := ctlFmt ctl
  let conv := bits ctl 10 6 == 0 && decide (fmt ≤ 4) && !ctlCensus ctl && !ctlTscale ctl
  let acc := fun (n : Nat) =>
    let w := f.vd.toNat % 4
    let st := c.rowSt w
    if bits ctl 10 6 != 0 || decide (bits ctl 0 10 > 521) || (st.set && st.floor != bits ctl 0 10) then some 2
    else if st.count + n > 2 ^ 53 then some 6 else none
  match op with
  | .vcvt => if conv && decide (ctlMode ctl ≤ 5) && sliceOk fmt (f.imm.toNat % 4) then none else some 2
  | .vunpk => if conv && sliceOk fmt (f.imm.toNat % 4) then none else some 2
  | .vwrd => if conv && decide (ctlMode ctl ≤ 5) then none else some 2
  | .vacc => acc 1
  | .vacsq => acc 1
  | .vacx => acc nActive
  | .vmoment => if f.vd == 31#5 then some 2 else none
  | .vupd => if conv && decide (fmt ≤ 1) && (ctlMode ctl == 0 || ctlMode ctl == 5) && decide (f.imm.toNat % 16 ≤ 1) && f.vd.toNat % 2 == 0
      then none else some 2
  | _ => none

/-- A lane-by-lane fp32 result written to vd. -/
def vmap (t : Nat) (f : FV) (ls : List Nat) (g : Nat → Nat) (s : State) : State :=
  modCore t (fun c => c.setV f.vd (ls.foldl (fun v j => vput v (32 * j) 32 (g j)) (c.vg f.vd))) s

/-- Tag bits ORed into TIL_CS_VFLAGS. -/
def vflags (t : Nat) (b : Byte) (s : State) : State := wr TIL_CS_VFLAGS_val t (rd TIL_CS_VFLAGS_val t s ||| b.toNat) s

/-- SR draw for lane `j` with index base `b` (R154). -/
def vdraw (t : Nat) (pre : State) (mode b j stream : Nat) : Nat :=
  if mode = 5 then rng32 (rd TIL_CS_VSEED_val t pre) (rd TIL_CS_VTID_val t pre) (b + j) stream else 0

/-- An fp32 value copied, a NaN replaced (R147), with the special bit it sets (R62). -/
def copyEl (x : Nat) : Conv := ⟨if f32IsNan x then f32Nan else x, (plainTerm (decodeEl 1 x) 0).tag⟩

/-- Conversion of one fp32 value (R61, R63): encoding and tag. With fmt fp32 the lane is copied (R147). -/
def cvtEl (ctl draw x : Nat) : Conv :=
  if ctlFmt ctl = 1 then copyEl x else
  let p := plainTerm (decodeEl 1 x) 0
  let r := convEl (ctlFmt ctl) 0 (ctlRM ctl) (ctlSat ctl) draw p.val p.tag
  ⟨r.enc, r.tag ||| p.tag⟩

/-- Exact decoding of a packed element to fp32 (R147); an element of -0 gives +0 (R63), but fmt fp32 copies the lane. -/
def unpkEl (fmt x : Nat) : Conv :=
  if fmt = 1 then copyEl x else
  let p := plainTerm (decodeEl fmt x) 0
  ⟨(convEl 1 0 .rne false 0 p.val p.tag).enc, p.tag⟩

/-- Conversion of a row word with its tag (R148, R151): encoding, and the tag of the conversion with the special bit of the word. -/
def rowConv (ctl draw : Nat) (w : Int) (tg : Byte) : Conv :=
  let x := convEl (ctlFmt ctl) 0 (ctlRM ctl) (ctlSat ctl) draw w tg
  ⟨x.enc, x.tag ||| specTag (specOf tg)⟩

/-- The update of R51 in one lane, its conversion of w_new under the mode and saturate option of the control (R53): w_new, r_new, tag bits, with the bits that special inputs set (R62). -/
def updEl (wf rf mode : Nat) (sat : Bool) (draw w r d : Nat) : Nat × Nat × Byte :=
  let a := plainTerm (decodeEl wf w) 0
  let b := plainTerm (decodeEl rf r) 0
  let e := plainTerm (decodeEl 1 d) 0
  let tag := a.tag ||| b.tag ||| e.tag
  let sum := a.val + b.val + e.val
  let c := convEl wf 0 (if mode = 5 then .sr else .rne) sat draw sum tag
  if specOf tag != .fin then (c.enc, 0, c.tag ||| tag ||| specTag (specOf tag))
  else if hasTag c.tag tOvf then (c.enc, 0, c.tag)
  else
    let q := roundOut rf 0 .rne false 0 (sum - gridOf wf 0 c.enc)
    (c.enc, q.enc, c.tag ||| q.tag)

/-- Addends into a row (R151): word and tag of lane `k` take the terms. -/
def rowAdd (c : Core) (w k : Nat) (ts : List Term) : Core :=
  let (x, tg) := ts.foldl (fun (a : L576 × Byte) t => addTerm a.1 a.2 t) (c.rowW w k, c.rowT w k)
  c.setRow w k x tg

/-- Row state after an accumulate: floor recorded on first use, count raised (R130, R151). -/
def rowCount (c : Core) (w floor n : Nat) : Core :=
  let st := c.rowSt w
  c.setRowSt w { floor := if st.set then st.floor else floor, set := true, count := st.count + n }

/-- Effect of a vector instruction; `c` is the core and `pre` the state before the long word. -/
def runV (t : Nat) (pre : State) (pg : BitVec 3) (pn : Bool) (op : VOp) (f : FV) (s : State) : State :=
  let c := core t pre
  let ls := c.lanes pg pn
  let a := vlane (c.vg f.va)
  let b := vlane (c.vg f.vb)
  let d := vlane (c.vg f.vc)
  let ctl := f.ctl.toNat
  let fmt := ctlFmt ctl
  let w := fmtBits fmt
  let base := (c.sg f.vb).toNat
  let slice := f.imm.toNat % 4
  let row := f.vd.toNat % 4
  let floor := bits ctl 0 10
  match op with
  | .vadd => vmap t f ls (fun j => f32Add (a j) (b j)) s
  | .vsub => vmap t f ls (fun j => f32Sub (a j) (b j)) s
  | .vmul => vmap t f ls (fun j => f32Mul (a j) (b j)) s
  | .vfma => vmap t f ls (fun j => f32Fma (a j) (b j) (d j)) s
  | .vmin => vmap t f ls (fun j => f32Min (a j) (b j)) s
  | .vmax => vmap t f ls (fun j => f32Max (a j) (b j)) s
  | .vabs => vmap t f ls (fun j => f32Abs (a j)) s
  | .vneg => vmap t f ls (fun j => f32Neg (a j)) s
  | .vcmp =>
    let pd := f.vd.setWidth 3
    modCore t (fun q => q.setP pd (BitVec.ofNat 64 (ls.foldl (fun x j => setBits x j 1 (if f32Cmp (f.imm.toNat % 4) (a j) (b j) then 1 else 0)) (q.pr pd).toNat))) s
  | .vsel => vmap t f ls (fun j => if (c.pr (f.imm.setWidth 3)).getLsbD j then a j else b j) s
  | .vcvt =>
    let r := fun j => cvtEl ctl (vdraw t pre (ctlMode ctl) base j 1) (a j)
    let s := modCore t (fun q => q.setV f.vd (ls.foldl (fun v j => vput v (64 * w * slice + w * j) w (r j).enc) (q.vg f.vd))) s
    vflags t (ls.foldl (fun x j => x ||| (r j).tag) 0#8) s
  | .vunpk =>
    let r := fun j => unpkEl fmt (bits (c.vg f.va).toNat (64 * w * slice + w * j) w)
    vflags t (ls.foldl (fun x j => x ||| (r j).tag) 0#8) (vmap t f ls (fun j => (r j).enc) s)
  | .vexp2 => vflags t (ls.foldl (fun x j => x ||| (f32Exp2Att (a j)).tag) 0#8) (vmap t f ls (fun j => (f32Exp2Att (a j)).enc) s)
  | .vrcp => vmap t f ls (fun j => f32Rcp (a j)) s
  | .vrsqrt => vmap t f ls (fun j => f32Rsqrt (a j)) s
  | .vlog2 => vmap t f ls (fun j => f32Log2 (a j)) s
  | .vsigm => vmap t f ls (fun j => f32Sigm (a j)) s
  | .vacc => modCore t (fun q => rowCount (ls.foldl (fun q j => rowAdd q row j [plainTerm (decodeEl 1 (a j)) floor]) q) row floor 1) s
  | .vacsq => modCore t (fun q => rowCount (ls.foldl (fun q j => rowAdd q row j [squareTerm (decodeEl 1 (a j)) floor]) q) row floor 1) s
  | .vacx => modCore t (fun q => rowCount (rowAdd q row (f.imm.toNat % 64) (ls.map fun j => plainTerm (decodeEl 1 (a j)) floor)) row floor ls.length) s
  | .vwrd =>
    let r := fun j => rowConv ctl (vdraw t pre (ctlMode ctl) base j 1) (wordInt (c.rowW (f.va.toNat % 4) j)) (c.rowT (f.va.toNat % 4) j)
    vflags t (ls.foldl (fun x j => x ||| (r j).tag) 0#8) (vmap t f ls (fun j => (r j).enc) s)
  | .vwclr => modCore t (fun q => ((List.range 64).foldl (fun q j => q.setRow row j 0#576 0#8) q).setRowSt row {}) s
  | .vmoment =>
    let r := fun j => moment (wordInt (c.rowW (f.va.toNat % 4) j)) (c.rowT (f.va.toNat % 4) j)
      (wordInt (c.rowW (f.vb.toNat % 4) j)) (c.rowT (f.vb.toNat % 4) j) (c.sg f.vc).toNat
    let s := vmap t f ls (fun j => (r j).1) s
    let s := vmap t { f with vd := f.vd + 1#5 } ls (fun j => (r j).2.1) s
    vflags t (ls.foldl (fun x j => x ||| (r j).2.2) 0#8) s
  | .vrng => vmap t f ls (fun j => rng32 (rd TIL_CS_VSEED_val t pre) (rd TIL_CS_VTID_val t pre) (base + j) f.imm.toNat) s
  | .vupd =>
    let eb := (c.sg (BitVec.ofNat 5 (f.imm.toNat / 16))).toNat
    let r := fun j => updEl fmt (f.imm.toNat % 16) (ctlMode ctl) (ctlSat ctl) (vdraw t pre (ctlMode ctl) eb j 1) (a j) (b j) (d j)
    let s := vmap t f ls (fun j => (r j).1) s
    let s := vmap t { f with vd := f.vd + 1#5 } ls (fun j => (r j).2.1) s
    vflags t (ls.foldl (fun x j => x ||| (r j).2.2) 0#8) s

end Sys2Proof.Machine
end

