-- ==== Sys2Proof/Machine/Address.lean ====
section
/-! DEFINITION. The address slots (R124, R125): effective addresses, the checks of R112, loads, stores, atomics and address arithmetic. Accesses to the tile's own stores finish as they issue; others wait in the core's list of outstanding accesses (R113). -/

namespace Sys2Proof.Machine

/-- Access size of a load. -/
def ldSize (op : LdOp) : Nat :=
  match op with
  | .ldb => 1 | .ldbu => 1 | .ldh => 2 | .ldhu => 2 | .ldw => 4 | .ldwu => 4 | .ldd => 8

/-- A loaded value, extended as the load says (R125). -/
def ldValue (op : LdOp) (d : List Byte) : U64 :=
  let x := ofLe d
  match op with
  | .ldb => (BitVec.ofNat 8 x).signExtend 64
  | .ldh => (BitVec.ofNat 16 x).signExtend 64
  | .ldw => (BitVec.ofNat 32 x).signExtend 64
  | .ldbu => BitVec.ofNat 64 (x % 2 ^ 8)
  | .ldhu => BitVec.ofNat 64 (x % 2 ^ 16)
  | .ldwu => BitVec.ofNat 64 (x % 2 ^ 32)
  | .ldd => BitVec.ofNat 64 x

def stSize (op : StOp) : Nat :=
  match op with
  | .stb => 1 | .sth => 2 | .stw => 4 | .std => 8

/-- Bytes of a Leroth row in memory (R125). -/
def rowSize : Nat := 4672

/-- The effective address of a memory access of `2^sh` bytes (R124). The immediates of formats AM (33 bits) and AA (38 bits) are two's-complement, as R118 has those of slots 0 and 1 (DESIGN CHOICE, log entry 95). -/
def amEa (c : Core) (f : FAM) (sh : Nat) : U64 :=
  match f.mode.toNat with
  | 2 => c.ag f.aa
  | 3 => c.ag f.aa + (c.sg f.sx <<< sh)
  | _ => c.ag f.aa + f.imm.signExtend 64

/-- The update of aa (R124), if the mode has one. -/
def amUpdate (c : Core) (f : FAM) : Option U64 :=
  match f.mode.toNat with
  | 1 => some (c.ag f.aa + f.imm.signExtend 64)
  | 2 => some (c.ag f.aa + f.imm.signExtend 64)
  | _ => none

/-- A memory access of a slot: address, bytes covered, alignment, read, write, atomic. -/
structure Acc' where
  ea : U64
  len : Nat
  align : Nat
  r : Bool
  w : Bool
  amo : Bool := false
deriving DecidableEq, Repr

/-- The access an instruction makes, if it makes one. R125 gives WLD and WST no size but an alignment of 64 bytes, by which mode 3 scales its index (R124; DESIGN CHOICE, log entry 93). -/
def accOf (c : Core) (op : SlotOp) : Option Acc' :=
  match op with
  | .ld o f => some { ea := amEa c f (Nat.log2 (ldSize o)), len := ldSize o, align := ldSize o, r := true, w := false }
  | .st o f => some { ea := amEa c f (Nat.log2 (stSize o)), len := stSize o, align := stSize o, r := false, w := true }
  | .vld f => some { ea := amEa c f 8, len := 256, align := 256, r := true, w := false }
  | .vst f => some { ea := amEa c f 8, len := 256, align := 256, r := false, w := true }
  | .wld f => some { ea := amEa c f 6, len := rowSize, align := 64, r := true, w := false }
  | .wst f => some { ea := amEa c f 6, len := rowSize, align := 64, r := false, w := true }
  | .amo _ _ aa _ => some { ea := c.ag aa, len := 8, align := 8, r := true, w := true, amo := true }
  | _ => none

/-- Whether a slot takes effect (R115): VST with any active lane, the vector slot always, every other by bit 0. -/
def slotTakes (c : Core) (x : SlotIn) : Bool :=
  match x.op with
  | .vst _ => !(c.lanes x.pg x.pn).isEmpty
  | .v _ _ => true
  | _ => c.takes x.pg x.pn

/-- The checks of R112 in order, then watchpoints (R429): the exception code, if one is raised. -/
def accCheck (t : Nat) (a : Acc') (s : State) : Option Nat :=
  let ea := a.ea.toNat
  if ea % a.align != 0 || decide (ea ≥ 2 ^ 48) then some 3
  else if !mapped ea a.len s || (a.amo && !amoPlace ea s) then some 3
  else if !protOk (tileClass t s) ea a.len a.r a.w s || (a.w && progLocked ea a.len s) then some 4
  else
    match wpTop (wpHits 0 ea a.len a.r a.w s) s with
    | some k => if rd DBG_WP_BASE_action k s = 2 then some 12 else none
    | none => none

/-- A write to aa made by the slot. -/
def putA (t : Nat) (i : BitVec 4) (v : Option U64) (s : State) : State :=
  match v with
  | some v => modCore t (fun c => c.setA i v) s
  | none => s

/-- The row a WLD reads: 64 words of 72 bytes, then 64 tags; floor state clear (R125). -/
def rowLoad (c : Core) (w : Nat) (d : List Byte) : Core :=
  ((List.range 64).foldl (fun (q : Core) j =>
    q.setRow w j (BitVec.ofNat 576 (ofLe ((d.drop (72 * j)).take 72))) (d.getD (4608 + j) 0#8)) c).setRowSt w {}

/-- The bytes a WST writes. -/
def rowStore (c : Core) (w : Nat) : List Byte :=
  ((List.range 64).flatMap fun j => leBytes (c.rowW w j).toNat 72) ++ (List.range 64).map fun j => c.rowT w j

/-- The result of an access that read `d` goes to its register. -/
def accResult (t : Nat) (op : AccOp) (d : List Byte) (s : State) : State :=
  match op with
  | .load o sd => modCore t (fun c => c.setS sd (ldValue o d)) s
  | .vload vd => modCore t (fun c => c.setV vd (BitVec.ofNat 2048 (ofLe d))) s
  | .wload w => modCore t (fun c => rowLoad c w.toNat d) s
  | .amo _ sd _ => modCore t (fun c => c.setS sd (BitVec.ofNat 64 (ofLe d))) s
  | .store _ => s

/-- A load met data that the memory code marks uncorrectable (R135). Where an earlier memory error still waits for the boundary, the later one takes its place (DESIGN CHOICE, log entry 67). -/
def memError (t slot addr : Nat) (s : State) : State :=
  modCore t (fun c => { c with defer := some { code := 5, slot := slot, addr := some addr, lrEpc := none } }) s

/-- What has come back of an access as it issues: a store for a CXL port that is down is answered at once and stores nothing (R213); every other access is still to be performed. -/
def issuedDone (ea : Nat) (op : AccOp) (s : State) : Option (List Byte × Bool) :=
  match op, whereOf ea s with
  | .store _, .cxl p => if on MST_CXL_STATUS_link_up p s then none else some ([], true)
  | _, _ => none

/-- An access issued: performed at once in the tile's own stores, else outstanding. -/
def accIssue (t slot ea len : Nat) (op : AccOp) (s : State) : State :=
  if !ownStore t ea s then
    modCore t (fun c => { c with outst := c.outst ++ [{ slot := slot, addr := ea, len := len, op := op, done := issuedDone ea op s }] }) s
  else
  match op with
  | .store l => partFails t l s (rawWrite (tileClass t s) l s)
  | _ =>
    let (d, bad, s) := rawRead 6 ea len s
    if bad then notice (.failed t 2) (memError t slot ea s) else accResult t op d s

/-- Bytes of a VST: the active lanes alone (R125). -/
def vstBytes (c : Core) (x : SlotIn) (f : FAM) (ea : Nat) : List (Nat × Byte) :=
  (c.lanes x.pg x.pn).flatMap fun j => spread (ea + 4 * j) (leBytes (vlane (c.vg f.r) j) 4)

/-- Bytes an access writes. -/
def accWrites (c : Core) (x : SlotIn) (a : Acc') : Nat :=
  match x.op with
  | .vst _ => 4 * (c.lanes x.pg x.pn).length
  | _ => if a.w then a.len else 0

/-- The watchpoints a tile-core access hits, applied (R428). -/
def coreWatch (t : Nat) (a : Acc') (s : State) : State :=
  wpApply t (wpHits 0 a.ea.toNat a.len a.r a.w s) a.ea.toNat s

/-- Effect of an address slot, its watchpoints apart; `c` is the core before the long word. The update of modes 1 and 2 stands whatever the load meets (DESIGN CHOICE, log entry 87). -/
def runAddress (t : Nat) (c : Core) (x : SlotIn) (s : State) : State :=
  match accOf c x.op with
  | some a =>
    let ea := a.ea.toNat
    let s := modCore t (fun q => { q with loadBytes := q.loadBytes + (if a.r then a.len else 0), storeBytes := q.storeBytes + accWrites c x a }) s
    (match x.op with
     | .ld o f => putA t f.aa (amUpdate c f) (accIssue t x.k ea a.len (.load o f.r) s)
     | .st _ f => putA t f.aa (amUpdate c f) (accIssue t x.k ea a.len (.store (spread ea (leBytes (c.sg f.r).toNat a.len))) s)
     | .vld f => putA t f.aa (amUpdate c f) (accIssue t x.k ea a.len (.vload f.r) s)
     | .vst f => putA t f.aa (amUpdate c f) (accIssue t x.k ea a.len (.store (vstBytes c x f ea)) s)
     | .wld f => putA t f.aa (amUpdate c f) (accIssue t x.k ea a.len (.wload (f.r.setWidth 2)) s)
     | .wst f => putA t f.aa (amUpdate c f) (accIssue t x.k ea a.len (.store (spread ea (rowStore c (f.r.toNat % 4)))) s)
     | .amo o sd _ sx => accIssue t x.k ea a.len (.amo o sd (c.sg sx)) s
     | _ => s)
  | none =>
    match x.op with
    | .aaddi ad aa imm => modCore t (fun q => q.setA ad (c.ag aa + imm.signExtend 64)) s
    | .aadd ad aa sx => modCore t (fun q => q.setA ad (c.ag aa + c.sg sx)) s
    | .amovs ad sx => modCore t (fun q => q.setA ad (c.sg sx)) s
    | .smova sd aa => modCore t (fun q => q.setS sd (c.ag aa)) s
    | _ => s

/-! ### Outstanding accesses (R113, R117) -/

/-- Two accesses name a common byte. -/
def overlap (a b : Access) : Bool := decide (a.addr < b.addr + b.len) && decide (b.addr < a.addr + a.len)

/-- Entry `k` may take effect: no earlier access to its bytes is still to be performed (R113). -/
def mayPerform (l : List Access) (k : Nat) : Bool :=
  match l[k]? with
  | some a => a.done.isNone && !(l.take k).any fun b => b.done.isNone && overlap a b
  | none => false

def setOutst (t : Nat) (l : List Access) (s : State) : State := modCore t (fun c => { c with outst := l }) s

/-- Entry `k` of tile `t` performed where its address leads (R186): a store is done and leaves the list, a load or atomic keeps what it read. A store still outstanding to a CXL port that went down was posted to it before: it is lost and counted (R213). -/
def accLand (t k : Nat) (s : State) : State :=
  let l := (core t s).outst
  match l[k]? with
  | none => s
  | some a =>
    if !mayPerform l k then s else
    let cls := tileClass t s
    let down := anyDown a.addr a.len s
    match a.op with
    | .store b =>
      let s := setOutst t (l.eraseIdx k) s
      if down then (match whereOf a.addr s with
        | .cxl p => bump MST_CXL_LOST_count p 1 s
        | _ => s) else rawWrite cls b s
    | .amo o _ x =>
      let (c, old, s) := if down then (3, 0#64, s) else rawAmo cls o a.addr x s
      setOutst t (l.set k { a with done := some (leBytes old.toNat 8, c != 0) }) s
    | _ =>
      let (d, bad, s) := if down then ([], true, s) else rawRead cls a.addr a.len s
      setOutst t (l.set k { a with done := some (d, bad) }) s

/-- Whether entry `a` waits for the mirror of a sector it writes (R331). -/
def accWaits (a : Access) (s : State) : Bool :=
  match a.op with
  | .store b => writeWaits (sectorsOf b) s
  | .amo _ _ _ => writeWaits [sectorOf a.addr] s
  | _ => false

/-- Entry `k` of tile `t` performed, unless it waits for a mirror. -/
def accPerform (t k : Nat) (s : State) : State :=
  match (core t s).outst[k]? with
  | none => s
  | some a => if accWaits a s then s else accLand t k s

/-- The data of entry `k` comes back (R117): the register is written, or a memory error waits for the next boundary (R135); a store that was answered leaves the list, for it raises nothing. -/
def accReturn (t k : Nat) (s : State) : State :=
  let l := (core t s).outst
  match l[k]? with
  | none => s
  | some a =>
    match a.done with
    | none => s
    | some (d, bad) =>
      let s := setOutst t (l.eraseIdx k) s
      if bad then (match a.op with
        | .store _ => s
        | _ => memError t a.slot a.addr s) else accResult t a.op d s

end Sys2Proof.Machine
end

