-- ==== Sys2Proof/Machine/Slots.lean ====
section
/-! DEFINITION. The lane-row slot (R126, R127), the move/shunt slot (R131, R132) and the registers a slot names (R116). -/

namespace Sys2Proof.Machine

/-! ### Register names (R116): s 0-31, a 32-47, v 64-95, p 96-103, rows 104-107, special registers 112 and up -/

def nS (i : BitVec 5) : Nat := i.toNat
def nA (i : BitVec 4) : Nat := 32 + i.toNat
def nV (i : BitVec 5) : Nat := 64 + i.toNat
def nP (i : BitVec 3) : Nat := 96 + i.toNat
def nW (i : BitVec 5) : Nat := 104 + i.toNat % 4
def nX (i : BitVec 8) : Nat := 112 + i.toNat

/-- The destination an address mode adds. -/
def amDest (f : FAM) : List Nat := if f.mode == 1#2 || f.mode == 2#2 then [nA f.aa] else []

/-- The scalar register an address mode reads. -/
def amSrc (f : FAM) : List Nat := if f.mode == 3#2 then [nS f.sx] else []

/-- The pair vd and vd + 1; v31 has no second, and an instruction that names it there raises illegal-operand (R130). -/
def vPair (vd : BitVec 5) : List Nat := if vd = 31#5 then [nV vd] else [nV vd, nV (vd + 1#5)]

/-- Destinations of a vector instruction. -/
def vDests (o : VOp) (f : FV) : List Nat :=
  match o with
  | .vcmp => [nP (f.vd.setWidth 3)]
  | .vacc => [nW f.vd]
  | .vacsq => [nW f.vd]
  | .vacx => [nW f.vd]
  | .vwclr => [nW f.vd]
  | .vmoment => vPair f.vd
  | .vupd => vPair f.vd
  | _ => [nV f.vd]

/-- Sources of a vector instruction among the registers a load can leave pending. -/
def vSrcs (o : VOp) (f : FV) : List Nat :=
  match o with
  | .vfma => [nV f.va, nV f.vb, nV f.vc]
  | .vcvt => [nV f.va, nS f.vb]
  | .vunpk => [nV f.va]
  | .vabs => [nV f.va]
  | .vneg => [nV f.va]
  | .vexp2 => [nV f.va]
  | .vrcp => [nV f.va]
  | .vrsqrt => [nV f.va]
  | .vlog2 => [nV f.va]
  | .vsigm => [nV f.va]
  | .vacc => [nV f.va]
  | .vacsq => [nV f.va]
  | .vacx => [nV f.va]
  | .vwrd => [nW f.va, nS f.vb]
  | .vwclr => []
  | .vmoment => [nW f.va, nW f.vb, nS f.vc]
  | .vrng => [nS f.vb]
  | .vupd => [nV f.va, nV f.vb, nV f.vc, nS (BitVec.ofNat 5 (f.imm.toNat / 16))]
  | _ => [nV f.va, nV f.vb]

/-- The destination registers of a slot (R116). -/
def dests (op : SlotOp) : List Nat :=
  match op with
  | .sr _ f => [nS f.sd]
  | .si _ f => [nS f.sd]
  | .li sd _ => [nS sd]
  | .lih sd _ => [nS sd]
  | .cmp _ f => [nP f.pd]
  | .cmpi _ f => [nP f.pd]
  | .pp _ f => [nP f.pd]
  | .mfsr sd _ => [nS sd]
  | .mtsr _ n => [nX n]
  | .call _ sd => [nS sd]
  | .ld _ f => nS f.r :: amDest f
  | .st _ f => amDest f
  | .vld f => nV f.r :: amDest f
  | .vst f => amDest f
  | .wld f => nW f.r :: amDest f
  | .wst f => amDest f
  | .amo _ sd _ _ => [nS sd]
  | .aaddi ad _ _ => [nA ad]
  | .aadd ad _ _ => [nA ad]
  | .amovs ad _ => [nA ad]
  | .smova sd _ => [nS sd]
  | .lrstep f => (if f.inc then [nA f.aa] else []) ++ (if f.sinc then [nA f.ac] else [])
  | .v o f => vDests o f
  | .vins d _ _ => [nV d]
  | .vext d _ _ => [nS d]
  | .vsplat d _ => [nV d]
  | .vmov d _ => [nV d]
  | .pmovs d _ => [nP d]
  | .smovp d _ => [nS d]
  | .shstat d _ => [nS d]
  | _ => []

/-- The scalar, vector and row registers a slot reads. -/
def srcs (op : SlotOp) : List Nat :=
  match op with
  | .sr _ f => [nS f.sa, nS f.sb]
  | .si _ f => [nS f.sa]
  | .lih sd _ => [nS sd]
  | .cmp _ f => [nS f.sa, nS f.sb]
  | .cmpi _ f => [nS f.sa]
  | .mtsr sa _ => [nS sa]
  | .jmpr sa => [nS sa]
  | .loop _ sa => [nS sa]
  | .wait sa => [nS sa]
  | .evclr sa => [nS sa]
  | .ld _ f => amSrc f
  | .st _ f => nS f.r :: amSrc f
  | .vld f => amSrc f
  | .vst f => nV f.r :: amSrc f
  | .wld f => amSrc f
  | .wst f => nW f.r :: amSrc f
  | .amo _ _ _ sx => [nS sx]
  | .aadd _ _ sx => [nS sx]
  | .amovs _ sx => [nS sx]
  | .lrprep sa => [nS sa]
  | .v o f => vSrcs o f
  | .vins d a _ => [nV d, nS a]
  | .vext _ a _ => [nV a]
  | .vsplat _ a => [nS a]
  | .vmov _ a => [nV a]
  | .pmovs _ a => [nS a]
  | .sig a _ => [nS a]
  | _ => []

/-- Registers that outstanding loads and atomics will write. -/
def pendingRegs (c : Core) : List Nat :=
  c.outst.filterMap fun a => match a.op with
    | .load _ sd => some (nS sd)
    | .vload vd => some (nV vd)
    | .wload w => some (104 + w.toNat)
    | .amo _ sd _ => some (nS sd)
    | .store _ => none

/-! ### The lane-row slot (R126, R127) -/

/-- Whether a lane-row instruction goes to the queue. -/
def enqueued (op : SlotOp) : Bool :=
  match op with
  | .lrstep _ => true
  | .lrload _ => true
  | .lrprep _ => true
  | .lrdcfg _ => true
  | .lrclose _ => true
  | .lrdrain _ => true
  | .lrsusp _ => true
  | .lrrest _ => true
  | _ => false

/-- The registers captured at issue. -/
def captured (c : Core) (op : SlotOp) : U64 × U64 :=
  match op with
  | .lrstep f => (c.ag f.aa, c.ag f.ac)
  | .lrload f => (c.ag f.aa, c.ag f.ac)
  | .lrprep sa => (c.sg sa, 0#64)
  | .lrdcfg aa => (c.ag aa, 0#64)
  | .lrsusp aa => (c.ag aa, 0#64)
  | .lrrest aa => (c.ag aa, 0#64)
  | _ => (0#64, 0#64)

/-- Bytes of scale per step for a shared-operand format (R127). -/
def scaleStep (ofmt : Nat) : Nat :=
  if ofmt = 2 ∨ ofmt = 3 ∨ ofmt = 5 ∨ ofmt = 6 then 4 else if ofmt = 4 ∨ ofmt = 7 then 8 else 0

/-- Effect of the lane-row slot at issue: the entry joins the queue, the core's copies of ofmt and the registers of inc and sinc change. Where inc and sinc name one register the spec states no result: it takes a free value of the operands (log entry 13). -/
def runLane (t idx : Nat) (c : Core) (x : SlotIn) (s : State) : State :=
  if !enqueued x.op then s else
  let (c0, c1) := captured c x.op
  let s := modLr t (fun l => { l with queue := l.queue ++ [{ slot := x.word.toNat, c0 := c0, c1 := c1, idx := idx }] }) s
  match x.op with
  | .lrprep _ => modCore t (fun q => { q with ofmtPend := bits c0.toNat 4 4 }) s
  | .lrstep f =>
    let cur := if f.first then c.ofmtPend else c.ofmtCur
    let s := modCore t (fun q => { q with ofmtCur := cur }) s
    let u := c.ag f.aa + f.stride.signExtend 64
    let v := c.ag f.ac + BitVec.ofNat 64 (scaleStep cur)
    if f.inc && f.sinc && f.aa == f.ac then
      putA t f.aa (some (BitVec.ofNat 64 (Config.twoSums (c.ag f.aa).toNat u.toNat v.toNat))) s
    else putA t f.ac (if f.sinc then some v else none) (putA t f.aa (if f.inc then some u else none) s)
  | _ => s

/-! ### The move/shunt slot (R131) -/

/-- Whether channel `ch` is granted to tile `t`. -/
def granted (t ch : Nat) (s : State) : Bool :=
  if ch < 64 then (rd TIL_CS_SHN_GRANT_LO_val t s).testBit ch else (rd TIL_CS_SHN_GRANT_HI_val t s).testBit (ch - 64)

/-- Operand checks of the move/shunt slot: the exception code, if one is raised. Of an event bit above 47 and a channel not granted the first raises (DESIGN CHOICE, log entry 87). -/
def moveCheck (t : Nat) (op : SlotOp) (s : State) : Option Nat :=
  match op with
  | .shst ch _ evt b => if evt && decide (b.toNat > 47) then some 2 else if granted t ch.toNat s then none else some 0xA
  | .shstat _ ch => if granted t ch.toNat s then none else some 0xA
  | .shstop ch => if granted t ch.toNat s then none else some 0xA
  | .sig _ b => if b.toNat > 47 then some 2 else none
  | _ => none

/-- Effect of the move/shunt slot; `c` is the core before the long word. -/
def runMove (t : Nat) (c : Core) (op : SlotOp) (s : State) : State :=
  let low := fun (i : BitVec 5) => (c.sg i).toNat % 2 ^ 32
  match op with
  | .vins d a l => modCore t (fun q => q.setV d (vput (q.vg d) (32 * l.toNat) 32 (low a))) s
  | .vext d a l => modCore t (fun q => q.setS d (BitVec.ofNat 64 (vlane (c.vg a) l.toNat))) s
  | .vsplat d a => modCore t (fun q => q.setV d ((List.range 64).foldl (fun v j => vput v (32 * j) 32 (low a)) 0#2048)) s
  | .vmov d a => modCore t (fun q => q.setV d (c.vg a)) s
  | .pmovs d a => modCore t (fun q => q.setP d (c.sg a)) s
  | .smovp d a => modCore t (fun q => q.setS d (c.pr a)) s
  | .shst ch aa evt b => tileStart t ch.toNat ((c.ag aa).toNat % 2 ^ 48) (if evt then some b.toNat else none) s
  | .shstat d ch => modCore t (fun q => q.setS d (BitVec.ofNat 64 (regRaw SHN_CH_STATUS ch.toNat s))) s
  | .shstop ch => chStop ch.toNat s
  | .sig a b => { s with signals := s.signals ++ [{ src := t, dst := (c.sg a).toNat % 256, bit := b.toNat }] }
  | .sigh code => notice (.sigh t code.toNat) s
  | _ => s

/-- SIG_DELIVERY (R131): the oldest signal reaches its tile, or is discarded and sets sig_lost. -/
def deliver (k : Nat) (enabled : Nat → State → Bool) (s : State) : State :=
  match s.signals[k]? with
  | none => s
  | some g =>
    let s := { s with signals := s.signals.eraseIdx k }
    if enabled g.dst s then wrBit TIL_CS_EVT_val g.dst g.bit true s else wr TIL_CS_STATUS_sig_lost g.src 1 s

end Sys2Proof.Machine
end

