-- ==== Sys2Proof/Machine/Trace.lean ====
section
/-! DEFINITION. Observation writes and the instruction trace (R424 to R426). -/

namespace Sys2Proof.Machine

/-- Bytes left in the token bucket of die `d` (R426). -/
def tokens (d : Nat) (s : State) : Int := 65536 - Map.get (fun _ => (0 : Int)) s.bucket d

/-- An observation write takes its bytes (R426). -/
def spend (d n : Nat) (s : State) : State :=
  bump DBG_OBS_BYTES_count 0 n { s with bucket := Map.set (fun _ => (0 : Int)) s.bucket d (Map.get (fun _ => (0 : Int)) s.bucket d + n) }

/-- A record into the ring of die `d` (R425); a full ring without wrap stops the collector. -/
def traceWrite (d : Nat) (r : List Byte) (s : State) : State :=
  let size := 2 ^ (rd DBG_TRACE_CTL_size d s + 16)
  let off := rd DBG_TRACE_WP_offset d s
  let a := rd DBG_TRACE_BASE_base d s * 2 ^ 16 + off
  let s := spend d 16 (if mapped a 16 s then putBytes 6 a r s else s)
  if off + 16 < size then wr DBG_TRACE_WP_offset d (off + 16) s
  else if on DBG_TRACE_CTL_wrap d s then wr DBG_TRACE_WP_offset d 0 (wr DBG_TRACE_WP_wrapped d 1 s)
  else msix 244 (wr DBG_STATUS_event 0 1 (wr DBG_TRACE_CTL_enable d 0 (wr DBG_TRACE_CTL_stopped d 1 (wr DBG_TRACE_WP_offset d size s))))

/-- Whether tile `t` is traced (R424). -/
def traced (t : Nat) (s : State) : Bool :=
  let d := dieOfTile t
  on DBG_TRACE_CTL_enable d s && (List.range 8).any fun m => bits (rd DBG_TRACE_SEL_tile_m d s) (8 * m) 8 == t

/-- A record of core `src` into the trace of die `d` (R425), behind the gap record that tells of lost ones; dropped where the bucket is short (R426). Code 0x13 is the highest that box 201 takes: its entry follows the others of its cycle (R421), as the command ends. -/
def traceRecord (d src : Nat) (r : List Byte) (s : State) : State :=
  let (lost, first) := Map.get (fun _ => (0, 0)) s.traceLost d
  if tokens d s < (if lost = 0 then 16 else 32) then
    notice (.lost d (lost + 1)) (wr DBG_STATUS_dropped 0 1 (bump DBG_TRACE_LOST_count 0 1
      { s with traceLost := Map.set (fun _ => (0, 0)) s.traceLost d (lost + 1, if lost = 0 then src else first) }))
  else
    let s := if lost = 0 then s else
      traceWrite d (leBytes (2 ^ 26 + first * 2 ^ 27) 8 ++ leBytes lost 8) { s with traceLost := Map.set (fun _ => (0, 0)) s.traceLost d (0, 0) }
    if !on DBG_TRACE_CTL_enable d s then s else traceWrite d r s

/-- The trace record of a long word of tile `t` (R424, R425). -/
def traceWord (t idx slots : Nat) (taken exc : Bool) (s : State) : State :=
  if !traced t s then s else
  let n := fun (b : Bool) => if b then 1 else 0
  traceRecord (dieOfTile t) t
    (leBytes (idx % 65536 + slots * 2 ^ 16 + n taken * 2 ^ 24 + n exc * 2 ^ 25 + t * 2 ^ 27 + (min (core t s).heldCycles 65535) * 2 ^ 36) 8
      ++ leBytes (tileCycle t s) 8) s

/-- Whether station-master core `k` is traced: core `k % 2` of die `k / 2` (R424, R434). -/
def smTracing (k : Nat) (s : State) : Bool := on DBG_TRACE_CTL_enable (k / 2) s && (rd DBG_TRACE_CTL_sm (k / 2) s).testBit (k % 2)

/-- An instruction of station-master core `k` retires (R424). The manual gives no instruction set of these cores: its program address, the cycles it was held, and the cycles before a core's first record are free values (log entry 63). -/
def smRetireAs (k : Nat) (s : State) : State :=
  if !smTracing k s then s else
  let (pc, s) := takeFree s
  let (held, s) := takeFree s
  let (since, s) := takeFree s
  let gap := (Map.get (fun _ => none) s.smTraced k).elim since fun c => s.cycle - c
  traceRecord (k / 2) (168 + k)
    (leBytes ((168 + k) * 2 ^ 27 + held % 65536 * 2 ^ 36) 8 ++ leBytes (pc % 2 ^ 48 + min gap 65535 * 2 ^ 48) 8)
    { s with smTraced := Map.set (fun _ => none) s.smTraced k (some s.cycle) }

/-- `n` instructions of core `k` retire. -/
def smRetires (k n : Nat) (s : State) : State := (List.range n).foldl (fun s _ => smRetireAs k s) s

/-- Core `k` does something that a command shows, by a free number of instructions, one at least (log entry 63). -/
def smActs (k : Nat) (s : State) : State :=
  if !smTracing k s then s else
  let (n, s) := takeFree s
  smRetires k (n + 1) s

/-- An access of a station-master core retires, of which core is a free value. -/
def smRetire (s : State) : State :=
  if !(List.range 4).any fun k => smTracing k s then s else
  let (f, s) := takeFree s
  smActs (f % 4) s

/-- The core of ring `k` acts: it fetches or dispatches a command, writes what dispatching it or its end writes, or sends its orders (R366, R374, R424, R451). How many instructions this takes is a free value, one at least (log entry 63). -/
def ringRetire (k : Nat) (s : State) : State := smActs (k % 4) s

/-- The instructions that each station-master core retires of itself in one cycle (R424): how many is a free value (log entry 63). -/
def smCycle (s : State) : State :=
  (List.range 4).foldl (fun s k => if !smTracing k s then s else (let (n, s) := takeFree s; smRetires k n s)) s

end Sys2Proof.Machine
end

