-- ==== Sys2Proof/Machine/Issue.lean ====
section
/-! DEFINITION. Issue of long words (R114 to R117): decoding faults, operand exceptions, holds, effects, branches and loops (R121, R122), exceptions (R134 to R136), END (R123), FENCE (R132), and the control writes of R143. -/

namespace Sys2Proof.Machine

def coreState (t : Nat) (s : State) : Nat := rd TIL_CORE_STATUS_state t s
def setCoreState (t v : Nat) (s : State) : State := wr TIL_CORE_STATUS_state t v s
def nextIx (t : Nat) (s : State) : Nat := rd TIL_CORE_STATUS_next_index t s
/-- The next index; one that does not fit the field stays above 2,047. -/
def setNext (t n : Nat) (s : State) : State := wr TIL_CORE_STATUS_next_index t (min n 65535) s

/-- Address of the default record of the lane row (R103). -/
def saveAddr (t : Nat) (s : State) : Nat := rd TIL_LR_SAVE_ADDR_save_addr t s * 512

/-! ### Exceptions (R134 to R136) -/

/-- Codes for which the lane row is suspended too (R136). -/
def suspends (code slot : Nat) : Bool := slot != 5 && (code == 1 || code == 3 || code == 4 || code == 5 || code == 0xA)

/-- The core stops with its next long word unissued (R135): EPC holds that word's index. -/
def stopCore (t : Nat) (s : State) : State :=
  let s := wr TIL_CS_EPC_val t (nextIx t s) (setCoreState t 3 s)
  modCore t (fun c => { c with hold := none, stepping := false, heldTotal := c.heldTotal + c.heldCycles, heldCycles := 0 }) s

/-- TAKING AN EXCEPTION (R135, R136, R142): the core stops at the raising long word, its cause is recorded and sent to the signal box, and the lane row is suspended where R136 says so. -/
def raiseExc (t code slot : Nat) (deferred : Bool) (addr lrEpc : Option Nat) (s : State) : State :=
  let s := stopCore t s
  let s := wr TIL_CS_CAUSE_code t code (wr TIL_CS_CAUSE_slot t slot (wr TIL_CS_CAUSE_deferred t (if deferred then 1 else 0)
    (wr TIL_CS_CAUSE_valid t 1 (wr TIL_CS_CAUSE_lr_suspended t 0 s))))
  let s := match addr with
    | some a => wr TIL_CS_EADDR_val t a s
    | none => s
  let s := match lrEpc with
    | some a => wr TIL_CS_LR_EPC_val t a s
    | none => s
  let s := event t 0x03 code (rd TIL_CS_EPC_val t s) s
  let s := if suspends code slot then
      (match suspendStart t (saveAddr t s) s with
       | (0, s) => wr TIL_CS_CAUSE_lr_suspended t 1 s
       | (1, s) => wr TIL_CS_CAUSE_lr_suspended t 1 s
       | (3, s) => modLr t (fun l => { l with heldExc := true }) s
       | (_, s) => s)
    else s
  notice (.stopped t) s

/-- The deferred exception that waits, if one does: the core's own before the lane row's. -/
def pendingDefer (t : Nat) (s : State) : Option Defer :=
  match (core t s).defer with
  | some d => some d
  | none => (lrow t s).exc

/-- The deferred exception is taken at this boundary (R135). -/
def takeDefer (t : Nat) (s : State) : State :=
  match (core t s).defer with
  | some d => raiseExc t d.code d.slot true d.addr d.lrEpc (modCore t (fun c => { c with defer := none }) s)
  | none =>
    match (lrow t s).exc with
    | some d => raiseExc t d.code d.slot true d.addr d.lrEpc (modLr t (fun l => { l with exc := none }) s)
    | none => s

/-! ### Decoding faults (R115, R116, R122) -/

/-- A loop-rule fault of the branch slot at index `idx`. A LOOP that finds four loops held is one too many whatever its count, 0 included (R122; DESIGN CHOICE, log entry 93). -/
def loopFault (c : Core) (idx : Nat) (x : SlotIn) : Bool :=
  c.takes x.pg x.pn &&
  match x.op with
  | .loop e _ => decide (e.toNat ≤ idx) || decide (c.loops.length ≥ 4)
  | .loopi e _ => decide (e.toNat ≤ idx) || decide (c.loops.length ≥ 4)
  | .lpop => c.loops.isEmpty
  | _ => false

/-- The lowest slot with a decoding fault (R135); `bad` lists the slots that did not decode. A slot that did not decode names no destination, so that it conflicts with none (DESIGN CHOICE, log entry 87). -/
def decFault (c : Core) (idx : Nat) (bad : List Nat) (ws : List SlotIn) : Option Nat :=
  (List.range 8).find? fun k => bad.contains k || ws.any fun x => x.k == k &&
    (!x.wf || loopFault c idx x || ws.any fun y => decide (y.k > k) && (dests x.op).any fun d => (dests y.op).contains d)

/-! ### Operand exceptions (R130, R131, R134) -/

/-- The precise exception of one slot at issue: code, and the address of EADDR. -/
def slotFault (t : Nat) (c : Core) (x : SlotIn) (s : State) : Option (Nat × Option Nat) :=
  if !slotTakes c x then none else
  let no := fun (o : Option Nat) => o.map fun code => (code, (none : Option Nat))
  match x.op with
  | .mfsr _ n => if n.toNat < 16 then none else some (1, none)
  | .mtsr _ n => if n.toNat ≥ 16 then some (1, none) else if mtsrOk n.toNat then none else some (0xA, none)
  | .jmp a => if a.toNat > 2047 then some (3, none) else none
  | .call a _ => if a.toNat > 2047 then some (3, none) else none
  | .jmpr a => if (c.sg a).toNat % 65536 > 2047 then some (3, none) else none
  | .wait a => if c.sg a = 0#64 then some (2, none) else none
  | .brk _ => some (0xB, none)
  | .v o f => no (vecCheck c o f (c.lanes x.pg x.pn).length)
  | .shst _ _ _ _ => no (moveCheck t x.op s)
  | .shstat _ _ => no (moveCheck t x.op s)
  | .shstop _ => no (moveCheck t x.op s)
  | .sig _ _ => no (moveCheck t x.op s)
  | _ =>
    match accOf c x.op with
    | some a => (accCheck t a s).map fun code => (code, some (a.ea.toNat % 2 ^ 48))
    | none => none

/-- The lowest slot that raises: slot, code, address. -/
def opFault (t : Nat) (c : Core) (ws : List SlotIn) (s : State) : Option (Nat × Nat × Option Nat) :=
  (List.range 8).findSome? fun k => ws.findSome? fun x =>
    if x.k == k then (slotFault t c x s).map fun f => (k, f.1, f.2) else none

/-! ### Holds -/

/-- The lane row is suspended and not yet restored, or becoming so (R137). -/
def lrSuspended (t : Nat) (s : State) : Bool := on TIL_LR_STATUS_suspended t s || (lrow t s).suspBusy.isSome

/-- Drains ordered before a FENCE (R132): running or waiting, to be ordered by the queue, or gone with a suspension into the record or the replay buffer (R95, R137). -/
def drainsAhead (t : Nat) (s : State) : Bool :=
  let l := lrow t s
  let orders := (((core t s).replay ++ l.queue).foldl (fun (a : Bool × Nat) c =>
    match capOp c with
    | 3 => (a.1, c.c0.toNat)
    | 5 => (a.1 || !bit c.slot 12, a.2)
    | 6 => (true, a.2)
    | 1 => (a.1 || (bit c.slot 38 && pHand a.2 == 1), a.2)
    | _ => a) (false, l.pending)).1
  l.run.isSome || l.waiting.isSome || (on TIL_LR_STATUS_suspended t s && l.drainAway) || orders

/-- FENCE may pass (R113, R132). -/
def fenceOk (t : Nat) (kind : Nat) (s : State) : Bool :=
  ((kind == 1) || (core t s).outst.isEmpty) && ((kind == 0) || !drainsAhead t s)

/-- A slot's hold: none, or the state the core shows while it waits (R144): 2 for WAIT, LRSYNC, END and R137, else 1. A slot whose predicate fails holds nothing, a lane-row one under R137 included (DESIGN CHOICE, log entry 87). -/
def slotHold (t : Nat) (c : Core) (x : SlotIn) (s : State) : Option Nat :=
  if !c.takes x.pg x.pn then none else
  match x.op with
  | .wait a => if rd TIL_CS_EVT_val t s &&& (c.sg a).toNat = 0 then some 2 else none
  | .fin _ => some 2
  | .lrnop => none
  | .lrrest _ => if (lrow t s).queue.length ≥ 8 then some 1 else none
  | .lrsync => if lrSuspended t s || !rowQuiet t s then some 2 else none
  | .fence k => if fenceOk t k.toNat s then none else some 1
  | .shst _ _ _ _ => if c.outst.any fun a => (match a.op with | .store _ => true | .amo _ _ _ => true | _ => false) then some 1 else none
  | op => if enqueued op then (if lrSuspended t s then some 2 else if (lrow t s).queue.length ≥ 8 then some 1 else none) else none

/-- A register the long word names awaits an outstanding access (R117). -/
def interlocked (c : Core) (ws : List SlotIn) : Bool :=
  let p := pendingRegs c
  ws.any fun x => (dests x.op ++ srcs x.op).any fun r => p.contains r

/-- The hold of a long word, the state 2 kinds first. -/
def wordHold (t : Nat) (c : Core) (ws : List SlotIn) (s : State) : Option Nat :=
  let hs := ws.filterMap fun x => slotHold t c x s
  if hs.contains 2 then some 2 else if !hs.isEmpty then some 1 else none

/-! ### Effects -/

/-- Effect of one slot; `pre` and `c` are the state and the core before the long word (R116). -/
def runSlot (t idx : Nat) (pre : State) (c : Core) (x : SlotIn) (s : State) : State :=
  if !slotTakes c x then s else
  match x.op with
  | .sr o f => runSr t c o f s
  | .si o f => runSi t c o f s
  | .li sd i => runLi t sd i s
  | .lih sd i => runLih t c sd i s
  | .cmp o f => runCmp t c o f s
  | .cmpi o f => runCmpi t c o f s
  | .pp o f => runPp t c o f s
  | .mfsr sd n => runMfsr t pre sd n s
  | .mtsr sa n => runMtsr t c sa n s
  | .call _ sd => modCore t (fun q => q.setS sd (BitVec.ofNat 64 (idx + 1))) s
  | .evclr a => wr TIL_CS_EVT_val t (rd TIL_CS_EVT_val t s &&& (~~~(c.sg a)).toNat) s
  | .v o f => runV t pre x.pg x.pn o f s
  | op =>
    if x.k == 3 || x.k == 4 then runAddress t c x s
    else if x.k == 5 then runLane t idx c x s
    else if x.k == 7 then runMove t c op s
    else s

/-- The branch slot: a taken target, if any, and the loops held after it (R121, R122). -/
def branchFlow (c : Core) (idx : Nat) (ws : List SlotIn) : Option Nat × List Loop :=
  match ws.find? fun x => x.k == 2 && c.takes x.pg x.pn with
  | none => (none, c.loops)
  | some x =>
    let start := fun (e n : Nat) => if n = 0 then (some (e + 1), c.loops) else (none, { start := idx + 1, fin := e, count := n } :: c.loops)
    match x.op with
    | .jmp a => (some a.toNat, c.loops)
    | .call a _ => (some a.toNat, c.loops)
    | .jmpr a => (some ((c.sg a).toNat % 65536), c.loops)
    | .loop e a => start e.toNat ((c.sg a).toNat % 2 ^ 32)
    | .loopi e n => start e.toNat n.toNat
    | .lpop => (none, c.loops.tail)
    | _ => (none, c.loops)

/-- The end of the innermost loop, and of those that share it (R122): next index and loops held. -/
def loopEnds (idx : Nat) : List Loop → Nat × List Loop
  | [] => (idx + 1, [])
  | l :: r =>
    if l.fin ≠ idx then (idx + 1, l :: r)
    else if l.count > 1 then (l.start, { l with count := l.count - 1 } :: r)
    else loopEnds idx r

/-- END completes (R123): the core is idle, its loops are released, its code is reported. -/
def endCore (t code : Nat) (s : State) : State :=
  let s := setCoreState t 0 s
  let s := modCore t (fun c => { c with loops := [], hold := none, stepping := false, heldTotal := c.heldTotal + c.heldCycles, heldCycles := 0 }) s
  notice (.ended t code) s

/-- The watchpoints that the accesses of a long word hit, applied behind its effects: the events of one cycle are written in ascending code order (R421, R428). -/
def wordWatch (t : Nat) (c : Core) (ws : List SlotIn) (s : State) : State :=
  ws.foldl (fun s x => if !slotTakes c x then s else match accOf c x.op with
    | some a => coreWatch t a s
    | none => s) s

/-- The slots of a long word in the order their effects are written: every slot reads the state before the word (R116), and slot 0 comes last, since its MTSR is a software write, which wins over a bit that another slot sets in that cycle (R6, R110). -/
def slotOrder : List Nat := [1, 2, 3, 4, 5, 6, 7, 0]

/-- A long word issues: its slots take effect, then the index moves (R116, R121, R122). -/
def doIssue (t : Nat) (ws : List SlotIn) (s : State) : State :=
  let c := core t s
  let idx := nextIx t s
  let pre := s
  let s := slotOrder.foldl (fun s k => ws.foldl (fun s x => if x.k == k then runSlot t idx pre c x s else s) s) s
  let s := wordWatch t c ws s
  let (target, loops) := branchFlow c idx ws
  let (next, loops) := match target with
    | some n => (n, loops)
    | none => loopEnds idx loops
  let mask := (List.range 8).foldl (fun m k => if ws.any fun x => x.k == k && x.op != .nop && x.op != .lrnop && slotTakes c x then m + 2 ^ k else m) 0
  let s := traceWord t idx mask target.isSome false s
  let s := modCore t (fun q => { q with loops := loops, longWords := q.longWords + 1, heldTotal := q.heldTotal + q.heldCycles, heldCycles := 0, hold := none }) s
  let s := setCoreState t 1 (setNext t next s)
  match ws.find? fun x => x.k == 2 && c.takes x.pg x.pn with
  | some ⟨_, _, _, .fin code⟩ => endCore t code.toNat s
  | _ => if (core t s).stepping then stopCore t s else s

/-- A precise exception, with the refusal of R201 or the watchpoint hits of R429 it stands for. -/
def precise (t k code : Nat) (addr : Option Nat) (c : Core) (ws : List SlotIn) (s : State) : State :=
  let s := if traced t s then traceWord t (nextIx t s) 0 false true s else s
  let acc := (ws.find? fun x => x.k == k).bind fun x => accOf c x.op
  let s := match acc with
    | some a => if code = 4 then protRefused (tileClass t s) a.ea.toNat a.w s else s
    | none => s
  let s := raiseExc t code k false addr none s
  match acc with
  | some a => if code = 12 then coreWatch t a s else s
  | none => s

/-- A long word at issue: a deferred exception, a fetch above 2,047 (R114), a decoding fault, an operand exception, a hold, or its effects. `force` is set where END completes. -/
def issue (t : Nat) (force : Bool) (bad : List Nat) (ws : List SlotIn) (s : State) : State :=
  let c := core t s
  let idx := nextIx t s
  let held := fun (v : Nat) (s : State) => setCoreState t v (modCore t (fun q => { q with hold := some ws }) s)
  if (pendingDefer t s).isSome then takeDefer t s
  else if idx > 2047 then raiseExc t 3 2 false none none s
  else
    match decFault c idx bad ws with
    | some k => precise t k 1 none c [] s
    | none =>
      if interlocked c ws then held 1 s else
      match opFault t c ws s with
      | some (k, code, addr) => precise t k code addr c ws s
      | none =>
        match if force then none else wordHold t c ws s with
        | some v => held v s
        | none => doIssue t ws s

/-- A slot instruction of tile `t`: a long word with that instruction alone; one that the slot does not admit (R115) does not decode. Only a running core that holds none issues. -/
def slot (t k : Nat) (pg : BitVec 3) (pn : Bool) (op : SlotOp) (s : State) : State :=
  let x : SlotIn := ⟨k, pg, pn, op⟩
  if coreState t s == 1 && (core t s).hold.isNone then (if x.wf then issue t false [] [x] s else issue t false [k] [] s) else s

/-- The held long word is tried again. -/
def retry (t : Nat) (s : State) : State :=
  match (core t s).hold with
  | some ws =>
    if coreState t s != 1 && coreState t s != 2 then s else
    issue t false [] ws (setCoreState t 1 (modCore t (fun c => { c with hold := none }) s))
  | none => s

/-- An instruction with a release of its own that holds its long word in core state `st`: WAIT, LRSYNC and END in state 2, FENCE in state 1. -/
def ownRelease (st : Nat) (op : SlotOp) : Bool :=
  match op with
  | .wait _ => st == 2
  | .lrsync => st == 2
  | .fin _ => st == 2
  | .fence _ => st == 1
  | _ => false

/-- Whether the held long word waits at an instruction that `p` selects: its predicate holds, and no register it names is awaited. -/
def waitsAt (t : Nat) (p : SlotOp → Bool) (s : State) : Bool :=
  match (core t s).hold with
  | some ws => !interlocked (core t s) ws && ws.any fun x => (core t s).takes x.pg x.pn && p x.op
  | none => false

/-- The held long word is tried again unless it waits at an instruction with a release of its own. -/
def retryPlain (t : Nat) (s : State) : State := if waitsAt t (ownRelease (coreState t s)) s then s else retry t s

/-- Whether the held long word holds an instruction that `p` selects. -/
def holds (t : Nat) (p : SlotOp → Bool) (s : State) : Bool :=
  match (core t s).hold with
  | some ws => ws.any fun x => p x.op
  | none => false

/-- A lane-row exception or a drain stop is taken at END (R123): a stopped drain raises drain-fault. -/
def endBlocked (t : Nat) (s : State) : Bool := (stoppedDrain t 0 s).isSome || (stoppedDrain t 1 s).isSome

/-- END_COMPLETE (R123). A drain-fault taken here leaves TIL_CS_EADDR and TIL_CS_LR_EPC as they were, as one taken at a waiting FENCE does: no access and no instruction ahead of it raised it (DESIGN CHOICE, log entry 67). -/
def endComplete (t : Nat) (s : State) : State :=
  if !waitsAt t (fun o => match o with | .fin _ => true | _ => false) s || coreState t s != 2 then s
  else if (pendingDefer t s).isSome then takeDefer t s
  else if endBlocked t s then raiseExc t 8 5 true none none s
  else if !rowQuiet t s || !(core t s).outst.isEmpty then s
  else
    match (core t s).hold with
    | some ws =>
      if (ws.any fun x => match x.op with | .fin _ => false | _ => (slotHold t (core t s) x s).isSome) then s else
      issue t true [] ws (setCoreState t 1 (modCore t (fun c => { c with hold := none }) s))
    | none => s

/-- A drain that stops while the core waits at a FENCE of its kind ends the wait with drain-fault (R132). -/
def fenceStop (t : Nat) (s : State) : State :=
  if waitsAt t (fun o => match o with | .fence k => k != 0#2 | _ => false) s then
    modCore t (fun c => { c with defer := if c.defer.isSome then c.defer else some { code := 8, slot := 5, addr := none, lrEpc := none } }) s
  else s

/-- A suspension held behind a restore is taken once that ends (R449). Where the restore was refused and left the row suspended, it takes no action, and a save that asked for it uses the record already written. -/
def takeHeld (t : Nat) (s : State) : State :=
  if !(lrow t s).suspHeld || (lrow t s).restBusy.isSome || coreState t s == 6 then s else
  let mark := fun (s : State) => if (lrow t s).heldExc then wr TIL_CS_CAUSE_lr_suspended t 1 (modLr t (fun l => { l with heldExc := false }) s) else s
  match suspendStart t (if coreState t s == 4 then (core t s).saveLr.getD (saveAddr t s) else saveAddr t s) (modLr t (fun l => { l with suspHeld := false }) s) with
  | (0, s) => mark s
  | (1, s) => mark s
  | (r, s) =>
    let s := if r == 4 && s.power.rows.contains t then throttleRefused t s else s
    let s := if r == 2 then
        { s with power := { s.power with rows := s.power.rows.filter (· != t) } }
      else s
    let s := if r == 2 && coreState t s == 4 then modCore t (fun c => { c with saveLr := some ((lrow t s).suspAddr.getD (saveAddr t s)) }) s else s
    let s := if (lrow t s).heldExc then modLr t (fun l => { l with heldExc := false }) s else s
    if coreState t s == 4 && (lrow t s).suspBusy.isNone && !on TIL_LR_STATUS_suspended t s then
      notice (.saveFailed t) (wr TIL_CORE_STATUS_ctx_fault t 2 (wr TIL_CORE_STATUS_ctx_fault_valid t 1 (setCoreState t 3 s))) else s

/-! ### Control (R143) -/

/-- The long word at the next index, as fetched from the program buffer: slots that do not decode, and the others. -/
def fetchWord (t : Nat) (s : State) : List Nat × List SlotIn × Bool × State :=
  let (d, bad, s) := rawRead 6 (winAddr t (0x200000 + 64 * nextIx t s)) 64 s
  let w := fun (k : Nat) => BitVec.ofNat 64 (recNat d (8 * k) 8)
  ((List.range 8).filter fun k => (decodeSlot k (w k)).isNone, (List.range 8).filterMap fun k => decodeSlot k (w k), bad, s)

/-- A control write that does not fit the core's state is ignored and recorded. -/
def ctlIgnored (t : Nat) (s : State) : State := event t 0x02 0 (TIL_CORE_CONTROL.off t 0) s

/-- A failed tile is stopped and isolated (R352). -/
def failedTile (t : Nat) (s : State) : Bool := rd ITG_TILE_CTRL_state t s == 4

/-- CORE_RUN. -/
def coreRun (t : Nat) (s : State) : State :=
  let go := fun (s : State) => wr TIL_CS_CAUSE_valid t 0 (setCoreState t 1 (modCore t (fun c => { c with hold := none, stepping := false }) s))
  if coreState t s = 0 then go (setNext t (rd TIL_CORE_START_start t s) s)
  else if coreState t s = 3 then go (setNext t (rd TIL_CS_EPC_val t s) s)
  else ctlIgnored t s

/-- A core stopped for a save goes on from there, and steps on where it was stepped. This is no run that software orders: the cause held stays valid. -/
def coreGoOn (t : Nat) (step : Bool) (s : State) : State :=
  if coreState t s != 3 then s else
  setNext t (rd TIL_CS_EPC_val t s) (setCoreState t 1 (modCore t (fun c => { c with hold := none, stepping := step }) s))

/-- CORE_HALT: also ends a WAIT (R133). -/
def coreHalt (t : Nat) (s : State) : State :=
  if coreState t s == 1 || coreState t s == 2 then stopCore t s else ctlIgnored t s

/-- The long word at the next index is fetched and issued (R114); one with a double-bit error in the program buffer fails the tile. -/
def fetchIssue (t : Nat) (s : State) : State :=
  if nextIx t s > 2047 then issue t false [] [] s else
  ascending t (rd DBG_BOX_HEAD_count t s) <|
  let (bad, ws, err, s) := fetchWord t s
  if err then notice (.failed t 2) (stopCore t s) else issue t false bad ws s

/-- CORE_STEP: one long word is fetched and issued from a stopped core, which then stops again. The cause held stays valid: only a run clears it (R142). -/
def coreStep (t : Nat) (s : State) : State :=
  if coreState t s != 3 then ctlIgnored t s else
  let s := setCoreState t 1 (setNext t (rd TIL_CS_EPC_val t s) s)
  fetchIssue t (modCore t (fun c => { c with stepping := true, hold := none }) s)

/-- A cycle of a running core that holds no long word: its next one issues. -/
def coreCycle (t : Nat) (s : State) : State := if coreState t s == 1 && (core t s).hold.isNone then fetchIssue t s else s

/-! ### Context save and restore (R138 to R140) -/

def ctxFault (t code : Nat) (s : State) : State := wr TIL_CORE_STATUS_ctx_fault t code (wr TIL_CORE_STATUS_ctx_fault_valid t 1 s)
def ctxAddr (t : Nat) (s : State) : Nat := rd TIL_CORE_CTX_ADDR_ctx_addr t s * 512

/-- A save begins (R138): the core stops issuing, and its lane row is suspended to `lrA`, its context to go to `ctxA`. 0 begun, 1 joined or already saved, 2 refused. -/
def saveStart (t lrA ctxA : Nat) (s : State) : Nat × State :=
  let st := coreState t s
  if st == 4 || st == 5 then (1, s) else
  let s := stopCore t s
  let finish := fun (a : Nat) (s : State) => setCoreState t 4 (modCore t (fun c => { c with saveLr := some a, recAddr := some ctxA }) s)
  match suspendStart t lrA s with
  | (0, s) => (0, finish lrA s)
  | (1, s) => (0, finish ((lrow t s).suspBusy.getD lrA) s)
  | (2, s) => (0, finish ((lrow t s).suspAddr.getD lrA) s)
  | (3, s) => (0, finish lrA s)
  | (_, s) => (2, notice (.saveFailed t) (ctxFault t 2 s))

/-- CORE_SAVE: a register write of save. -/
def coreSave (t : Nat) (s : State) : State :=
  let st := coreState t s
  if st == 0 || st == 6 || st == 4 || st == 5 then ctlIgnored t s
  else (saveStart t (saveAddr t s) (ctxAddr t s) s).2

/-- The context record of R139, its header apart. -/
def ctxBody (t : Nat) (s : State) : List Byte :=
  let c := core t s
  let q := fun (n : Nat) => leBytes n 8
  let r5 := fun (n : Nat) => (BitVec.ofNat 5 n : BitVec 5)
  q (c.saveLr.getD 0) ++ q (regRaw TIL_CS_STATUS t s) ++ q (rd TIL_CS_VSEED_val t s)
  ++ q (rd TIL_CS_VTID_val t s + rd TIL_CS_VFLAGS_val t s * 2 ^ 32) ++ q (rd TIL_CS_EVT_val t s) ++ leBytes 0 16
  ++ ((List.range 4).flatMap fun k => match c.loops[k]? with
      | some l => q (l.start + l.fin * 2 ^ 16 + l.count * 2 ^ 32) ++ q 0
      | none => leBytes 0 16)
  ++ ((List.range 8).flatMap fun i => q (c.pr (BitVec.ofNat 3 i)).toNat) ++ leBytes 0 64
  ++ ((List.range 32).flatMap fun i => q (c.sg (r5 i)).toNat)
  ++ ((List.range 16).flatMap fun i => q (c.ag (BitVec.ofNat 4 i)).toNat) ++ leBytes 0 128
  ++ ((List.range 8).flatMap fun k => match c.replay[k]? with
      | some e => q e.slot ++ q e.c0.toNat ++ q e.c1.toNat ++ q e.idx
      | none => leBytes 0 32)
  ++ ((List.range 32).flatMap fun i => leBytes (c.vg (r5 i)).toNat 256)
  ++ ((List.range 256).flatMap fun k => leBytes (c.rowW (k / 64) (k % 64)).toNat 72)
  ++ ((List.range 256).map fun k => c.rowT (k / 64) (k % 64))
  ++ ((List.range 4).flatMap fun w => let r := c.rowSt w; q (r.floor + if r.set then 2 ^ 15 else 0) ++ q r.count)

/-- The header of the context record. -/
def ctxHeader (t : Nat) (s : State) : List Byte :=
  leBytes (1 + 2 ^ 16 + t * 2 ^ 24 + nextIx t s * 2 ^ 32 + (core t s).loops.length * 2 ^ 48 + (core t s).replay.length * 2 ^ 52) 8

/-- A deferred exception that waits as the save of its core ends is taken at the boundary at which the save stopped the core (R14, R135): a record carries none. A possession gives its tile the exception back (`Poss.defer`). -/
def saveTake (t : Nat) (s : State) : State := if (pendingDefer t s).isSome && !underPoss t s then setCoreState t 4 (takeDefer t s) else s

/-- CONTEXT_SAVE_COMPLETE (R138 steps 3 and 4): once the lane row is suspended and every access has landed, the record is written, header last. -/
def saveDone (t : Nat) (s : State) : State :=
  if coreState t s != 4 || (lrow t s).suspBusy.isSome || (lrow t s).suspHeld || (lrow t s).restBusy.isSome || !(core t s).outst.isEmpty then s else
  let a := (core t s).recAddr.getD (ctxAddr t s)
  let cls := tileClass t s
  let s := saveTake t s
  let fail := fun (s : State) => notice (.saveFailed t) (ctxFault t 2 (setCoreState t 3 s))
  if a % 512 != 0 || !mapped a 0x6D40 s then fail s
  else if !protOk cls a 0x6D40 false true s || progLocked a 0x6D40 s then fail (protRefused cls a true s)
  else if anyDown a 0x6D40 s then fail s
  else
    let s := putBytes cls a (ctxHeader t s) (putBytes cls (a + 8) (ctxBody t s) s)
    notice (.saved t) (setCoreState t 5 s)

/-- A tile whose core and lane row may take a context (R140). -/
def restorable (t : Nat) (s : State) : Bool := (coreState t s == 0 || coreState t s == 5) && rowEmpty t s

/-- CORE_RESTORE (R140): a restore from `a` begins, or is refused with ctx_fault 3. -/
def restoreCore (t a : Nat) (s : State) : Nat × State :=
  if !restorable t s then (3, ctxFault t 3 s)
  else (0, setCoreState t 6 (modCore t (fun c => { c with recAddr := some a, back := coreState t s }) s))

/-- CORE_RESTORE: a register write of restore; one that finds a core neither idle nor saved is recorded too (R143). -/
def coreRestore (t : Nat) (s : State) : State :=
  (restoreCore t (ctxAddr t s) (if coreState t s == 0 || coreState t s == 5 then s else ctlIgnored t s)).2

/-- A replay entry holds a lane-row instruction as R126 encodes it. -/
def replayOk (d : List Byte) (k : Nat) : Bool :=
  match decodeSlot 5 (BitVec.ofNat 64 (recNat d (0x300 + 32 * k) 8)) with
  | some x => enqueued x.op
  | none => false

/-- The core a context record describes. -/
def coreOf (d : List Byte) (old : Core) : Core :=
  let q := fun (o : Nat) => recNat d o 8
  let h := q 0
  let put := fun {V : Type} [DecidableEq V] (df : Nat → V) (l : List Nat) (f : Nat → V) => l.foldl (fun (m : Map V) i => Map.set df m i (f i)) []
  { old with
    loops := (List.range (bits h 48 3)).map fun k => let x := q (0x40 + 16 * k); { start := bits x 0 16, fin := bits x 16 16, count := bits x 32 32 }
    p := put z64 ((List.range 8).drop 1) fun i => BitVec.ofNat 64 (q (0x80 + 8 * i))
    s := put z64 ((List.range 32).drop 1) fun i => BitVec.ofNat 64 (q (0x100 + 8 * i))
    a := put z64 (List.range 16) fun i => BitVec.ofNat 64 (q (0x200 + 8 * i))
    replay := (List.range (bits h 52 4)).map fun k => { slot := q (0x300 + 32 * k), c0 := BitVec.ofNat 64 (q (0x308 + 32 * k)),
                                                         c1 := BitVec.ofNat 64 (q (0x310 + 32 * k)), idx := recNat d (0x318 + 32 * k) 2 }
    v := put (fun _ => 0#2048) (List.range 32) fun i => BitVec.ofNat 2048 (recNat d (0x400 + 256 * i) 256)
    w := put zw (List.range 256) fun k => BitVec.ofNat 576 (recNat d (0x2400 + 72 * k) 72)
    wtag := put zb (List.range 256) fun k => d.getD (0x6C00 + k) 0#8
    wst := put (fun _ => ({} : RowSt)) (List.range 4) fun w =>
      let x := q (0x6D00 + 16 * w); { floor := bits x 0 10, set := bit x 15, count := q (0x6D08 + 16 * w) }
    hold := none, outst := [], defer := none, stepping := false, saveLr := none, recAddr := none, src := bits h 24 8 }

/-- CONTEXT_RESTORE_COMPLETE (R140): both records read and checked before anything changes; a refused restore leaves the core in the state it had. A header that names more loops or replay entries than a core holds is refused with ctx_fault 1 (DESIGN CHOICE, log entry 87). -/
def restoreCoreDone (t : Nat) (s : State) : State :=
  if coreState t s != 6 then s else
  let a := (core t s).recAddr.getD (ctxAddr t s)
  let cls := tileClass t s
  let refuse := fun (code : Nat) (s : State) =>
    notice (.restored t) (ctxFault t code (setCoreState t (core t s).back (modCore t (fun c => { c with recAddr := none }) s)))
  if a % 512 != 0 then refuse 2 s else
  let (c1, d, s) := memRead cls unwatched a 0x6D40 s
  if c1 != 0 then refuse 2 (ownMet t a 0x6D40 c1 s)
  else if bits (recNat d 0 8) 16 8 != 1 || bits (recNat d 0 8) 52 4 > 8 || bits (recNat d 0 8) 48 3 > 4
      || !(List.range (bits (recNat d 0 8) 52 4)).all (replayOk d) then refuse 1 s
  else
    let la := recNat d 8 8
    if la % 512 != 0 || la ≥ 2 ^ 48 then refuse 2 s else
    let (c2, r, s) := memRead cls unwatched la 0x52600 s
    if c2 != 0 then refuse 2 (ownMet t la 0x52600 c2 s)
    else if bits (lrRec r 0 8) 16 8 != 1 then refuse 1 s
    else if !rowEmpty t s then refuse 3 s
    else
      let h := recNat d 0 8
      let cur := bits (lrRec r 0x28 8) 4 4
      let pend := bits (lrRec r 0x30 8) 4 4
      let s := modCore t (fun c => { coreOf d c with ofmtCur := cur, ofmtPend := pend }) s
      let s := applyRow t r s
      let st := recNat d 0x10 8
      let s := wr TIL_CS_STATUS_sov t (bits st 0 1) (wr TIL_CS_STATUS_dzero t (bits st 1 1) (wr TIL_CS_STATUS_sig_lost t (bits st 2 1) (wr TIL_CS_STATUS_sh_busy t (bits st 3 1) s)))
      let s := wr TIL_CS_VSEED_val t (recNat d 0x18 8) (wr TIL_CS_VTID_val t (recNat d 0x20 4) (wr TIL_CS_VFLAGS_val t (recNat d 0x24 1) (wr TIL_CS_EVT_val t (recNat d 0x28 8) s)))
      let s := wr TIL_CS_EPC_val t (bits h 32 16) (setNext t (bits h 32 16) (setCoreState t 3 s))
      notice (.restored t) s

/-! ### A control write of several actions (R143) -/

/-- The actions of `l` whose bit of `x` is set, in order; those behind a save or restore that has begun wait for its end. -/
def ctlActs (t x : Nat) : List (Nat × (State → State)) → State → State
  | [], s => s
  | (k, act) :: r, s =>
    if !bit x k then ctlActs t x r s else
    let u := act s
    if (coreState t u == 4 || coreState t u == 6) && coreState t u != coreState t s then
      modCore t (fun c => { c with ctl := x % 32 - x % 2 ^ (k + 1) }) u
    else ctlActs t x r u

/-- A control write; a failed tile takes none (R352). -/
def ctlTake (t : Nat) (act : State → State) (s : State) : State := if failedTile t s then ctlIgnored t s else act s

/-- TIL_CORE_CONTROL written: run, halt, save, restore, step, in ascending bit order. -/
def coreControl (t x : Nat) : State → State :=
  ctlTake t <| ctlActs t x [(0, afterLock (coreRun t)), (1, coreHalt t), (2, coreSave t), (3, coreRestore t), (4, afterLock (coreStep t))]

/-- The actions that waited for a save or restore, once it has ended. -/
def ctlGo (t : Nat) (s : State) : State :=
  let x := (core t s).ctl
  if x = 0 ∨ coreState t s = 4 ∨ coreState t s = 6 then s
  else coreControl t x (modCore t (fun c => { c with ctl := 0 }) s)

end Sys2Proof.Machine
end

