-- ==== Sys2Proof/Machine/Express.lean ====
section
/-! DEFINITION. The express units (R164 to R183): vector loads, matrix-vector commands, slabs, chunks, partial words and conversion. -/

namespace Sys2Proof.Machine

/-! ### Descriptors (R170, R171) -/

def lSrc (d : List Byte) : Nat := bits (recNat d 0 8) 0 48
def lPitch (d : List Byte) : Nat := bits (recNat d 8 8) 0 24
def lK (d : List Byte) : Nat := 256 * (bits (recNat d 8 8) 24 7 + 1)
def lSlot (d : List Byte) : Nat := bits (recNat d 8 8) 31 4
def lCount (d : List Byte) : Nat := bits (recNat d 8 8) 35 4 + 1

def xW (d : List Byte) : Nat := bits (recNat d 0 8) 0 48
def xFmt (d : List Byte) : Nat := bits (recNat d 0 8) 48 4
def xS (d : List Byte) : Nat := bits (recNat d 8 8) 0 48
def xRows (d : List Byte) : Nat := bits (recNat d 0x10 8) 0 20 + 1
def xK (d : List Byte) : Nat := 256 * (bits (recNat d 0x10 8) 20 7 + 1)
def xVecs (d : List Byte) : Nat := bits (recNat d 0x10 8) 27 4 + 1
def xBase (d : List Byte) : Nat := bits (recNat d 0x10 8) 31 4
def xPitch (d : List Byte) : Nat := bits (recNat d 0x10 8) 35 12 * 4096
def xScale (d : List Byte) : Nat := bits (recNat d 0x10 8) 47 8
def xOut (d : List Byte) : Nat := bits (recNat d 0x18 8) 0 48
def xOutPitch (d : List Byte) : Nat := bits (recNat d 0x20 8) 0 40
def xFloor (d : List Byte) : Nat := bits (recNat d 0x20 8) 40 10
def xFloorAddr (d : List Byte) : Nat := bits (recNat d 0x28 8) 0 48
def xConv (d : List Byte) : Nat := recNat d 0x30 2
def xTid (d : List Byte) : Nat := recNat d 0x34 4
def xStat (d : List Byte) : Nat := bits (recNat d 0x38 8) 0 48
def xSeed (d : List Byte) : Nat := recNat d 0x40 8
def xElem (d : List Byte) : Nat := recNat d 0x48 8
def xCensus (d : List Byte) : Nat := bits (recNat d 0x50 8) 0 48
def xHist (d : List Byte) : Nat := bits (recNat d 0x58 8) 0 48
def xTag (d : List Byte) : Nat := bits (recNat d 0x60 8) 0 48

/-- R173 for a vector load. -/
def loadLegal (d : List Byte) : Bool :=
  lSrc d % 256 == 0 && lPitch d % 256 == 0 && decide (lSlot d + lCount d ≤ 16) && recNat d 0 8 / 2 ^ 48 == 0 && recNat d 8 8 / 2 ^ 39 == 0 &&
  recNat d 0x10 8 == 0 && recNat d 0x18 8 == 0

/-- Bytes of a row of weights. -/
def xRowBytes (d : List Byte) : Nat := xK d * fmtBits (xFmt d) / 8

/-- Chunks of a row (R168). -/
def xChunks (d : List Byte) : Nat := (xRowBytes d + 4095) / 4096

def kOfSlot (q v : Nat) (s : State) : Nat := Map.get (fun _ => 0) s.expK (16 * q + v)

/-- R173 for a matrix-vector command of queue `q`. R173 refuses a wscale for an unscaled format only: with a block-scaled one it is ignored (DESIGN CHOICE, log entry 86). A matrix outside the GDDR7 tier, whose chunks no station owns, and a block-scaled output, for which the descriptor holds no scale array, are refused too. -/
def mvLegal (q : Nat) (d : List Byte) (s : State) : Bool :=
  let f := xFmt d
  let c := xConv d
  decide (f ≤ 7) && f != 1 && xW d % 4096 == 0 && decide (xBase d + xVecs d ≤ 16) && decide (xRowBytes d ≤ xPitch d) &&
  (xScale d == 127 || fmtBlock f || f == 2 || f == 3 || f == 4) && (xS d == 0 || fmtBlock f) &&
  xOutPitch d % 64 == 0 && decide (xFloor d ≤ 521) && ctlLegal c && !fmtBlock (ctlFmt c) && (!ctlTscale c || ctlCensus c) &&
  (!ctlCensus c || xCensus d % 64 == 0) && (!ctlTscale c || xHist d % 64 == 0) &&
  ((List.range (xVecs d)).all fun v => decide (xK d ≤ kOfSlot q (xBase d + v) s)) &&
  decide (xW d + (xRows d - 1) * xPitch d + xRowBytes d ≤ gddrSize s) &&
  recNat d 0 8 / 2 ^ 52 == 0 && recNat d 8 8 / 2 ^ 48 == 0 && recNat d 0x10 8 / 2 ^ 55 == 0 && recNat d 0x18 8 / 2 ^ 48 == 0 &&
  recNat d 0x20 8 / 2 ^ 50 == 0 && recNat d 0x28 8 / 2 ^ 48 == 0 && bits (recNat d 0x30 8) 16 16 == 0 && recNat d 0x38 8 / 2 ^ 48 == 0 &&
  (ctlFmt c != 8 || xOut d % 8 == 0) && recNat d 0x50 8 / 2 ^ 48 == 0 && recNat d 0x58 8 / 2 ^ 48 == 0 && recNat d 0x60 8 / 2 ^ 48 == 0 && (d.drop 0x68).all fun b => b == 0#8

/-! ### Units and commands -/

def xcmd (q : Nat) (s : State) : Option XCmd := Map.get (fun _ => none) s.xcmds q
def setXcmd (q : Nat) (x : Option XCmd) (s : State) : State := { s with xcmds := Map.set (fun _ => none) s.xcmds q x }
def xunit (u : Nat) (s : State) : XUnit := Map.get (fun _ => {}) s.xunits u
def setXunit (u : Nat) (x : XUnit) (s : State) : State := { s with xunits := Map.set (fun _ => {}) s.xunits u x }
def busyFld (q : Nat) : Fld := if q = 0 then MST_EXP_STATUS_train_busy else MST_EXP_STATUS_siding_busy

/-- Something done for every unit. -/
def allUnits (f : Nat → State → State) (s : State) : State := (List.range 28).foldl (fun s u => f u s) s

def xSlabs (d : List Byte) : Nat := (xRows d + 255) / 256

/-- Station of chunk `c` of row `r`. -/
def xOwner (d : List Byte) (r c : Nat) : Nat := stOf (xW d + r * xPitch d + c * 4096)

/-- The unit that collects row `r` (R168). -/
def collector (d : List Byte) (r : Nat) : Nat := xOwner d r 0

/-- Units that own a chunk of row `r`. -/
def rowOwners (d : List Byte) (r : Nat) : List Nat := ((List.range (xChunks d)).map fun c => xOwner d r c).eraseDups

/-- Rows of slab `b`. -/
def slabRows (d : List Byte) (b : Nat) : List Nat := (List.range (min 256 (xRows d - 256 * b))).map fun i => 256 * b + i

/-- Chunks of slab `b` that unit `u` streams, rows in order. -/
def slabChunks (d : List Byte) (u b : Nat) : List (Nat × Nat) :=
  (slabRows d b).flatMap fun r => ((List.range (xChunks d)).filter fun c => xOwner d r c == u).map fun c => (r, c)

/-- Every unit has streamed every slab of the queue's command: its last chunk has been read (R174). -/
def lastChunkRead (q : Nat) (s : State) : Bool :=
  match xcmd q s with
  | none => true
  | some x => (List.range 28).all fun u => Map.get (fun _ => 0) x.next u == xSlabs x.desc && !((xunit u s).cur.any fun c => c.1 == q)

/-- A vector load (R170): every vector read and written into its slot in every unit, which wakes for it (R407); 0 or the status of the read that failed, with its address. -/
def vectorLoad (q : Nat) (d : List Byte) (s : State) : Nat × Nat × State :=
  let s := allUnits wakeIsl s
  (List.range (lCount d)).foldl (fun (r : Nat × Nat × State) v =>
    if r.1 != 0 then r else
    let a := lSrc d + v * lPitch d
    match memRead q (fromExpress (stOf a)) a (2 * lK d) r.2.2 with
    | (0, b, s) =>
      let slot := 16 * q + lSlot d + v
      let m := Map.drop (fun k => k / 32768 == slot) s.expVec
      let m := (List.range (lK d)).foldl (fun m e => Map.set (fun _ => 0) m (32768 * slot + e) (recNat b (2 * e) 2)) m
      (0, 0, { s with expVec := m, expK := Map.set (fun _ => 0) s.expK slot (lK d) })
    | (c, _, s) => (if c = 1 then 11 else c, a, s)) (0, 0, s)

/-- Every unit holds `status` as that of the command that ended last (R183). A command that ended with status address shows 11, its completion's code, which R183's table does not list (DESIGN CHOICE, log entry 95). -/
def lastExpStatus (status : Nat) : State → State :=
  allUnits fun u s => wr MST_EXP_STATUS_last_status u status (wr MST_EXP_STATUS_status_valid u 1 s)

/-- The command enters the command slot of every unit; a unit asleep with its station wakes (R407). -/
def mvStart (q : Nat) (d : List Byte) (cmd : Nat) (s : State) : State :=
  allUnits (fun u s => wr (busyFld q) u 1 (wakeIsl u s)) (setXcmd q (some { desc := d, cmd := cmd }) s)

/-- The command of queue `q` ends with a status (R183, R375) and leaves every unit. -/
def mvEnd (q status addr : Nat) (s : State) : State :=
  match xcmd q s with
  | none => s
  | some x =>
    let s := setXcmd q none { s with xparts := s.xparts.filter fun p => p.q != q }
    let s := allUnits (fun u s =>
      let n := xunit u s
      let n := if n.cur.any fun c => c.1 == q then { n with cur := none, chunks := [], words := [], tags := [] } else n
      let s := setXunit u { n with halves := n.halves.filter fun h => h.1 != q } s
      wr (busyFld q) u 0 s) s
    let s := lastExpStatus status s
    let s := if ctlTscale (xConv x.desc) && x.scale.isSome then setHistStep (xHist x.desc) none s else s
    { s with notices := s.notices ++ [.expressDone x.cmd status addr] }

/-- The command of queue `q` stops before its end (R173, R175): the elements it has written are counted (R68), where its census record can be read; it appends nothing to its history record, for its tensor is not whole. -/
def mvStop (u q status addr : Nat) (s : State) : State :=
  match xcmd q s with
  | none => s
  | some x =>
    if !ctlCensus (xConv x.desc) || x.census.elements = 0 then mvEnd q status addr s else
    match recRead q (fromExpress u) (xCensus x.desc) 704 s with
    | (0, cd, s) => mvEnd q status addr (censusAdd q (xCensus x.desc) x.census cd s)
    | (_, _, s) => mvEnd q status addr s

/-- Once every slab is converted the command completes: census and history records once (R172, R447). -/
def mvCheckDone (u q : Nat) (s : State) : State :=
  match xcmd q s with
  | none => s
  | some x =>
    let d := x.desc
    let c := xConv d
    if !(lastChunkRead q s && (List.range 28).all fun u => !((xunit u s).halves.any fun h => h.1 == q)) then s
    else if !ctlCensus c then mvEnd q x.status 0 s
    else
      match recRead q (fromExpress u) (xCensus d) 704 s with
      | (0, cd, s) =>
        if !ctlTscale c then mvEnd q x.status 0 (censusAdd q (xCensus d) x.census cd s) else
        (match recRead q (fromExpress u) (xHist d) 64 s with
         | (0, hd, s) =>
           if !histLegal hd then mvEnd q 1 (xHist d) s else
           let s := censusAdd q (xCensus d) x.census cd s
           let top := recNat (cells (xCensus d + 0x58) 8 s) 0 8
           let stt := BitVec.ofNat 8 (bits top 16 8)
           mvEnd q x.status 0 (histAppend q (xHist d) (bits top 0 10) (!bit top 10) (hasTag stt tOvf) stt hd s)
         | (e, _, s) => mvEnd q (if e = 1 then 11 else e) (xHist d) s)
      | (e, _, s) => mvEnd q (if e = 1 then 11 else e) (xCensus d) s

/-! ### Conversion (R172) -/

/-- The bytes of one output element; a 4-bit one keeps the other half of its byte, as the decoder of its sector gives it (R190, R191). -/
def elemWrite (cls fmt base i enc : Nat) (s : State) : Nat × List Byte :=
  if fmtBits fmt = 4 then
    let a := base + i / 2
    let o := ((rawRead cls a 1 s).1.headD 0#8).toNat
    (a, [BitVec.ofNat 8 (setBits o (4 * (i % 2)) 4 enc)])
  else (base + i * (fmtBits fmt / 8), leBytes enc (fmtBits fmt / 8))

/-- One collected word converted and written; a refusal gives its status and address. -/
def convertOne (u q : Nat) (d : List Byte) (k : Int) (r v : Nat) (w : L576) (tg : Byte) (s : State) : OutEl × Option (Nat × Nat) × State :=
  let c := xConv d
  let fmt := ctlFmt c
  let idx := (xElem d + v * xRows d + r) % 2 ^ 64
  let draw := if ctlRM c == .sr then rng32 (xSeed d) (xTid d) idx 1 else 0
  let e := outEl c k draw 0 0 64 0 (wordInt w) tg
  let base := xOut d + v * xOutPitch d
  let ws := if fmt = 8 then [(base + r * 72, leBytes e.enc 72), (xTag d + v * xRows d + r, [e.tag])] else [elemWrite q fmt base r e.enc s]
  let (res, s) := ws.foldl (fun (a : Option (Nat × Nat) × State) x =>
    if a.1.isSome then a else
    match memWrite q (fromExpress u) x.1 x.2 a.2 with
    | (0, s) => (none, s)
    | (n, s) => (some (if n = 1 then 11 else n, x.1), s)) (none, s)
  (e, res, s)

/-- EXPRESS_SLAB_CONVERT: unit `u` converts the rows of slab `b` it collects, writes the status bytes, and frees its half. A conversion under a tensor scale waits while another step of its history record is open (R72). -/
def slabConvert (u q b : Nat) (s : State) : State :=
  match xcmd q s with
  | none => s
  | some x =>
    let d := x.desc
    let c := xConv d
    let n := xunit u s
    let mine := (slabRows d b).filter fun r => collector d r == u
    let full := mine.all fun r => (List.range (xVecs d)).all fun v => Map.get (fun _ => 0) x.got (16 * r + v) == (rowOwners d r).length
    if !(n.halves.any fun h => h == (q, b, true)) || !full then s else
    let free := fun (s : State) => let n := xunit u s
                                   mvCheckDone u q (setXunit u { n with halves := n.halves.filter fun h => !(h.1 == q && h.2.1 == b) } s)
    if mine.isEmpty then free s
    else if ctlTscale c && x.scale.isNone && histBusy (xHist d) (168 + q) d s then s else
    let (st, a, sc, s) := if !ctlTscale c then (0, 0, 127, s) else match x.scale with
      | some k => (0, 0, k, s)
      | none => takeScaleOf q (fromExpress u) (xHist d) (xCensus d) (ctlFmt c) (168 + q) s
    if st != 0 then mvStop u q (if st = 5 then 1 else if st = 1 then 11 else st) a s else
    let k : Int := if ctlTscale c then scaleK sc else 0
    let (x, err, s) := (mine.flatMap fun r => (List.range (xVecs d)).map fun v => (r, v)).foldl
      (fun (a : XCmd × Option (Nat × Nat) × State) rv =>
        if a.2.1.isSome then a else
        let x := a.1
        let key := 16 * rv.1 + rv.2
        let tg := Map.get zb x.tags key
        let (e, err, s) := convertOne u q d k rv.1 rv.2 (Map.get zw x.words key) tg a.2.2
        let sk := 16 * b + rv.2
        ({ x with stat := Map.set zb x.stat sk (Map.get zb x.stat sk ||| e.tag), census := if ctlCensus c && err.isNone then x.census.el e.w e.tag (ctlFmt c) e.enc else x.census,
                  words := Map.set zw x.words key 0#576, tags := Map.set zb x.tags key 0#8 }, err, s))
      ({ x with scale := if ctlTscale c then some sc else none }, none, s)
    let s := setXcmd q (some x) s
    match err with
    | some (n, a) => mvStop u q n a s
    | none =>
      let (res, s) := (List.range (xVecs d)).foldl (fun (a : Option (Nat × Nat) × State) v =>
        if a.1.isSome then a else
        match memWrite q (fromExpress u) (xStat d + 16 * b + v) [Map.get zb x.stat (16 * b + v)] a.2 with
        | (0, s) => (none, s)
        | (n, s) => (some (if n = 1 then 11 else n, xStat d + 16 * b + v), s)) (none, s)
      match res with
      | some (n, a) => mvStop u q n a s
      | none => free s

/-- Every half of a unit that is ready converted. -/
def convertReady (u : Nat) (s : State) : State := (xunit u s).halves.foldl (fun s h => slabConvert u h.1 h.2.1 s) s

/-! ### Streaming (R168, R175, R176, R180) -/

/-- A partial word added at its collector and counted (R168). -/
def collect (q r v : Nat) (w : L576) (tg : Byte) (s : State) : State :=
  match xcmd q s with
  | none => s
  | some x =>
    let key := 16 * r + v
    setXcmd q (some { x with words := Map.set zw x.words key (Map.get zw x.words key + w), tags := Map.set zb x.tags key (Map.get zb x.tags key ||| tg),
                             got := Map.set (fun _ => 0) x.got key (Map.get (fun _ => 0) x.got key + 1) }) s

/-- EXPRESS_PARTIAL_SEND: the partial words of row `r` leave unit `u`, or stay with it where it collects the row. A word travels whole where it does not fit the 64-bit window at the block floor (R37, R38); its tag travels with either. -/
def partialSend (u q r : Nat) (d : List Byte) (floor : Nat) (s : State) : State :=
  let n := xunit u s
  let s := setXunit u { n with words := [], tags := [] } s
  let dst := collector d r
  (List.range (xVecs d)).foldl (fun s v =>
    let w := Map.get zw n.words v
    let tg := Map.get zb n.tags v
    if dst = u then collect q r v w tg s
    else
      let s := if (placeWindow (wordInt w) floor 64).isNone then bump MST_EXP_WIDE_count u 1 s else s
      { s with xparts := s.xparts ++ [{ q := q, dst := dst, row := r, v := v, word := w, tag := tg }] }) s

/-- The queue whose slab unit `u` starts next (R180). A slot holds work for this unit while a slab of its command is still to be started here, whatever that command still converts (DESIGN CHOICE, log entry 93). -/
def chooseQueue (u : Nat) (s : State) : Option Nat :=
  let has := fun (q : Nat) => match xcmd q s with
    | some x => decide (Map.get (fun _ => 0) x.next u < xSlabs x.desc)
    | none => false
  let n := xunit u s
  let share := s.sidingShare
  if has 0 && has 1 then some (if share = 16 || decide (share * n.total > 16 * n.siding) then 1 else 0)
  else if has 0 then some 0 else if has 1 then some 1 else none

/-- The floor of slab `b`: from floor_addr where that is set; a refused or bad read gives its status (R173, R175). -/
def slabFloor (u q b : Nat) (x : XCmd) (s : State) : Nat × Nat × State :=
  match Map.get (fun _ => none) x.floors b with
  | some f => (0, f, s)
  | none =>
    if xFloorAddr x.desc = 0 then (0, xFloor x.desc, s) else
    match memRead q (fromExpress u) (xFloorAddr x.desc + 2 * b) 2 s with
    | (0, d, s) => let f := bits (recNat d 0 2) 0 10
                   (if f > 521 then 1 else 0, f, s)
    | (c, _, s) => (if c = 1 then 11 else c, 0, s)

/-- EXPRESS_SLAB_START: slab b waits for the half that holds slab b - 2 (R168); a unit asleep wakes for its work (R407). -/
def slabStart (u : Nat) (s : State) : State :=
  let n := xunit u s
  if n.cur.isSome || n.halves.length ≥ 2 then s else
  match chooseQueue u s with
  | none => s
  | some q =>
    match xcmd q s with
    | none => s
    | some x =>
      let b := Map.get (fun _ => 0) x.next u
      if n.halves.any fun h => h.1 == q && decide (h.2.1 + 2 ≤ b) then s else
      match slabFloor u q b x (wakeIsl u s) with
      | (0, f, s) =>
        let both := (xcmd (1 - q) s).any fun y => decide (Map.get (fun _ => 0) y.next u < xSlabs y.desc)
        let cs := slabChunks x.desc u b
        let s := setXcmd q (some { x with next := Map.set (fun _ => 0) x.next u (b + 1), floors := Map.set (fun _ => none) x.floors b (some f) }) s
        let n := if both then n else { n with siding := 0, total := 0 }
        let s := setXunit u { n with cur := if cs.isEmpty then none else some (q, b), chunks := cs, halves := n.halves ++ [(q, b, cs.isEmpty)], both := both } s
        convertReady u (wr MST_EXP_STATUS_streaming_queue u q (wr MST_EXP_STATUS_slab u b s))
      | (c, _, s) => mvStop u q c (xFloorAddr x.desc + 2 * b) s

/-- The steps of a chunk against vector `v`: what they add to its word, the tag bits, and the result of each step (R165 to R167). -/
def chunkLane (q : Nat) (d : List Byte) (b sc : List Byte) (k0 n v floor : Nat) (s : State) : Int × Byte × List LaneRes :=
  let f := xFmt d
  let per := if fmtBits f = 16 then 256 else if fmtBits f = 8 then 512 else 1024
  let slot := 16 * q + xBase d + v
  let term := fun (e : Nat) =>
    let a := operand f b sc (xScale d) e
    let x := decodeEl 0 (Map.get (fun _ => 0) s.expVec (32768 * slot + k0 + e))
    prodTerm a x a.isZero x.isZero false floor
  let (w, tg, rs, _) := (List.range ((n + per - 1) / per)).foldl (fun (acc : Int × Byte × List LaneRes × List Short) i =>
    let ts := (List.range (min per (n - i * per))).map fun e => term (i * per + e)
    let r := laneStep acc.2.2.2 ts
    let tg := ts.foldl (fun a t => a ||| t.tag) acc.2.1
    let last := decide (i % 2 = 1) || decide ((i + 1) * per ≥ n)
    (acc.1 + r.promoted + (if last then shortsSum r.shorts else 0), tg, acc.2.2.1 ++ [r], if last then noShorts else r.shorts)) (0, 0#8, [], noShorts)
  (w, tg, rs)

/-- Step counters of a chunk (R167, R183). -/
def chunkCounts (u : Nat) (lanes : List (List LaneRes)) (s : State) : State :=
  let n := lanes.foldl (fun a l => max a l.length) 0
  (List.range n).foldl (fun s i =>
    let rs := lanes.filterMap fun l => l[i]?
    let c := rs.foldl (fun a r => max a r.cost) 1
    let lead := (rs.find? fun r => r.cost == c).getD { shorts := [] }
    bump MST_EXP_STEP_CYCLES_count u c (bump MST_EXP_SPILL_CYCLES_count u lead.spill s)) s

/-- EXPRESS_CHUNK_READ: the next chunk of unit `u`. -/
def chunkRead (u : Nat) (s : State) : State :=
  let n := xunit u s
  match n.cur, n.chunks with
  | some (q, b), (r, c) :: rest =>
    match xcmd q s with
    | none => s
    | some x =>
      let d := x.desc
      let f := xFmt d
      let per := 4096 * 8 / fmtBits f
      let k0 := c * per
      let m := min per (xK d - k0)
      let bytes := m * fmtBits f / 8
      let a := xW d + r * xPitch d + c * 4096
      let floor := (Map.get (fun _ => none) x.floors b).getD (xFloor d)
      let (c1, wd, s) := memRead q (fromExpress u) a bytes s
      if c1 = 2 then mvStop u q 2 a s else
      let sa := xS d + r * (xK d / 32) + k0 / 32
      let (c2, sd, s) := if fmtBlock f then memRead q (fromExpress u) sa (m / 32) s else (0, [], s)
      if c2 = 2 then mvStop u q 2 sa s else if c2 = 1 then mvStop u q 11 sa s else
      let total := bytes + (if fmtBlock f then m / 32 else 0)
      let s := bump MST_EXP_BYTES_count u total s
      let s := if q = 1 then bump MST_EXP_SIDING_BYTES_count u total s else s
      let bad := c1 != 0 || c2 != 0
      let lanes := if bad then [] else (List.range (xVecs d)).map fun v => chunkLane q d wd sd k0 m v floor s
      let s := chunkCounts u (lanes.map fun l => l.2.2) s
      let n := xunit u s
      let n := (List.range (xVecs d)).foldl (fun (n : XUnit) v =>
        let (w, tg) := match lanes[v]? with
          | some l => (l.1, l.2.1)
          | none => ((0 : Int), tNan)
        { n with words := Map.set zw n.words v (Map.get zw n.words v + toWord w), tags := Map.set zb n.tags v (Map.get zb n.tags v ||| tg) }) n
      let n := if n.both then { n with total := n.total + total, siding := n.siding + (if q = 1 then total else 0) } else n
      let s := setXunit u { n with chunks := rest, cur := if rest.isEmpty then none else n.cur } s
      let s := if bad then setXcmd q ((xcmd q s).map fun x => { x with status := 3 }) s else s
      let s := if (rest.headD (0, 0)).1 = r && !rest.isEmpty then s else partialSend u q r d floor s
      let s := if rest.isEmpty then
          let n := xunit u s
          setXunit u { n with halves := n.halves.map fun h => if h.1 == q && h.2.1 == b then (q, b, true) else h } s
        else s
      convertReady u s
  | _, _ => s

/-- EXPRESS_PARTIAL_ARRIVAL: partial `k` reaches its collector, which must hold a half for its slab (R168), and which wakes for it (R407). -/
def partialArrive (k : Nat) (s : State) : State :=
  match s.xparts[k]? with
  | none => s
  | some p =>
    if !((xunit p.dst s).halves.any fun h => h.1 == p.q && h.2.1 == p.row / 256) then s else
    convertReady p.dst (collect p.q p.row p.v p.word p.tag (wakeIsl p.dst { s with xparts := s.xparts.eraseIdx k }))

end Sys2Proof.Machine
end

