-- ==== Sys2Proof/Machine/RegRead.lean ====
section
/-! DEFINITION. Reads of BAR0 registers (R6, R7, R365), and the fields that are read from elsewhere in the state. -/

namespace Sys2Proof.Machine

/-! ### Fields held elsewhere -/

def isRoot (s : State) : Bool := on CUT_RT_CONFIG_root 0 s

/-- In discipline (R315); the root always is. -/
def rtOk (s : State) : Bool := isRoot s || on CUT_STATUS_rt_ok 0 s
def rtLocked (s : State) : Bool := isRoot s || on CUT_RT_STATUS_locked 0 s
def rtDepth (s : State) : Nat := if isRoot s then 0 else rd CUT_RT_STATUS_depth 0 s

/-- The value of a field that another part of the state holds. -/
def derived (f : Fld) (i : Nat) (s : State) : Option Nat :=
  let flag := fun (b : Bool) => some (if b then 1 else 0)
  if f.id = TIL_LR_STATUS_queue_depth.id then some (lrow i s).queue.length
  else if f.id = TIL_LR_STATUS_ballast_active.id then flag (on TIL_LR_CONTROL_ballast_en i s && (lrow i s).ballast != 0)
  else if f.id = TIL_CORE_STATUS_loops.id then some (core i s).loops.length
  else if f.id = TIL_CORE_STATUS_replay.id then some (core i s).replay.length
  else if f.id = TIL_CORE_STATUS_cause_valid.id then some (rd TIL_CS_CAUSE_valid i s)
  else if f.id = RTR_STATUS_stamp.id then some (rd RTR_CONTROL_stamp 0 s)
  else if f.id = RTR_STATUS_valid_a.id then some (rd RTR_TT_CTL_valid 0 s)
  else if f.id = RTR_STATUS_valid_b.id then some (rd RTR_TT_CTL_valid 1 s)
  else if f.id = RTR_STATUS_rate_entries.id then some s.router.rates.length
  else if f.id = RTR_STATUS_map_busy.id then flag (s.injq.any fun q => q.pkt.typ == 0x84)
  else if f.id = COL_STATUS_bound.id then some ((List.range 256).filter fun k => (coll k s).phase != 0).length
  else if f.id = COL_STATUS_held.id then some (heldBytes s / 16)
  else if f.id = COL_STATUS_hold_full.id then flag (decide (heldBytes s + 16 > 2 ^ 18))
  else if f.id = COL_CID_state.id then
    some (if (coll i s).phase = 0 && s.colls.any (fun e => e.2.phase == 5 && e.1 % 512 == i) then 4 else (coll i s).phase)
  else if f.id = COL_CID_epoch.id then flag (gEpoch (coll i s).desc)
  else if f.id = COL_CID_kind.id then some (gKind (coll i s).desc)
  else if f.id = COL_CID_reports.id then some (coll i s).finals
  else if f.id = HST_STATUS_idle.id then flag (on BTC_STATUS_ready 0 s && !s.host.cmds.any fun c => c.phase != 3)
  else if f.id = HST_STATUS_rings.id then some ((List.range 64).filter fun k => on HST_RING_CONTROL_enable k s).length
  else if f.id = DBG_STATUS_tracing.id then some (rd DBG_TRACE_CTL_enable 0 s + 2 * rd DBG_TRACE_CTL_enable 1 s)
  else if f.id = CUT_STATUS_state.id then s.cut.shown.map fun _ => 5
  else if f.id = CUT_STATUS_cut_id.id then s.cut.shown.map (·.1)
  else if f.id = CUT_STATUS_reason.id then s.cut.shown.map (·.2)
  else if f.id = ITG_TILE_CTRL_req_pending.id then flag (s.itg.reqs.any fun r => r.1 == i)
  else if f.id = CUT_STATUS_rt_ok.id then flag (rtOk s)
  else if f.id = CUT_RT_STATUS_locked.id then flag (rtLocked s)
  else if f.id = CUT_RT_STATUS_depth.id then some (rtDepth s)
  else none

/-- The value of register `r` at index (i, j). -/
def regValue (r : Reg) (i j : Nat) (s : State) : Nat :=
  if 18 ≤ r.id ∧ r.id < 34 then special i (r.id - 18) s else
  r.flds.foldl (fun a f => a + (if f.acc == .WO then 0 else (derived f (r.ix i j) s).getD (rd f (r.ix i j) s)) * 2 ^ f.lo) 0

/-- The register at BAR0 offset `o`, the latched map record (R282) and the signal boxes (R433) among them; 0 where none lies. -/
def readReg (o : Nat) (s : State) : Nat :=
  if 0x801000 ≤ o ∧ o < 0x801D00 then recNat s.router.map (o - 0x801000) 8
  else if 0x320000 ≤ o ∧ o < 0x400000 then bits (Map.get (fun _ => 0#128) s.boxes ((o - 0x320000) / 16)).toNat (64 * (o / 8 % 2)) 64
  else match findReg o with
    | some (r, i, j) => regValue r i j s
    | none => 0

/-- The `n` bytes from offset `o` of BAR0. -/
def regBytes (o n : Nat) (s : State) : List Byte := (List.range n).map fun i => BitVec.ofNat 8 (readReg ((o + i) / 8 * 8) s / 2 ^ (8 * ((o + i) % 8)))

end Sys2Proof.Machine
end

