-- ==== Sys2Proof/Machine/Stations.lean ====
section
/-! DEFINITION. The memory stations' own work (R186, R195 to R198, R203 to R208) and the CXL ports (R211, R213). -/

namespace Sys2Proof.Machine

/-! ### Accesses that reach a station -/

/-- An error of value `e` strikes the 64-bit word at `w` of a yard or tile store: one flipped bit in a clean word can be corrected, more cannot (R209). -/
def storeUpset (w : Nat) (e : Byte) (s : State) : State :=
  let bits1 := ((List.range 8).filter fun k => e.toNat.testBit k).length
  if bits1 = 0 then s else setStoreErr w (if bits1 = 1 ∧ storeErrAt w s = 0 then 1 else 2) s

/-- The same in the accumulator store of tile `t`, at byte `o` (R209). -/
def accUpset (t o : Nat) (e : Byte) (s : State) : State :=
  let bits1 := ((List.range 8).filter fun k => e.toNat.testBit k).length
  if bits1 = 0 then s else
  modLr t (fun l =>
    let v := if bits1 = 1 ∧ Map.get (fun _ => 0) l.accErr (o / 8) = 0 then 1 else 2
    { l with accErr := Map.set (fun _ => 0) l.accErr (o / 8) v }) s

/-- The station and segment whose state word an upset strikes, and the byte: addresses from 2^48 + 2^40 on, eight for each word. -/
def stateByte (u : Upset) : Option (Nat × Nat × Nat) :=
  if u.addr < 2 ^ 48 + 2 ^ 40 then none else
  let o := u.addr - (2 ^ 48 + 2 ^ 40)
  if o / 8 / 2 ^ 24 < 28 then some (o / 8 / 2 ^ 24, o / 8 % 2 ^ 24, o % 8) else none

/-- The station of the codeword an upset strikes. -/
def upsetStation (u : Upset) : Nat := match stateByte u with
  | some (st, _, _) => st
  | none => stOf u.addr

/-- A symbol of a stored codeword changes by an error value: its data byte or check byte, and the difference of the check bytes from the right ones. In a store of a die, a byte of a 64-bit word is in error; in the CXL tier, which holds no codeword of the module's, the device has the sector poisoned (R213). In a state word the byte named changes (R208). -/
def upset (u : Upset) (s : State) : State :=
  let x := sectorOf u.addr
  match stateByte u with
  | some (st, seg, b) => setStateWord st seg (stateWord st seg s ^^^ BitVec.ofNat 64 (u.value.toNat * 2 ^ (8 * b))) s
  | none =>
  if u.addr ≥ 2 ^ 48 then (let o := u.addr - 2 ^ 48
    if o < 168 * accBytes then accUpset (o / accBytes) (o % accBytes) u.value s else s)
  else if whereOf x s = .none ∨ whereOf x s = .regs then s
  else if whereOf x s != .gddr then (match whereOf x s with
    | .cxl _ => if mapped1 x s then setCxlPoison x true s else s
    | _ => storeUpset (u.addr / 8 * 8) u.value s) else
  let i := u.symbol.val
  let s := if i < 64 then setCells [(x + i, byteAt (x + i) s ^^^ u.value)] s else s
  setChk x (chkAt x s ^^^ BitVec.ofNat 32 (checkOf i u.value.toNat)) s

/-- Link retries of a transfer of station `st` (R195, R196): each is counted, and more than 64 in one period queue retraining. -/
def linkRetries (st n : Nat) (s : State) : State :=
  let s := bump MST_LINK_RETRIES_count st n s
  let x := station st s
  let k := x.periodRetries + n
  setStation st { x with periodRetries := k, retrainQ := if k > 64 ∧ x.periodRetries ≤ 64 then 15 else x.retrainQ } s

/-- A write whose link retries are exhausted (R195): recorded, and the sector is left poisoned. -/
def writeExhausted (cls x : Nat) (s : State) : State :=
  if whereOf x s != .gddr then s else
  errRecord (stOf x) 4 x 127 cls (bump MST_UE_count (stOf x) 1 (setChk x poisonChk s))

/-- The sector where an access begins, its source class, and whether it writes. -/
def stReqAt (q : StReq) (s : State) : Option (Nat × Nat × Bool) :=
  match q with
  | .tile t k => ((core t.val s).outst[k]?).map fun a => (a.addr, tileClass t.val s, match a.op with
    | .store _ => true
    | _ => false)
  | .smRead a _ => some (a, 6, false)
  | .smWrite a _ => some (a, 6, true)
  | .smAmo _ a _ => some (a, 6, false)
  | .other a cls w => some (a, cls, w)
  | .devices _ _ => none

/-- A write of a station-master core: refused where a program buffer is locked (R112, R201), lost with no effect where a unit answers memory-error (R213, R356), and waiting for a mirror where it must (R331). -/
def smStore (a : Nat) (d : List Byte) (s : State) : State :=
  if !mapped a d.length s then s
  else if progLocked a d.length s then protRefused 6 a true s
  else if anyDown a d.length s || writeWaits (rangeSectors a d.length) s then s
  else putBytes 6 a d s

/-- STATION_ACCESS (R186): the symbols in error as received, the link retries the transfer took, and whether the last of them failed (R195). -/
def stationAccess (q : StReq) (ups : List Upset) (retries : Nat) (exhausted : Bool) (s : State) : State :=
  match stReqAt q s with
  | none => (match q with
    | .devices st n => bump MST_ODECC_count st.val n s
    | _ => s)
  | some (a, cls, w) =>
    let s := ups.foldl (fun s u => upset u s) s
    let s := if retries = 0 || whereOf a s != .gddr then s else linkRetries (stOf a) (min retries 3) s
    let s := match q with
      | .tile t k => accPerform t.val k s
      | .smRead a n => if mapped a n s && !anyDown a n s then (rawRead 6 a n s).2.2 else s
      | .smWrite a d => smStore a d s
      | .smAmo op a x => if amoPlace a s && a % 8 == 0 && !unitDown a s && !writeWaits [sectorOf a] s then (rawAmo 6 op a x s).2.2 else s
      | .other _ _ _ => s
      | .devices _ _ => s
    if exhausted then
      (if w then writeExhausted cls (sectorOf a) s
       else if whereOf a s == .gddr then errRecord (stOf a) 4 (sectorOf a) 127 cls s else s)
    else s

/-! ### Copy-on-write (R203 to R208) -/

/-- A record of station `st` free to be armed: not armed, not being swept. -/
def freeRecord (st : Nat) (s : State) : Option Nat :=
  (List.range 8).find? fun k => !(rd MST_STATUS_armed st s).testBit k && !Map.get (fun _ => false) s.sweep (8 * st + k)

/-- Number of free records of station `st`. -/
def freeRecords (st : Nat) (s : State) : Nat :=
  ((List.range 8).filter fun k => !(rd MST_STATUS_armed st s).testBit k && !Map.get (fun _ => false) s.sweep (8 * st + k)).length

/-- A record armed at station `st` for granules `base` to `limit` (R203); refused with busy where it overlaps or none is free. -/
def cowArm (st base limit dest coord : Nat) (remote host : Bool) (s : State) : Bool × State :=
  let clash := (List.range 8).any fun k => (rd MST_STATUS_armed st s).testBit k &&
    decide (rd MST_COW_BASE_base (st * 8 + k) s ≤ limit) && decide (base ≤ rd MST_COW_LIMIT_limit (st * 8 + k) s)
  match freeRecord st s with
  | none => (false, s)
  | some k =>
    if clash then (false, s) else
    let i := st * 8 + k
    let b := fun (x : Bool) => if x then 1 else 0
    (true, wrBit MST_STATUS_armed st k true (wr MST_COW_BASE_base i base (wr MST_COW_LIMIT_limit i limit (wr MST_COW_DEST_dest i dest
      (wr MST_COW_CURSOR_cursor i (base * 64) (wr MST_COW_DEST_CTL_coord i (if remote then coord else 0)
        (wr MST_COW_DEST_CTL_remote i (b remote) (wr MST_COW_DEST_CTL_host i (b host) s))))))))

/-- The first granule at or above `g` that station `st` holds (R185); each group of 28 granules has one. -/
def ownGranule (st g : Nat) : Nat :=
  match (List.range 56).find? fun i => stOf ((g + i) * 4096) == st with
  | some i => g + i
  | none => g

/-- COW_DRAIN_SECTOR (R207): one sector at the cursor of record `k`, or the end of the record. A station asleep wakes for it (R407); one with a failed device answers memory-error, and what it drains is marked poisoned (R356, R206). An image sector drained into a mirrored region is mirrored as any write to it is; one that a push writes is not (R331). -/
def cowDrain (st k : Nat) (s : State) : State :=
  let i := st * 8 + k
  if !(rd MST_STATUS_armed st s).testBit k || rd CUT_STATUS_state 0 s != 3 || on CUT_STATUS_sweeping 0 s then s else
  let s := wakeIsl st s
  let c := rd MST_COW_CURSOR_cursor i s * 64
  let g := ownGranule st (c / 4096)
  let x := if g = c / 4096 then c else g * 4096
  if x / 4096 > rd MST_COW_LIMIT_limit i s then
    -- the cursor has passed limit: the record ends once the push-ahead buffer has emptied
    if !(station st s).push.isEmpty then s
    else wrBit MST_STATUS_armed st k false (wr MST_COW_CURSOR_cursor i (x / 64) s)
  else
    let (pushed, s1) := isPushed x s
    let next := fun (s : State) => wr MST_COW_CURSOR_cursor i ((x + 64) / 64) s
    if pushed then next (setPushed x false s1) else
    let (kind, coord) := cowDest st k s1
    let (bad, s2) := readSector 6 x s1
    let a := rd MST_COW_DEST_dest i s + (x - rd MST_COW_BASE_base i s * 4096)
    let s3 := imgWrite (.cow st k) kind coord a (cells x 64 s2) (bad || unitDown x s) s2
    next (if kind = 0 then (rangeSectors a 64).foldl (fun s y => if whereOf y s = .gddr then mirSend y s else s) s3 else s3)

/-- COW_PUSH_SEND (R205). -/
def cowPushSend (st : Nat) (s : State) : State := sendPush st s

/-- COW_SWEEP (R207): an abandoned record's pushed bits are cleared from its cursor to its limit, and it is free. What the push-ahead buffer still holds of it goes nowhere: the image it was for is given up (DESIGN CHOICE, log entry 93). A station asleep wakes for the sweep (R407). -/
def cowSweep (st k : Nat) (s : State) : State :=
  if !Map.get (fun _ => false) s.sweep (8 * st + k) then s else
  let s := wakeIsl st s
  let i := st * 8 + k
  let lo := rd MST_COW_CURSOR_cursor i s * 64
  let hi := rd MST_COW_LIMIT_limit i s * 4096 + 4095
  let segs := s.stateWords.filterMap fun e => if e.1 / 2 ^ 24 = st then some (e.1 % 2 ^ 24) else none
  let s := segs.foldl (fun s seg => (List.range 30).foldl (fun s j =>
      let x := stationAddr st ((seg * 30 + j) * 64)
      if lo ≤ x ∧ x ≤ hi then (let (p, s) := isPushed x s; if p then setPushed x false s else s) else s) s) s
  let q := (station st s).push.filter fun p => p.recNo != k
  let s := wr MST_STATUS_push_full st (if q.length ≥ 64 then 1 else 0) (setStation st { station st s with push := q } s)
  let s := wrBit MST_STATUS_armed st k false s
  sweepEnd { s with sweep := Map.set (fun _ => false) s.sweep (8 * st + k) false }

/-! ### Patrol scrub (R197) -/

/-- Segments of a station (R188, R194). -/
def segments (s : State) : Nat := if s.dens24 then 6291456 else 8388608

/-- SCRUB_KICK: a pass starts when none is running. -/
def scrubKick (st : Nat) (s : State) : State :=
  if (station st s).scrubAt.isSome then s else
  wr MST_STATUS_scrub_active st 1 (setStation st { station st s with scrubAt := some 0 } s)

/-- SCRUB_PASS_START: at the scrub period, with scrub_en set. -/
def scrubStart (st : Nat) (s : State) : State := if on MST_CONTROL_scrub_en st s then scrubKick st s else s

/-- SCRUB_CODEWORD: position 31 × segment + slot, slot 30 being the state word. A station asleep wakes for it (R408). -/
def scrubCodeword (st : Nat) (ups : List Upset) (s : State) : State :=
  match (station st s).scrubAt with
  | none => s
  | some n =>
    let s := ups.foldl (fun s u => if upsetStation u = st then upset u s else s) (wakeIsl st s)
    let s := if n % 31 = 30 then (readStateWord (stationAddr st (n / 31 * 30 * 64)) s).2
      else (readSector 7 (stationAddr st ((n / 31 * 30 + n % 31) * 64)) s).2
    if n + 1 < 31 * segments s then setStation st { station st s with scrubAt := some (n + 1) } s
    else bump MST_SCRUB_PASSES_count st 1 (wr MST_STATUS_scrub_active st 0 (setStation st { station st s with scrubAt := none } s))

/-! ### Retraining (R196) -/

/-- RETRAIN_PERIOD. -/
def retrainPeriod (st : Nat) (s : State) : State := setStation st { station st s with retrainQ := 15, periodRetries := 0 } s

/-- CONSUMED (R215). -/
def consumed (st : Nat) (s : State) : State := wr MST_ERR_HEAD_pending st 0 s

/-- DEVICE_STOPPED_RESPONDING (R215, R356). -/
def deviceStopped (st d : Nat) (s : State) : State :=
  let s := wr MST_STATUS_ready st 0 (wrBit MST_STATUS_dev_fail st d true s)
  itgEvent 10 st 0xFF (rd MST_STATUS_dev_fail st s) 0 0 s

/-! ### CXL (R211, R213) -/

/-- CXL_ACCESS: an outstanding access of a tile, one of a station-master core, or one of another unit reaches a CXL port; `fault` where the device returns poison or completes a read with an error. The read of another unit comes with the command of that unit: it meets the sector as uncorrectable, as every later one does until the sector is written whole, as R192 has it (DESIGN CHOICE, log entry 89). -/
def cxlAccess (q : StReq) (fault : Bool) (s : State) : State :=
  match stReqAt q s with
  | none => s
  | some (a, _, w) =>
    match whereOf a s with
    | .cxl p =>
      (match q with
       | .tile t k =>
         let l := (core t.val s).outst
         if fault && !w && !unitDown a s && mayPerform l k then
           (match l[k]? with
            | some e => setOutst t.val (l.set k { e with done := some ([], true) }) (bump MST_CXL_POISON_count p 1 s)
            | none => s)
         else accPerform t.val k s
       | .smRead a n => if fault && !unitDown a s then bump MST_CXL_POISON_count p 1 s else if mapped a n s && !unitDown a s then (rawRead 6 a n s).2.2 else s
       | .smWrite a d => smStore a d s
       | .smAmo _ _ _ => s
       | .other _ _ _ => if fault && !w && mapped1 a s && !unitDown a s then setCxlPoison (sectorOf a) true s else s
       | .devices _ _ => s)
    | _ => s

/-- CXL_LINK_DOWN (R213): the link goes down with `lost` posted writes on it. -/
def cxlLinkDown (p lost : Nat) (s : State) : State :=
  if !on MST_CXL_STATUS_link_up p s then s else
  itgEvent 11 p 0xFF 0 0 0 (msix (220 + p) (bump MST_CXL_LOST_count p lost (wr MST_CXL_STATUS_link_up p 0 s)))

end Sys2Proof.Machine
end

