-- ==== Sys2Proof/Machine/Host.lean ====
section
/-! DEFINITION. Command rings and dispatch (R366 to R376): entries, completions, waybills (R430 to R432), the checks and starts of every opcode, stage schedules, and the ends of commands. -/

namespace Sys2Proof.Machine

/-! ### Fields of an entry (R367 to R369) -/

/-- Bits `lo` and up, `w` of them, of the 8 bytes at offset `o`. -/
def Cmd.fld (c : Cmd) (o lo w : Nat) : Nat := bits (recNat c.entry o 8) lo w
def Cmd.op (c : Cmd) : Nat := c.fld 0 0 8
def Cmd.after (c : Cmd) : Bool := c.fld 0 8 1 == 1
def Cmd.repeatable (c : Cmd) : Bool := c.fld 0 9 1 == 1
def Cmd.irq (c : Cmd) : Bool := c.fld 0 10 1 == 1
def Cmd.gate (c : Cmd) : Bool := c.fld 0 11 1 == 1
def Cmd.gateRing (c : Cmd) : Nat := c.fld 0 12 6
def Cmd.gateSeq (c : Cmd) : Nat := c.fld 8 0 58
def Cmd.waybill (c : Cmd) : Nat := c.fld 0x10 0 48
/-- The identifier completions and events carry. A command is held under more: a replay command under its COLL command's plus 2^64, an adopted one plus 2^65 (R334), and one whose identifier an earlier command still bears, since its ring began to count anew (R366), plus a multiple of 2^66. -/
def Cmd.name (c : Cmd) : Nat := c.id % 2 ^ 64
def Cmd.ring (c : Cmd) : Nat := c.name / 2 ^ 58
def Cmd.seq (c : Cmd) : Nat := c.id % 2 ^ 58
def Cmd.a18 (c : Cmd) : Nat := c.fld 0x18 0 48
def Cmd.nRanks (c : Cmd) : Nat := c.fld 0x20 11 8 + 1
def Cmd.progLen (c : Cmd) : Nat := 64 * (c.fld 0x20 0 11 + 1)
def Cmd.start (c : Cmd) : Nat := c.fld 0x20 19 11
def Cmd.tileList (c : Cmd) : Nat := c.fld 0x28 0 48
def Cmd.argBase (c : Cmd) : Nat := c.fld 0x30 0 48
def Cmd.argStride (c : Cmd) : Nat := c.fld 0x38 0 32
def Cmd.grants (c : Cmd) : Nat := c.fld 0x40 0 64 + c.fld 0x48 0 64 * 2 ^ 64
def Cmd.schedAddr (c : Cmd) : Nat := c.fld 0x50 0 48
def Cmd.schedLen (c : Cmd) : Nat := c.fld 0x60 0 16

/-- Whether the command runs ranks on tiles. -/
def Cmd.runs (c : Cmd) : Bool := c.op == 1 || c.op == 5 || c.op == 6

/-- Bits an opcode uses, by 8-byte word of the entry (R367, R368). -/
def usedBits (op : Nat) : List Nat :=
  let a := 2 ^ 48 - 1
  let all := 2 ^ 64 - 1
  let head := [2 ^ 18 - 1, 2 ^ 58 - 1, a]
  let run := [a, 2 ^ 30 - 1, a, a, 2 ^ 32 - 1, all, all, a]
  match op with
  | 1 => head ++ run ++ [0, 2 ^ 16 - 1]
  | 2 => head ++ [a]
  | 3 => head ++ [a]
  | 4 => head ++ [a, all, 0xFF]
  | 5 => head ++ run ++ [a, 2 ^ 16 - 1]
  | 6 => head ++ run ++ [a, 2 ^ 16 - 1, 0x3F]
  | 7 => head ++ [a, 0x7F]
  | 8 => head ++ [a, 2 ^ 23 - 1, a]
  | 9 => head ++ [all]
  | 10 => head ++ [7, a, 2 ^ 32 - 1, a]
  | _ => []

/-- No reserved bit of the entry is set. -/
def Cmd.reservedOk (c : Cmd) : Bool :=
  (List.range 16).all fun i => let m := (usedBits c.op).getD i 0; recNat c.entry (8 * i) 8 ||| m == m

/-! ### The host block -/

def modHost (f : HostSt → HostSt) (s : State) : State := { s with host := f s.host }

/-- Two records of one command. -/
def Cmd.same (a b : Cmd) : Bool := a.id == b.id && (a.phase == 3) == (b.phase == 3)

def seqOf (k : Nat) (s : State) : Nat := Map.get (fun _ => 0) s.host.seqs k

/-- The identifiers under which commands, or work that goes on for one, are held. -/
def heldIds (s : State) : List Nat :=
  s.host.cmds.map (·.id) ++ s.xcmds.filterMap (fun e => e.2.map (·.cmd)) ++ s.colls.filterMap (fun e => e.2.cmd) ++ s.host.arb.filterMap (·.cmd)
  ++ s.shunts.filterMap (fun e => e.2.cmd) ++ s.checks.filterMap (fun e => e.2.cmd) ++ (s.boot.attach.map (·.1)).toList
  ++ s.tags.filterMap (fun e => match e.2 with
      | some { who := .mgt id, .. } => some id
      | _ => none)
  ++ s.tagq.filterMap fun q => match q.who with
      | .mgt id => some id
      | _ => none

/-- What the next command of ring `k` is held under: no identifier that a command, or work going on for one, still bears (R366, R381). -/
def freshId (k : Nat) (s : State) : Nat :=
  let n := k * 2 ^ 58 + seqOf k s
  n + 2 ^ 66 * (heldIds s).foldl (fun a id => if id % 2 ^ 64 = n then max a (id / 2 ^ 66 + 1) else a) 0

def putCmd (c : Cmd) (s : State) : State := modHost (fun h => { h with cmds := h.cmds.map fun x => if x.same c then c else x }) s
def dropCmd (c : Cmd) (s : State) : State := modHost (fun h => { h with cmds := h.cmds.filter fun x => !x.same c }) s

/-- The command with an identifier that is not completed. -/
def cmdOf (id : Nat) (s : State) : Option Cmd := s.host.cmds.find? fun c => c.id == id && c.phase != 3

/-- Whether ring `k` is the siding ring (R178). -/
def sidingRing (k : Nat) (s : State) : Bool := on HST_RING_CONTROL_siding k s

/-- Commands that hold tile `t`. -/
def holder (t : Nat) (s : State) : Option Cmd := s.host.cmds.find? fun c => c.phase != 0 && c.ranks.any fun r => r.tile == t

/-- Commands fetched before `c` and not completed, in the order of their fetch; replay commands are none of them. -/
def earlier (c : Cmd) (s : State) : List Cmd :=
  (s.host.cmds.takeWhile fun x => !(x.id == c.id && x.phase == c.phase)).filter fun x => x.phase != 3 && x.coll.isNone

/-- after and gate are satisfied (R370). -/
def orderOk (c : Cmd) (s : State) : Bool :=
  let live := fun (x : Cmd) => x.phase != 3 && x.coll.isNone
  (!c.after || !((earlier c s).any fun x => x.ring == c.ring)) &&
  (!c.gate || decide (c.gateSeq < seqOf c.gateRing s) && !(s.host.cmds.any fun x => live x && x.ring == c.gateRing && x.seq == c.gateSeq))

/-! ### Completion rings (R374) -/

def cqSize (k : Nat) (s : State) : Nat := 2 ^ (min (rd HST_RING_CONTROL_cq_log2_size k s) 12 + 4)

/-- The next write of ring `k` would reach the host's read position. -/
def cqFull (k : Nat) (s : State) : Bool := (rd HST_CQ_TAIL_tail k s + 1) % cqSize k s == rd HST_CQ_HEAD_head k s % cqSize k s

def cqWaiting (j : Nat) (s : State) : List CqEnt := Map.get (fun _ => []) s.host.cqq j
def setCqWaiting (j : Nat) (l : List CqEnt) (s : State) : State := modHost (fun h => { h with cqq := Map.set (fun _ => []) h.cqq j l }) s

/-- Core `j` writes no completion entry (R374): the next write of one of its rings would reach the head. -/
def cqHeld (j : Nat) (s : State) : Bool := (List.range 16).any fun i => cqFull (4 * i + j) s

/-- The core of ring `k` is stalled on a completion ring (R374): it holds entries, or may write none. -/
def stalled (k : Nat) (s : State) : Bool := !(cqWaiting (k % 4) s).isEmpty || cqHeld (k % 4) s

/-- A stall recorded (R374, R377). -/
def cqStall (e : CqEnt) (s : State) : State := msix 246 (event boxHST 0x08 e.ring e.cmd s)

/-- An entry written at the tail of its ring; the one behind which no other fits begins a stall. -/
def cqWrite (e : CqEnt) (s : State) : State :=
  let k := e.ring
  let tail := rd HST_CQ_TAIL_tail k s
  let pass := Map.get (fun _ => 0) s.host.pass k
  let s := hostWrite (rd HST_CQ_BASE_base k s * 4096 + 32 * tail)
    (leBytes (e.head + (if pass % 2 = 0 then 2 ^ 8 else 0)) 8 ++ leBytes e.cmd 8 ++ leBytes (now s) 8 ++ leBytes e.arg 8) s
  let next := (tail + 1) % cqSize k s
  let s := if next = 0 then modHost (fun h => { h with pass := Map.set (fun _ => 0) h.pass k ((pass + 1) % 2) }) s else s
  let s := wr HST_CQ_TAIL_tail k next s
  let s := if e.irq then msix k s else s
  if cqFull k s then cqStall e s else s

/-- An entry for its ring, in order behind any that its core still holds. -/
def cqPush (e : CqEnt) (s : State) : State :=
  let j := e.ring % 4
  if stalled e.ring s then setCqWaiting j (cqWaiting j s ++ [e]) s else cqWrite e s

/-- Entries held by core `j` written while its rings have room; `n` bounds them. -/
def cqDrain (j : Nat) : Nat → State → State
  | 0, s => s
  | n + 1, s =>
    match cqWaiting j s with
    | [] => s
    | e :: l => if cqHeld j s then s else cqDrain j n (cqWrite e (setCqWaiting j l s))

/-- CQ_HEAD_WRITE. -/
def cqHeadWrite (k v : Nat) (s : State) : State :=
  let s := wr HST_CQ_HEAD_head k v s
  cqDrain (k % 4) (cqWaiting (k % 4) s).length s

/-! ### Waybills (R430 to R432) -/

def sumOf (l : List Nat) (f : Nat → Nat) : Nat := l.foldl (fun a x => a + f x) 0

/-- The counters of R431 over tiles `ts`. -/
def counters (ts : List Nat) (s : State) : List Nat :=
  let c := fun (f : Fld) => sumOf ts fun t => rd f t s
  [c TIL_LR_STEPS_count, c TIL_LR_STEP_CYCLES_count, c TIL_LR_SPILL_CYCLES_count, c TIL_LR_SLOT_STALLS_count, c TIL_LR_PROMOTIONS_count,
   c TIL_LR_INTERLOCK_CYCLES_count, c TIL_LR_BALLAST_CYCLES_count, c TIL_LR_DRAIN_ELEMENTS_count,
   sumOf ts fun t => (core t s).longWords, sumOf ts fun t => (core t s).heldTotal + (core t s).heldCycles,
   sumOf ts fun t => Map.get (fun _ => 0) s.power.skips t, sumOf ts fun t => (core t s).loadBytes, sumOf ts fun t => (core t s).storeBytes,
   sumOf (List.range 28) fun u => rd MST_EXP_BYTES_count u s, sumOf (List.range 128) fun h => rd SHN_CH_BYTES_count h s, rd COL_CONTRIB_count 0 s]

/-- The tiles a command holds. -/
def Cmd.tiles (c : Cmd) : List Nat := c.ranks.map (·.tile)

/-- Some tile of the list counts nothing. -/
def uncounted (ts : List Nat) (s : State) : Bool := ts.any fun t => !on TIL_LR_CONTROL_count_en t s

/-- The start latch taken. -/
def latchStart (c : Cmd) (s : State) : Cmd :=
  { c with t0 := now s, latch := counters c.tiles s, part := c.part || uncounted c.tiles s, adj := [] }

/-- The class a waybill write is checked as: that of the tiles the command's ring dispatches to (R179, R199; DESIGN CHOICE, log entry 88, for R432 lets R200 refuse the write where R199 leaves the cores of the rings unchecked). -/
def waybillClass (c : Cmd) (s : State) : Nat := if sidingRing c.ring s then 1 else 0

/-- The waybill of a command that ends: whether it was written, where the command names one, and the state. -/
def waybillWrite (c : Cmd) (status : Nat) (s : State) : Option Bool × State :=
  let a := c.waybill
  if a = 0 ∨ c.phase = 0 then (none, s) else
  let ends := (List.range 16).map fun k => (((counters c.tiles s).getD k 0 : Int) + c.adj.getD k 0).toNat
  let info := status + c.repeats * 2 ^ 8 + (if c.restored then 2 ^ 16 else 0) + (if c.part || uncounted c.tiles s then 2 ^ 17 else 0) + c.ranks.length * 2 ^ 18
  let d := leBytes c.name 8 ++ leBytes c.t0 8 ++ leBytes (now s) 8 ++ leBytes info 8 ++ leBytes 0 32
    ++ ((List.range 16).flatMap fun k => leBytes (c.latch.getD k 0) 8) ++ (ends.flatMap fun n => leBytes n 8)
  if !mapped a 320 s then (some false, event boxHST 0x12 11 a s)
  else if !protOk (waybillClass c s) a 320 false true s then (some false, event boxHST 0x12 2 a (protRefused (waybillClass c s) a true s))
  else if anyDown a 320 s then (some false, event boxHST 0x12 3 a s)
  else (some true, spend (if c.ring % 4 < 2 then 0 else 1) 320 (putBytes 6 a d s))

/-! ### Ends of commands (R371, R374, R375) -/

/-- Tile `t` is enabled, possessed or suspect; a spare in a possession is no enabled tile before that possession ends (R355). A number above 167 names none. -/
def tileEnabled (t : Nat) (s : State) : Bool :=
  let st := rd ITG_TILE_CTRL_state t s
  decide (t < 168) && (st == 0 || st == 3 || st == 2 && (poss (dieOfTile t) s).prev != 1)

/-- A possession or a cut holds tile `t`, whose core goes on from there by the state it had before. -/
def lent (t : Nat) (s : State) : Bool := underPoss t s || s.cut.saving.any fun e => e.1 == t

/-- The core state from which a lent tile goes on, changed by `f`: 0 to 5 as TIL_CORE_STATUS has it, 7 with its work discarded. -/
def lentState (t : Nat) (f : Nat → Nat) (s : State) : State :=
  let d := dieOfTile t
  let p := poss d s
  let s := if underPoss t s then setPoss d { p with core := f p.core } s else s
  { s with cut := { s.cut with saving := s.cut.saving.map fun e => if e.1 = t then (e.1, f e.2) else e } }

/-- A tile freed by the dispatcher: its core is idle and holds no program. One that a possession or a cut holds is idle once it comes back. -/
def freeTile (t : Nat) (s : State) : State :=
  if lent t s then lentState t (fun n => if n = 7 then 7 else 0) (modCore t (fun c => { c with cmd := none, drainSkip := 0 }) s) else
  setCoreState t 0 (modCore t (fun c => { c with hold := none, loops := [], outst := [], defer := none, stepping := false, cmd := none, drainSkip := 0 }) s)

def freeTiles (ts : List Nat) (s : State) : State := ts.foldl (fun s t => freeTile t s) s

/-- A command completes: waybill, then completion entry, both written by the core of its ring (R374, R424); its tiles are freed, or stay held after an exception. The end of a replay command is told to the collective it serves (R300), and to no later use of that cid. -/
def complete (c : Cmd) (status code rank tl arg : Nat) (s : State) : State :=
  let held := status == 9
  let status := if c.tainted then 7 else status
  let s := event (204 + c.ring % 4) 0x0E 1 c.name s
  let n := rd DBG_BOX_HEAD_count boxHST s
  let (wrote, s) := waybillWrite c status s
  let arg := match wrote with
    | none => arg
    | some true => if arg ≠ 0 then arg else c.waybill
    | some false => 0
  let head := status + (if c.coll.isSome then 2 else 0) * 2 ^ 9 + (code % 65536) * 2 ^ 16 + (rank % 256) * 2 ^ 32 + (tl % 512) * 2 ^ 40
  let s := ascending boxHST n (cqPush { ring := c.ring, head := head, cmd := c.name, arg := arg, irq := c.irq || status != 0 } (ringRetire c.ring s))
  let s := if held then modHost (fun h => { h with cmds := h.cmds ++ [{ c with phase := 3 }] }) (dropCmd c s) else dropCmd c (freeTiles c.tiles s)
  match c.coll with
  | some k => if (coll k s).cmd.map (· + 2 ^ 64) = some c.id then modColl k (fun x => { x with ended := some status }) s else s
  | none => s

/-- A command refused before it starts, or ended with a status alone. -/
def refuseCmd (c : Cmd) (status : Nat) (s : State) : State := complete c status 0 0 0 0 s

/-- The same once the core has read what the command names: its accesses have retired (R424, R451). -/
def refuseRead (c : Cmd) (status : Nat) (s : State) : State := refuseCmd c status (ringRetire c.ring s)

/-- A SIGH of tile `t` (R131, R374): an entry of kind program event for the command that holds the tile. -/
def programEvent (t code : Nat) (s : State) : State :=
  match s.host.cmds.find? fun c => c.phase == 1 && c.ranks.any fun r => r.tile == t with
  | none => s
  | some c =>
    let r := c.ranks.findIdx fun r => r.tile == t
    cqPush { ring := c.ring, head := 2 ^ 9 + (code % 65536) * 2 ^ 16 + (r % 256) * 2 ^ 32 + t * 2 ^ 40, cmd := c.name, arg := 0, irq := true } (ringRetire c.ring s)

/-! ### Fetch (R366) -/

def ringSize (k : Nat) (s : State) : Nat := 2 ^ (min (rd HST_RING_CONTROL_log2_size k s) 12 + 4)

/-- A ring is fetched: it is enabled, firmware runs, bus mastering is on, and an entry waits. -/
def fetchable (k : Nat) (s : State) : Bool :=
  on HST_RING_CONTROL_enable k s && on BTC_STATUS_ready 0 s && !s.boot.masterOff && rd HST_RING_HEAD_head k s != rd HST_RING_TAIL_tail k s % ringSize k s

/-- COMMAND_FETCH: the entry at the head arrives; one with an unlisted opcode is refused at once. -/
def commandFetch (k : Nat) (d : List Byte) (s : State) : State :=
  if !fetchable k s then s else
  let s := ringRetire k s
  let c : Cmd := { id := freshId k s, entry := d }
  let s := wr HST_RING_HEAD_head k ((rd HST_RING_HEAD_head k s + 1) % ringSize k s) s
  let s := modHost (fun h => { h with seqs := Map.set (fun _ => 0) h.seqs k ((seqOf k s + 1) % 2 ^ 58), cmds := h.cmds ++ [c] }) s
  if (usedBits c.op).isEmpty then refuseCmd c 1 s else s

/-! ### Starts -/

/-- The waiting commands of opcode `op` that `q` names and that may be tried: the first of its ring, or the replay commands of its key, whose after and gate are ignored and which hold none behind them (R300, R370). -/
def frontCmds (q : CmdSel) (op : Nat) (s : State) : List Cmd :=
  match q with
  | .ring k =>
    (match s.host.cmds.find? fun c => c.phase == 0 && c.coll.isNone && c.ring == k.val with
     | some c => if c.op == op && orderOk c s && !stalled k.val s then [c] else []
     | none => [])
  | .replay key => s.host.cmds.filter fun c => c.phase == 0 && c.coll == some key.val && c.op == op && !stalled c.ring s

/-- The first of them. -/
def frontCmd (q : CmdSel) (op : Nat) (s : State) : Option Cmd := (frontCmds q op s).head?

/-- The first of the commands that `q` names which `go` can start, or refuse, does so. -/
def startFront (q : CmdSel) (op : Nat) (go : Cmd → State → Option State) (s : State) : State :=
  ((frontCmds q op s).findSome? fun c => go c s).getD s

/-- A read by a station-master core (R451): 0, 11 where unmapped or unbacked, 3 where uncorrectable or poisoned. These cores reach the registers too (R184). -/
def smRead (a n : Nat) (s : State) : Nat × List Byte × State :=
  if whereOf a s = .regs ∧ smMapped a n s then (0, regBytes (a - 0x300000000000) n s, s) else
  match memRead 6 unwatched a n s with
  | (0, d, s) => (0, d, s)
  | (1, d, s) => (11, d, s)
  | (_, d, s) => (3, d, s)

/-- The start of a command recorded, its start latch taken, and the accesses of its dispatch retired. -/
def started (c : Cmd) (s : State) : Cmd × State :=
  let s := ringRetire c.ring s
  let c := latchStart { c with phase := 1 } s
  (c, event (204 + c.ring % 4) 0x0E 0 c.name (putCmd c s))

/-- The die whose possession tile `t` is in, or chosen for. -/
def possessed (t : Nat) (s : State) : Bool := (List.range 2).any fun d => let p := poss d s; p.st != 0 && p.tile == t

/-- A check runs on tile `t`. -/
def checking (t : Nat) (s : State) : Bool :=
  (List.range 16).any fun k => let c := checkSlot k s; (c.st == 4 && c.checker == t) || (c.st == 6 && c.second == t)

/-- Tile `t` is free for dispatch. -/
def tileFree (t : Nat) (s : State) : Bool :=
  rd ITG_TILE_CTRL_state t s == 0 && coreState t s == 0 && (holder t s).isNone && !possessed t s && !checking t s

/-- Tiles in the order an automatic list takes them (R369, R416). -/
def placeOrder (s : State) : List Nat :=
  if on PWR_CONTROL_place_en 0 s then
    (List.range 32).flatMap fun b => (List.range 168).filter fun t => rd PWR_TILE_temp t s / 8 == b
  else List.range 168

/-- Shunting channels held by commands in progress, those stopped until a tile stands in among them. -/
def heldChans (s : State) : Nat :=
  s.host.cmds.foldl (fun a c => if c.phase != 1 && c.phase != 2 then a else if c.runs then a ||| c.grants else if c.op == 7 then a ||| 2 ^ c.fld 0x20 0 7 else a) 0

/-- The field checks of R371 shared by RUN, ATTN and OPTSTEP. -/
def runFieldsOk (c : Cmd) : Bool :=
  c.reservedOk && c.a18 % 64 == 0 && decide (c.nRanks ≤ 168) && c.argStride % 64 == 0 && c.waybill % 64 == 0

/-- What the dispatcher has read for a command with ranks (R451): program, tile list, stage schedule. -/
structure RunReads where
  prog : List Byte
  list : Option (List Nat)
  sched : List Byte
deriving DecidableEq, Repr

/-- The tile list as read: status of the read, whether it is legal, tiles. An entry that names a tile not enabled, of the wrong class, or twice is refused (R371, R179). -/
def runList (c : Cmd) (s : State) : Nat × Bool × List Nat × State :=
  let (e, l, s) := if c.tileList = 0 then (0, [], s) else smRead c.tileList c.nRanks s
  let ts := l.map (·.toNat)
  let sid := sidingRing c.ring s
  let usable := fun (t : Nat) => tileEnabled t s && on ITG_TILE_CTRL_siding t s == sid
  (e, c.tileList == 0 || ts.all usable && ts.eraseDups.length == ts.length, ts, s)

/-- The reads of R451, or the status they end the command with. -/
def runReads (c : Cmd) (s : State) : (Nat ⊕ RunReads) × State :=
  let n := c.nRanks
  let (e0, legal, ts, s) := runList c s
  if e0 = 0 && !legal then (.inl 1, s)
  else if e0 != 0 then (.inl e0, s)
  else
    let (e1, p, s) := smRead c.a18 c.progLen s
    if e1 != 0 then (.inl e1, s) else
    let (e2, q, s) := if c.schedAddr = 0 ∨ c.schedLen = 0 then (0, [], s) else smRead c.schedAddr (16 * n * c.schedLen) s
    if e2 != 0 then (.inl e2, s)
    else (.inr { prog := p, list := if c.tileList = 0 then none else some ts, sched := q }, s)

/-- The reads of a command with ranks that names `n` bytes at `a` besides, for which `ok` is R371's check: a field check that fails comes before any read that fails (R451). -/
def runReadsWith (a n : Nat) (ok : List Byte → Bool) (c : Cmd) (s : State) : (Nat ⊕ List Byte × RunReads) × State :=
  let (e0, legal, _, s) := runList c s
  let (e1, d, s) := smRead a n s
  if e0 = 0 && !legal || e1 = 0 && !ok d then (.inl 1, s)
  else if e1 != 0 then (.inl e1, s)
  else match runReads c s with
    | (.inl e, s) => (.inl e, s)
    | (.inr rr, s) => (.inr (d, rr), s)

/-- The tiles a command would run on, by position of its list, where all of them are free (R370). -/
def chooseTiles (c : Cmd) (l : Option (List Nat)) (s : State) : Option (List Nat) :=
  let n := c.nRanks
  match l with
  | some l => if l.all fun t => tileFree t s then some l else none
  | none =>
    let sid := sidingRing c.ring s
    let ts := ((placeOrder s).filter fun t => tileFree t s && on ITG_TILE_CTRL_siding t s == sid).take n
    if ts.length = n then some ts else none

/-- Entry `i` of rank `r` of a stage schedule (R373). -/
def schedEnt (c : Cmd) (r i : Nat) : Nat := recNat c.sched (16 * (r * c.schedLen + i)) 16

/-- Rank `r` begins at its place of the schedule, or at the command's start (R369 steps 4 and 5, R373). -/
def rankGo (c : Cmd) (r : Nat) (x : Rank) (s : State) : State :=
  let t := x.tile
  let (ix, arg) := if c.schedAddr = 0 then (c.start, (c.argBase + r * c.argStride) % 2 ^ 48)
    else (bits (schedEnt c r x.pos) 0 11, (c.schedAddr + 16 * (r * c.schedLen + x.pos)) % 2 ^ 48)
  coreRun t (wr TIL_CORE_START_start t ix (wr TIL_CS_CMDARG_val t arg s))

/-- Rank `r` set up on its tile (R369 steps 1 to 3). -/
def rankSetup (c : Cmd) (prog : List Byte) (r : Nat) (x : Rank) (s : State) : State :=
  let t := x.tile
  let s := putBytes 6 (winAddr t 0x200000) prog s
  let s := wr TIL_CS_TILE_ID_rank t r s
  let s := wr TIL_CS_SHN_GRANT_LO_val t (c.grants % 2 ^ 64) (wr TIL_CS_SHN_GRANT_HI_val t (c.grants / 2 ^ 64) s)
  modCore t (fun q => { q with cmd := some c.id, drainsDone := 0, scales := [], drainSkip := x.drains, skipScales := x.scales }) s

/-- Something done for each rank in order, with its number. -/
def eachRank (l : List Rank) (f : Nat → Rank → State → State) (s : State) : State :=
  (List.range l.length).foldl (fun s r => match l[r]? with
    | some x => f r x s
    | none => s) s

/-- Every rank of a command with a stage schedule has ended entry `i`. -/
def entryEnded (l : List Rank) (i : Nat) : Bool := l.all fun x => decide (x.pos > i) || x.pos == i && x.st == 2

/-- Ranks whose next entry may start, started (R373). -/
def schedAdvance (c : Cmd) (s : State) : Cmd × State :=
  if c.schedAddr = 0 then (c, s) else
  let goes := fun (r : Nat) (x : Rank) => x.st == 2 && decide (x.pos + 1 < c.schedLen) &&
    (!bit (schedEnt c r (x.pos + 1)) 11 || entryEnded c.ranks x.pos)
  let rs := (List.range c.ranks.length).map fun r => match c.ranks[r]? with
    | some x => (goes r x, if goes r x then { x with pos := x.pos + 1, st := 1 } else x)
    | none => (false, { tile := 0 })
  let c := { c with ranks := rs.map (·.2) }
  (c, (List.range rs.length).foldl (fun s r => match rs[r]? with
    | some (true, x) => rankGo c r x s
    | _ => s) (putCmd c s))

/-- Once every rank has ended its last entry the command completes with the largest code and the lowest rank that gave it (R371). -/
def runDone (c : Cmd) (s : State) : State :=
  if !(c.ranks.all fun x => x.st == 2 && (c.schedAddr == 0 || decide (x.pos + 1 ≥ c.schedLen))) then s else
  let best := c.ranks.foldl (fun a x => max a x.code) 0
  let r := c.ranks.findIdx fun x => x.code == best
  complete c 0 best r ((c.ranks.map (·.tile)).getD r 0) 0 s

/-- Dispatch of a command with ranks on tiles `ts` (positions of its list), from what was read. Tiles asleep are woken first, and the command waits for them. -/
def dispatchRun (c : Cmd) (rr : RunReads) (ts : List Nat) (s : State) : State :=
  if ts.any fun t => rd PWR_TILE_state t s != 0 then ts.foldl (fun s t => wakeTile t s) s else
  let n := c.nRanks
  let sh := rd ITG_CONTROL_rank_shift 0 s
  let empty := decide (c.schedAddr ≠ 0) && c.schedLen == 0
  let ranks := (List.range n).map fun r => ({ tile := ts.getD ((r + sh) % n) 0, st := if empty then 2 else 1 } : Rank)
  let (c, s) := started { c with ranks := ranks, sched := rr.sched } s
  let s := eachRank ranks (rankSetup c rr.prog) s
  if empty then runDone c s else eachRank ranks (rankGo c) s

/-- A channel that is not idle after a chain of the other class than `sid`: training work and the siding do not meet on one (R182; DEDUCED, log entry 78). -/
def otherChan (sid : Bool) (ch : Nat) (s : State) : Bool := chState ch s != 0 && (shunt ch s).siding != sid

/-- The resources of a command with ranks are free: its tiles and its granted channels. -/
def runResources (c : Cmd) (l : Option (List Nat)) (s : State) : Option (List Nat) :=
  if c.grants &&& heldChans s != 0 || (List.range 128).any (fun ch => c.grants.testBit ch && otherChan (sidingRing c.ring s) ch s) then none else chooseTiles c l s

/-- RUN (R369). -/
def startRun (q : CmdSel) (s : State) : State :=
  startFront q 1 (fun c s =>
    if !runFieldsOk c then some (refuseCmd c 1 s) else
    match runReads c s with
    | (.inl e, s1) => some (refuseRead c e s1)
    | (.inr rr, s1) => (runResources c rr.list s).map fun ts => dispatchRun c rr ts s1) s

/-- Fields of an attention descriptor (R158) that R159 checks, the misaligned address apart. -/
def attnLegal (d : List Byte) : Bool :=
  let w := fun (o : Nat) => recNat d o 8
  let sc := bits (w 0x10) 0 32
  decide (bits (w 0) 0 21 + bits (w 0) 21 21 + 1 ≤ 2097152) && decide (bits (w 0) 42 21 + bits (w 8) 0 21 + 1 ≤ 2097152) &&
  bits (w 8) 21 2 != 3 && decide (bits (w 0x10) 32 10 ≤ 521) && decide (bits (w 0x10) 42 10 ≤ 521) &&
  bits sc 23 8 != 255 && bits sc 0 31 != 0 && ctlLegal (bits (w 0x38) 0 16) &&
  w 0 / 2 ^ 63 == 0 && w 8 / 2 ^ 44 == 0 && w 0x10 / 2 ^ 53 == 0 && w 0x18 / 2 ^ 48 == 0 && w 0x20 / 2 ^ 48 == 0 && w 0x28 / 2 ^ 48 == 0 &&
  w 0x30 / 2 ^ 48 == 0 && w 0x38 / 2 ^ 20 == 0

/-- ATTN (R158, R159). -/
def startAttn (q : CmdSel) (s : State) : State :=
  startFront q 5 (fun c s =>
    let a := c.fld 0x58 0 48
    if !runFieldsOk c || a % 64 != 0 then some (refuseCmd c 1 s) else
    match runReadsWith a 64 attnLegal c s with
    | (.inl e, s1) => some (refuseRead c e s1)
    | (.inr (_, rr), s1) => (runResources c rr.list s).map fun ts => dispatchRun c rr ts s1) s

/-! ### Optimizer steps (R305, R372) -/

/-- A collective that has not completed on this member, bound or fetched before command `o`, writes its summary at `a`. -/
def summaryPending (o : Cmd) (a : Nat) (s : State) : Bool :=
  (List.range 512).any (fun k => (coll k s).phase != 0 && la k (gSummary (coll k s).desc) s == a) ||
  (earlier o s).any fun c => c.phase == 0 && c.op == 4 && recNat (rawRead 6 (c.a18 + 0x60) 8 s).1 0 8 % 2 ^ 48 == a

/-- The decision of R305 on summary words: a status, and the gate word. -/
def gateDecide (ws : List Nat) : Nat × Nat :=
  if ws.any fun w => bit w 9 then (4, 0)
  else
    let modes := (ws.map fun w => bits w 10 2).eraseDups
    if modes.length != 1 then (1, 0)
    else if modes == [0] then (if ws.any fun w => bit w 8 then (5, 0) else (0, 2 ^ ws.length - 1))
    else (0, (List.range ws.length).foldl (fun a i => if bit (ws.getD i 0) 8 then a else a + 2 ^ i) 0)

/-- Words read at the addresses of a summary list, or the status of a read that failed. -/
def readWords : List Nat → State → (Nat ⊕ List Nat) × State
  | [], s => (.inr [], s)
  | a :: l, s =>
    match smRead a 8 s with
    | (0, d, s) =>
      (match readWords l s with
       | (.inr r, s) => (.inr (recNat d 0 8 :: r), s)
       | (.inl e, s) => (.inl e, s))
    | (e, _, s) => (.inl e, s)

/-- OPTSTEP (R372). A collective is no work of the siding (R179). While replay_pending is set it completes with held, whatever its structures hold (R357). -/
def startOpt (q : CmdSel) (s : State) : State :=
  startFront q 6 (fun c s =>
    if !runFieldsOk c || sidingRing c.ring s then some (refuseCmd c 1 s)
    else if on ITG_STATUS_replay_pending 0 s then (let (c, s) := started c s; some (complete c 6 0 0 0 0 s)) else
    let n := c.fld 0x68 0 6 + 1
    match runReadsWith (c.fld 0x58 0 48) (8 * n) (fun _ => true) c s with
      | (.inl e, s2) => some (refuseRead c e s2)
      | (.inr (d, rr), s2) =>
         let as := (List.range n).map fun i => recNat d (8 * i) 8 % 2 ^ 48
         if as.any fun a => summaryPending c a s then none else
         match readWords as s2 with
         | (.inl e, s3) => some (refuseRead c e s3)
         | (.inr ws, s3) =>
           let (st, g) := gateDecide ws
           if st != 0 || g = 0 then (let (c, s) := started c s3; some (complete c st 0 0 0 0 s))
           else if !mapped c.argBase 8 s then some (refuseRead c 11 s3)
           else if anyDown c.argBase 8 s then some (refuseRead c 3 s3)
           else
             (runResources c rr.list s).map fun ts =>
               let s4 := if ts.any fun t => rd PWR_TILE_state t s != 0 then s3 else putBytes 6 c.argBase (leBytes g 8) s3
               dispatchRun c rr ts s4) s

/-! ### Express, collective, shunting and management commands -/

/-- Field checks of a command that names one descriptor at 0x18, aligned to `al`. -/
def oneDescOk (c : Cmd) (al : Nat) : Bool := c.reservedOk && c.a18 % al == 0 && c.waybill % 64 == 0

/-- Express queue of a ring (R179): 0 training, 1 siding. -/
def expQueue (k : Nat) (s : State) : Nat := if sidingRing k s then 1 else 0

/-- XVLOAD (R170): its descriptor must be 32-byte aligned, as long as it is (R173 refuses a misaligned address and R170 names no alignment; DESIGN CHOICE, log entry 93). It waits until the queue's earlier matrix-vector command has read its last chunk (R174). -/
def startXvload (q : CmdSel) (s : State) : State :=
  startFront q 2 (fun c s =>
    if !oneDescOk c 32 then some (refuseCmd c 1 s) else
    match smRead c.a18 32 s with
    | (0, d, s1) =>
      let e := expQueue c.ring s
      if !loadLegal d then some (refuseRead c 1 s1)
      else if !lastChunkRead e s then none
      else
        let (c, s) := started c s1
        let (st, a, s) := vectorLoad e d s
        some (complete c st 0 0 0 a (lastExpStatus st s))
    | (e, _, s1) => some (refuseRead c e s1)) s

/-- XMV (R171): waits for the command slot of its queue. -/
def startXmv (q : CmdSel) (s : State) : State :=
  startFront q 3 (fun c s =>
    if !oneDescOk c 128 then some (refuseCmd c 1 s) else
    match smRead c.a18 128 s with
    | (0, d, s1) =>
      let e := expQueue c.ring s
      if !mvLegal e d s then some (refuseRead c 1 s1)
      else if (xcmd e s).isSome then none
      else (let (c, s) := started c s1; some (mvStart e d c.id s))
    | (e, _, s1) => some (refuseRead c e s1)) s

/-- The tile that the bind fields of a COLL name: none where they bind none, an error where they name no rank of a running RUN command (R368), or one on a siding tile (R179). Of commands with one identifier the latest fetched is named (DESIGN CHOICE, log entry 88). -/
def bindTile (c : Cmd) (s : State) : Option (Option Nat) :=
  let id := c.fld 0x20 0 64
  if id = 0 then some none else
  match s.host.cmds.reverse.find? fun x => x.name == id && bit x.id 65 == bit c.id 65 && x.coll.isNone && x.phase == 1 && x.op == 1 with
  | some x => (x.ranks[c.fld 0x28 0 8]?).bind fun r => if on ITG_TILE_CTRL_siding r.tile s then none else some (some r.tile)
  | none => none

/-- The first key of the set in which a COLL command binds: an adopted one binds in the dead twin's, whose map its descriptor lies in (R334). -/
def collSet (c : Cmd) : Nat := if bit c.id 65 then 256 else 0

/-- COLL (R286 to R288): waits while its cid is bound. -/
def startColl (q : CmdSel) (s : State) : State :=
  startFront q 4 (fun c s =>
    if !oneDescOk c 128 || sidingRing c.ring s || (bindTile c s).isNone then some (refuseCmd c 1 s) else
    match smRead (la (collSet c) c.a18 s) 128 s with
    | (0, d, s1) =>
      let k := gCid d + collSet c
      (match collCheck k d s1 with
       | (0, s2) =>
         if (coll k s).phase != 0 then none
         else (let (c, s) := started c s2; some (collBind k c.a18 (some c.id) ((bindTile c s).getD none) d s))
       | (e, s2) => some (refuseRead c e s2))
    | (e, _, s1) => some (refuseRead c e s1)) s

/-- SHUNT (R218, R368): waits while another command holds the channel or a chain runs on it; `wake` wakes the half of the engine that holds it (R407). -/
def startShunt (wake : Nat → State → State) (q : CmdSel) (s : State) : State :=
  startFront q 7 (fun c s =>
    let ch := c.fld 0x20 0 7
    if !oneDescOk c 1 then some (refuseCmd c 1 s)
    else if (heldChans s).testBit ch || chState ch s != 0 then none
    else (let (c, s) := started c (wake ch s); some (chainStart ch c.a18 (sidingRing c.ring s) (some c.id) s))) s

/-- The end of the SHUNT command with identifier `id`: the codes of R229 as statuses. -/
def shuntEnd (id code addr : Nat) (s : State) : State :=
  match cmdOf id s with
  | none => s
  | some c => complete c (match code with | 0 => 0 | 1 => 1 | 2 => 11 | 3 => 2 | 5 => 4 | _ => 3) 0 0 0 addr s

/-- An order from its 24 bytes (R378). -/
def orderOf (d : List Byte) : MOrder :=
  let w := recNat d 0 8
  { off := bits w 0 26, read := bit w 32, value := recNat d 8 8, mask := recNat d 16 8 }

/-- The orders of a list. -/
def ordersOf (n : Nat) (d : List Byte) : List MOrder := (List.range n).map fun i => orderOf (d.drop (24 * i))

/-- An order list at the arbiter. -/
def arbPush (m : MList) (s : State) : State := modHost (fun h => { h with arb := h.arb ++ [m] }) s

/-- The tile whose registers order `o` names, or that it asks a possession of. -/
def orderTile (o : MOrder) : Option Nat :=
  match findReg o.off with
  | some (r, i, _) =>
    if r.blk = .TIL ∨ r.id = ITG_TILE_CTRL.id ∨ r.id = PWR_TILE.id then some i
    else if r.id = ITG_POSS_REQ.id ∧ !o.read then some ((o.value &&& o.mask) % 256) else none
  | none => none

/-- A channel that work outside the siding uses: it runs for it, or a command of another ring holds it. -/
def trainingChan (ch : Nat) (s : State) : Bool :=
  chState ch s != 0 && !(shunt ch s).siding || (heldChans (modHost (fun h => { h with cmds := h.cmds.filter fun c => !sidingRing c.ring s }) s)).testBit ch

/-- A write by which the siding would change the training run (R182; DEDUCED, log entry 78): a reset of the module's work, a register of another ring, of a channel that the training uses, of a port, of the router and its timetables, of the memory stations, of a watchpoint or a trace buffer, or one by which the sampling and the possessions of the whole module are set. -/
def orderIntrudes (o : MOrder) (s : State) : Bool :=
  !o.read && match findReg o.off with
  | some (r, i, _) =>
    if r.id = HST_CONTROL.id then true
    else if [HST_RING_BASE.id, HST_RING_CONTROL.id, HST_RING_TAIL.id, HST_RING_HEAD.id, HST_CQ_BASE.id, HST_CQ_HEAD.id, HST_CQ_TAIL.id].contains r.id then !sidingRing i s
    else match r.blk with
      | .SHN => trainingChan i s
      | .ULP | .RTR | .MST => true
      | .ITG => (orderTile o).isNone
      | _ => [DBG_WP_BASE.id, DBG_WP_LIMIT.id, DBG_TRACE_BASE.id, DBG_TRACE_CTL.id].contains r.id
  | none => false

/-- An order a ring's class may not give (R179, R182): one that names a tile of the other class, where it is an order for this module (`own`), and from the siding ring one that names a collective or the cut, or intrudes on the training here. -/
def orderBarred (sid own : Bool) (o : MOrder) (s : State) : Bool :=
  sid && decide (0xA00000 ≤ o.off ∧ o.off < 0xC00000) || own && sid && orderIntrudes o s || own &&
  match orderTile o with
  | some t => on ITG_TILE_CTRL_siding t s != sid
  | none => false

/-- The coordinate a command's requests carry: the dead twin's where it adopted the command (R334). -/
def cmdCoord (c : Cmd) (s : State) : Nat := if bit c.id 65 then twinOf (ownCoord s) else ownCoord s

/-- MGT (R378): to this module's own arbiter, or as a packet to another. -/
def startMgt (q : CmdSel) (s : State) : State :=
  startFront q 8 (fun c s =>
    let n := c.fld 0x20 0 4 + 1
    if !oneDescOk c 1 || decide (n > 10) then some (refuseCmd c 1 s) else
    match smRead c.a18 (24 * n) s with
    | (0, d, s1) =>
      let os := ordersOf n d
      let dst := c.fld 0x20 5 18
      let atomic := c.fld 0x20 4 1 == 1
      if os.any fun o => orderBarred (sidingRing c.ring s) (dst == ownCoord s) o s then some (refuseRead c 1 s1)
      else if dst = ownCoord s then
        (let (c, s) := started c s1; some (arbPush { master := 1, orders := os, atomic := atomic, cmd := some c.id } s))
      else if (freeTag s).isNone then none
      else
        let (c, s) := started c s1
        some (requestAs (cmdCoord c s) (.mgt c.id) { typ := 0x50, vc := 4, tt := 0, dst := dst, src := 0, payload := leBytes (n - 1 + (if atomic then 16 else 0)) 8 ++ d } s)
    | (e, _, s1) => some (refuseRead c e s1)) s

/-- The reply of an MGT command arrives: it goes to the reply address, and the command completes with the largest order status (R378). -/
def mgtReply (id : Nat) (d : List Byte) (s : State) : State :=
  match cmdOf id s with
  | none => s
  | some c =>
    let a := c.fld 0x28 0 48
    let n := min (recNat d 0 1 % 16 + 1) ((d.length - 8) / 16)
    let st := (List.range n).foldl (fun m i => max m (recNat d (8 + 16 * i) 1)) 0
    if !mapped a d.length s then complete c 11 0 0 0 a s
    else if anyDown a d.length s then complete c 3 0 0 0 a s
    else complete c st 0 0 0 0 (putBytes 6 a d s)

/-- MGT_TIMEOUT: no reply to the command of tag `k` within 1 ms. -/
def mgtTimeout (k : Nat) (s : State) : State :=
  match Map.get (fun _ => none) s.tags k with
  | some { who := .mgt id, abandoned := false, .. } =>
    let s := abandonTag k s
    (match cmdOf id s with
     | some c => complete c 4 0 0 0 0 s
     | none => s)
  | _ => s

/-- RELEASE (R371): the tiles of a command that stopped on an exception are free; a command of the other class is not for this ring to release (R179). -/
def startRelease (q : CmdSel) (s : State) : State :=
  startFront q 9 (fun c s =>
    let id := c.fld 0x18 0 64
    if !(c.reservedOk && c.waybill % 64 == 0) then some (refuseCmd c 1 s) else
    match s.host.cmds.filter fun x => x.phase == 3 && x.name == id && bit x.id 65 == bit c.id 65 && sidingRing x.ring s == sidingRing c.ring s with
    | [] => some (refuseCmd c 1 s)
    | l =>
      let (c, s) := started c s
      let s := l.foldl (fun s x => dropCmd x (freeTiles x.tiles s)) s
      some (complete c 0 0 0 0 0 s)) s

/-! ### What units report -/

/-- END of tile `t` with `code` (R123, R371, R373). -/
def rankEnded (t code : Nat) (s : State) : State :=
  match s.host.cmds.find? fun c => c.phase == 1 && c.ranks.any fun r => r.tile == t with
  | none => s
  | some c =>
    let c := { c with ranks := c.ranks.map fun r => if r.tile == t then { r with st := 2, code := code } else r }
    let (c, s) := schedAdvance c (putCmd c s)
    runDone c s

/-- A tile that a possession or a cut holds comes back stopped. -/
def lentStop (t : Nat) (s : State) : State := if lent t s then lentState t (fun n => if n = 1 ∨ n = 2 then 3 else n) s else s

/-- Ranks other than tile `t`'s halted at a long-word boundary; one that a possession or a cut holds comes back halted. -/
def haltOthers (c : Cmd) (t : Nat) (s : State) : State :=
  c.tiles.foldl (fun s u => if u == t then s
    else if lent u s then lentStop u s
    else if coreState u s == 1 || coreState u s == 2 then stopCore u s else s) s

/-- The core of tile `t` stopped on an exception (R371). -/
def rankStopped (t : Nat) (s : State) : State :=
  match s.host.cmds.find? fun c => c.phase == 1 && c.ranks.any fun r => r.tile == t with
  | none => s
  | some c =>
    let r := c.ranks.findIdx fun r => r.tile == t
    complete c 9 (regRaw TIL_CS_CAUSE t s) r t (rd TIL_CS_EADDR_val t s) (haltOthers c t s)

/-- An express command ends. -/
def expressEnd (id status addr : Nat) (s : State) : State :=
  match cmdOf id s with
  | none => s
  | some c => complete c status 0 0 0 addr s

/-- A collective completes on this member. -/
def collEnd (id code : Nat) (s : State) : State :=
  match cmdOf id s with
  | none => s
  | some c => complete c code 0 0 0 0 s

/-- A replay command of collective `key` waits to be dispatched (R300): 128 bytes read at replay_cmd on behalf of the COLL command's ring. An unreadable entry ends it as R451 gives. -/
def replayCmd (key : Nat) (s : State) : State :=
  let x := coll key s
  let id := x.cmd.getD 0
  let (e, d, s) := smRead (la key (gReplay x.desc) s) 128 s
  let s := ringRetire (id % 2 ^ 64 / 2 ^ 58) s
  let c : Cmd := { id := id + 2 ^ 64, entry := if e = 0 then d else List.replicate 128 0#8, coll := some key }
  let s := modHost (fun h => { h with cmds := h.cmds ++ [c] }) s
  if e != 0 then refuseCmd c e s else if (usedBits c.op).isEmpty then refuseCmd c 1 s else s

end Sys2Proof.Machine
end

