-- ==== Sys2Proof/Machine/Integrity.lean ====
section
/-! DEFINITION. Silent errors, possessions and spare tiles (R342 to R362): checks of sampled passes, possessions, failed tiles, repeats of commands, spares, and the replay after a vote. -/

namespace Sys2Proof.Machine

def possFld (d : Nat) : Fld := if d = 0 then ITG_STATUS_poss_west else ITG_STATUS_poss_east
def dieTiles (d : Nat) : List Nat := (List.range 84).map fun i => 84 * d + i
def ctrl (t : Nat) (s : State) : Nat := rd ITG_TILE_CTRL_state t s
def setCtrl (t v : Nat) (s : State) : State := wr ITG_TILE_CTRL_state t v s

/-- The failed tile that spare `t` was chosen to replace (R355). -/
def spareFor (t : Nat) (s : State) : Option Nat := Map.get (fun _ => none) s.itg.spare t
def setSpareFor (t : Nat) (v : Option Nat) (s : State) : State := { s with itg := { s.itg with spare := Map.set (fun _ => none) s.itg.spare t v } }

/-! ### Repeated commands (R353, R354) -/

/-- The lane row of tile `t` cleared of all it holds or has under way: a sampled pass is dropped, its history steps are given up. -/
def clearRow (t : Nat) (s : State) : State :=
  let s := dropDrains t (sampleDrop t s)
  let s := emptyRow t (modLr t (fun l => { l with queue := [], suspBusy := none, suspAddr := none, restBusy := none, restIdx := none,
                                                  suspHeld := false, heldExc := false, exc := none }) s)
  wr TIL_LR_STATUS_suspended t 0 s

/-- A tile's work discarded: its core and lane row as after a reset, counters apart; the closing image of a pass handed over is written first (R343). A tile that a possession or a cut holds is discarded once it comes back. -/
def discardTile (t : Nat) (s : State) : State :=
  if lent t s then lentState t (fun _ => 7) s else
  let c := core t s
  setCoreState t 0 (setCore t { cycle0 := c.cycle0, longWords := c.longWords, heldTotal := c.heldTotal, heldCycles := c.heldCycles, loadBytes := c.loadBytes, storeBytes := c.storeBytes }
    (clearRow t (fillAll t s)))

/-- Tiles to take the places of `n` failed ones of command `c`. -/
def standIns (c : Cmd) (n : Nat) (s : State) : Option (List Nat) :=
  let ts := ((placeOrder s).filter fun t => tileFree t s && on ITG_TILE_CTRL_siding t s == sidingRing c.ring s).take n
  if ts.length = n then some ts else none

/-- The tiles of a command with those of `m` replaced, each failed tile with the one that stands in for it. -/
def replaced (m : List (Nat × Nat)) (t : Nat) : Nat := ((m.find? fun e => e.1 == t).map (·.2)).getD t

/-- A command in phase 2, stopped with tiles of its ranks failed, is dispatched again once a tile stands in for each (R353), and tiles asleep are awake and those lent are back. -/
def repeatCmd (c : Cmd) (s : State) : State :=
  let bad := c.tiles.filter fun t => ctrl t s == 4
  match standIns c bad.length s with
  | none => s
  | some us =>
    let m := bad.zip us
    let ts := c.tiles.map (replaced m)
    if ts.any fun t => rd PWR_TILE_state t s != 0 then ts.foldl (fun s t => wakeTile t s) s
    else if ts.any fun t => lent t s then s
    else
    match smRead c.a18 c.progLen s with
    | (0, prog, s) =>
      let s := ringRetire c.ring s
      let cnt := counters bad s
      let cnu := counters us s
      let adj := (List.range 13).map fun k => c.adj.getD k 0 + (cnt.getD k 0 : Int) - (cnu.getD k 0 : Int)
      let ranks := c.ranks.map fun x => ({ tile := replaced m x.tile, st := 1, drains := x.drains, scales := x.scales } : Rank)
      let s := (List.range c.ranks.length).foldl (fun s r => match c.ranks[r]? with
        | some x => if ctrl x.tile s == 4 then itgEvent 6 x.tile (replaced m x.tile) r c.name 0 s else s
        | none => s) s
      let c := { c with phase := 1, ranks := ranks, repeats := c.repeats + 1, adj := adj, part := c.part || uncounted us s }
      let s := { s with colls := s.colls.map fun e => (e.1, { e.2 with tile := e.2.tile.map (replaced m) }) }
      let s := bump ITG_REPEATS_count 0 1 (putCmd c s)
      eachRank ranks (rankGo c) (eachRank ranks (rankSetup c prog) s)
    | (e, _, s) => refuseRead c e s

/-- Commands that wait for a tile to stand in, tried again. -/
def repeatWaiting (s : State) : State := s.host.cmds.foldl (fun s c => if c.phase == 2 then repeatCmd c s else s) s

/-- The command that had work on failed tile `t` (R353): stopped and repeated, or completed with tile-failed. -/
def cmdTileFailed (t : Nat) (s : State) : State :=
  match s.host.cmds.find? fun c => (c.phase == 1 || c.phase == 2) && c.ranks.any fun r => r.tile == t with
  | none => s
  | some c =>
    let i := c.ranks.findIdx fun r => r.tile == t
    if c.repeatable then
      let ranks := c.ranks.map fun r =>
        let q := core r.tile s
        ({ tile := r.tile, st := 1, drains := max r.drains q.drainsDone, scales := if q.drainsDone ≥ r.drains then q.scales else r.scales } : Rank)
      let c := { c with phase := 2, ranks := ranks }
      let s := putCmd c s
      let s := c.tiles.foldl (fun s u => if ctrl u s == 4 then s else discardTile u (leaveHist u s)) s
      repeatCmd c s
    else
      let s := itgEvent 7 t 0xFF 0 c.name 0 s
      complete c 8 0 i t 0 (haltOthers c t s)

/-! ### Failed tiles and spares (R352, R355) -/

def enabledTiles (s : State) : Nat := rd ITG_STATUS_enabled 0 s

/-- A spare chosen in place of failed tile `t`: the lowest on its die, or on the other. -/
def chooseSpare (t : Nat) (s : State) : State :=
  let d := dieOfTile t
  match (dieTiles d ++ dieTiles (1 - d)).find? fun u => (ctrl u s == 1 || ctrl u s == 2 && (poss (dieOfTile u) s).prev == 1) && (spareFor u s).isNone with
  | some u => setSpareFor u (some t) s
  | none =>
    if enabledTiles s < 160 then itgEvent 12 t 0xFF (enabledTiles s - 128) 0 0 s else s

/-- The possession of die `d` is over. -/
def possEnd (d : Nat) (s : State) : State :=
  let p := poss d s
  let s := { s with itg := { s.itg with last := Map.set (fun _ => 0) s.itg.last d (p.tile + 1) } }
  wr (possFld d) 0 0xFF (setPoss d {} s)

/-- The tile on which slot `k` is being checked. -/
def runner (c : CheckSlot) : Option Nat := if c.st = 4 then some c.checker else if c.st = 6 then some c.second else none

/-- The check on tile `t` is given up, its lane row empty again; the slot waits for another checker. -/
def checkStop (t : Nat) (s : State) : State :=
  (List.range 16).foldl (fun s k =>
    let c := checkSlot k s
    if runner c = some t then setCheck k { c with st := c.st - 1 } (clearRow t s) else s) s

/-- A failed tile stopped and isolated (R352): its core is stopped, its accesses are not made, its lane row is cleared, and what it had of checks is given up. Where its command repeats, an open history step waits for the repeat of its drain (R354). -/
def isolate (t : Nat) (again : Bool) (s : State) : State :=
  let s := (List.range 16).foldl (fun s k =>
    let c := checkSlot k s
    if c.st == 2 && c.tile == t then bump ITG_DUP_DROPPED_count 0 1 (setCheck k {} s) else s) (checkStop t s)
  let s := if again then leaveHist t s else s
  let s := if coreState t s == 0 then s else stopCore t s
  clearRow t (modCore t (fun c => { c with outst := [], defer := none, ctl := 0, replay := [] }) s)

/-- Tile `t` becomes failed (R352), with the cause in the order of that rule. -/
def tileFail (t cause : Nat) (s : State) : State :=
  let st := ctrl t s
  if t ≥ 168 ∨ st = 4 ∨ st = 5 then s else
  let d := dieOfTile t
  let under := (poss d s).st != 0 && (poss d s).tile == t
  let spare := st == 1 || (st == 2 && (poss d s).prev == 1)
  let forTile := spareFor t s
  let s := if under then possEnd d s else s
  let s := setSpareFor t none (setCtrl t 4 s)
  let s := { s with itg := { s.itg with reqs := s.itg.reqs.filter fun r => r.1 != t } }
  let s := if spare then wr ITG_STATUS_spares 0 (rd ITG_STATUS_spares 0 s - 1) s else wr ITG_STATUS_enabled 0 (enabledTiles s - 1) s
  let who := s.host.cmds.find? fun c => (c.phase == 1 || c.phase == 2) && c.ranks.any fun r => r.tile == t
  let s := isolate t ((who.map Cmd.repeatable).getD false) s
  let s := itgEvent 4 t 0xFF cause ((who.map Cmd.name).getD 0) 0 s
  let s := cmdTileFailed t s
  if spare then (match forTile with | some f => chooseSpare f s | none => s) else chooseSpare t s

/-- A core that issues, waits or saves. -/
def coreBusy (t : Nat) (s : State) : Bool := coreState t s == 1 || coreState t s == 2 || coreState t s == 4

/-- A reset reaches the tiles `ts`: those whose cores ran have 10 ms to stop (R381). -/
def haltAsked (ts : List Nat) (s : State) : State :=
  { s with itg := { s.itg with halting := s.itg.halting.filter (fun t => !ts.contains t) ++ ts.filter fun t => coreBusy t s } }

/-- TILE_STOP_TIMEOUT: a tile asked to stop, by a halt, a save or a reset, has not reached a long-word boundary. -/
def tileStopTimeout (t : Nat) (s : State) : State :=
  if coreBusy t s || s.itg.halting.contains t then tileFail t 3 { s with itg := { s.itg with halting := s.itg.halting.filter (· != t) } } else s

/-! ### Possessions (R347 to R351) -/

/-- Whether a tile may be possessed at all: enabled or spare. -/
def possessable (t : Nat) (s : State) : Bool := ctrl t s == 0 || ctrl t s == 1 || ctrl t s == 3

/-- The tile die `d` takes next, `skip` passed over for the round: a spare to be enabled, the oldest request, else the next in rotation. -/
def possNext (d : Nat) (s : State) (skip : Option Nat := none) : Option (Nat × Bool × Bool) :=
  let may := fun (t : Nat) => possessable t s && skip != some t
  match (dieTiles d).find? fun t => may t && (spareFor t s).isSome with
  | some t => some (t, false, false)
  | none =>
    match s.itg.reqs.find? fun r => dieOfTile r.1 == d && may r.1 with
    | some r => some r
    | none =>
      let l := Map.get (fun _ => 0) s.itg.last d
      ((dieTiles d).filter (fun t => decide (t ≥ l)) ++ dieTiles d).find? may |>.map fun t => (t, false, false)

/-- A tile chosen by die `d`; the dispatcher gives it nothing more. -/
def possChoose (d : Nat) (skip : Option Nat) (s : State) : State :=
  match possNext d s skip with
  | none => setPoss d {} s
  | some (t, f, c) => setPoss d { st := 1, tile := t, forced := f, cal := c } s

/-- POSSESSION_TIMER: a tile still busy at the second timer after it was chosen is skipped for the round. -/
def possTimer (d : Nat) (s : State) : State :=
  let p := poss d s
  if p.st = 0 then possChoose d none s
  else if p.st != 1 || p.forced then s
  else if p.rounds + 1 < 2 then setPoss d { p with rounds := p.rounds + 1 } s
  else possChoose d (some p.tile) { s with itg := { s.itg with last := Map.set (fun _ => 0) s.itg.last d (p.tile + 1) } }

/-- The core of a possessed tile goes on as it was before. -/
def possGoOn (p : Poss) (s : State) : State :=
  let t := p.tile
  if p.core = 7 then discardTile t s
  else if coreState t s != 3 then s
  else wr TIL_CS_EPC_val t p.epc (if p.core = 0 then setCoreState t 0 s else if p.core == 1 || p.core == 2 then coreGoOn t p.step s else s)

/-- The possession of die `d` could not begin: its tile goes on as it was. -/
def possGiveUp (d : Nat) (s : State) : State :=
  let p := poss d s
  possGoOn p (possEnd d (setCtrl p.tile p.prev s))

/-- The stores of the possessed tile copied to the possession slot, and the test image run (R348 steps 2 and 3). -/
def possCopy (d : Nat) (s : State) : State :=
  let p := poss d s
  let a := winAddr p.tile 0
  let slot := rd ITG_POSS_BASE_base d s * 2 ^ 22
  let words := s.storeErr.filterMap fun e => if e.2 ≥ 2 ∧ a ≤ e.1 ∧ e.1 < a + 0x220000 then some e.1 else none
  let (b, _, s) := rawRead 6 a 0x220000 s
  setPoss d { p with st := 3, defer := (core p.tile s).defer, bad := words } (putBytes 6 slot b s)

/-- The stores of the possessed tile copied back from the possession slot (R348 step 4): a word that was uncorrectable is so again, and one that reads so from the slot becomes so. -/
def possBack (d : Nat) (s : State) : State :=
  let p := poss d s
  let a := winAddr p.tile 0
  let (b, marks, s) := readMarked (rd ITG_POSS_BASE_base d s * 2 ^ 22) 0x220000 s
  let words := marks.flatMap fun x => (List.range 8).map fun i => a + x + 8 * i
  (p.bad ++ words).foldl (fun s w => setStoreErr w 2 s) (putBytes 6 a b s)

/-- POSSESSION_START: the chosen tile, idle or to be pre-empted, is saved under R138, and the requests for it are taken. It waits for a sampled pass to end (R351), and an island asleep is woken first (R410). A spare chosen for a failed tile gets the whole test, whatever was asked (R355). -/
def possStart (d : Nat) (s : State) : State :=
  let p := poss d s
  let t := p.tile
  if p.st != 1 then s
  else if (lrow t s).sample.isSome || checking t s then s
  else if !p.forced && !(coreState t s == 0 && (holder t s).isNone) then s
  else if coreState t s == 6 || (lrow t s).restBusy.isSome then s
  else if rd PWR_TILE_state t s != 0 then wakeTile t s
  else
    let was := coreState t s
    let away := if on TIL_LR_STATUS_suspended t s then some ((lrow t s).suspAddr.getD (saveAddr t s)) else (lrow t s).suspBusy
    let takes := spareFor t s
    let cal := p.cal && takes.isNone && (s.itg.reqs.filter fun r => r.1 == t).all fun r => r.2.2
    let s := { s with itg := { s.itg with reqs := s.itg.reqs.filter fun r => r.1 != t } }
    let s := bump ITG_POSSESSIONS_count 0 1 (if p.forced then bump ITG_FORCED_count 0 1 s else s)
    let s := wr (possFld d) 0 t s
    let s := setPoss d { p with st := 2, prev := ctrl t s, core := was, cal := cal, takes := takes, away := away, epc := rd TIL_CS_EPC_val t s, step := (core t s).stepping } s
    let s := setCtrl t 2 s
    match saveStart t (saveAddr t s) (ctxAddr t s) s with
    | (2, s) => possGiveUp d s
    | (_, s) => if coreState t s == 5 then possCopy d s else s

/-- The save of a possessed tile has ended. -/
def possSaved (t : Nat) (s : State) : State :=
  let d := dieOfTile t
  let p := poss d s
  if p.st == 2 && p.tile == t then possCopy d s else s

/-- A save that could not be made ends the possession; the tile goes on as it was. -/
def possSaveFailed (t : Nat) (s : State) : State :=
  let d := dieOfTile t
  let p := poss d s
  if p.st == 2 && p.tile == t then possGiveUp d s else s

/-- POSSESSION_TEST_END: `stage` is the first that failed; trim and droop threshold are those of the calibration. A possession for calibration alone skips the stages before it, which cannot fail (R361). -/
def possTestEnd (d : Nat) (pass : Bool) (stage trim droop : Nat) (s : State) : State :=
  let p := poss d s
  if p.st != 3 then s
  else if !pass && !(p.cal && decide (stage < 4)) then tileFail p.tile 0 (itgEvent 3 p.tile 0xFF stage 0 0 s)
  else setPoss d { p with st := 4, trim := trim, droop := droop } (possBack d s)

/-- A tested spare is enabled in place of failed tile `f` (R355). -/
def spareTakeover (t f : Nat) (s : State) : State :=
  let s := setSpareFor t none (setCtrl t 0 s)
  let s := if on ITG_TILE_CTRL_siding f s then wr ITG_TILE_CTRL_siding t 1 s else s
  let s := wr ITG_STATUS_enabled 0 (enabledTiles s + 1) (wr ITG_STATUS_spares 0 (rd ITG_STATUS_spares 0 s - 1) s)
  itgEvent 5 t f 0 0 0 s

/-- A lane row that was suspended at `a` before its context was saved is left so again: its queue goes back to the replay buffer, and its record stands (R95, R137). -/
def rowAway (t a : Nat) (s : State) : State :=
  let q := (lrow t s).queue
  let s := modCore t (fun c => { c with replay := q }) (modLr t (fun l => { l with queue := [] }) s)
  wr TIL_LR_STATUS_suspended t 1 (modLr t (fun l => { l with suspAddr := some a }) (emptyRow t s))

/-- The end of a possession that passed: the tile is what it was before, a suspect one enabled, a spare enabled that was chosen before this possession began; one chosen since is tested in the next (R355). -/
def possDone (d : Nat) (s : State) : State :=
  let p := poss d s
  let t := p.tile
  let s := wr PWR_TILE_trim t p.trim (wr PWR_TILE_droop t p.droop s)
  let s := match p.takes with
    | some f => spareTakeover t f s
    | none => setCtrl t (if p.prev = 3 then 0 else p.prev) s
  let s := if p.st = 5 then modCore t (fun c => { c with defer := p.defer }) s else s
  let s := match p.away with
    | some a => if coreState t s == 3 && !on TIL_LR_STATUS_suspended t s then rowAway t a s else s
    | none => s
  possGoOn p (possEnd d s)

/-- POSSESSION_RETURN: the tile is restored under R140. One whose core was saved before the possession, or whose work was discarded meanwhile, has no context to take back; while another save or restore of it is under way it waits. -/
def possReturn (d : Nat) (s : State) : State :=
  let p := poss d s
  let t := p.tile
  let c := coreState t s
  if p.st != 4 || c == 4 || c == 6 then s
  else if p.core ≥ 4 ∨ (c ≠ 5 ∧ c ≠ 0) then possDone d s
  else
    match restoreCore t (ctxAddr t s) (if rowEmpty t s then s else clearRow t s) with
    | (0, s) => setPoss d { p with st := 5 } s
    | (_, s) => possDone d s

/-- The restore of a possessed tile has ended. -/
def possRestored (t : Nat) (s : State) : State :=
  let d := dieOfTile t
  let p := poss d s
  if p.st == 5 && p.tile == t then possDone d s else s

/-- The oldest forced request for a tile of die `d` is taken as soon as no possession of the die is under way; one taken that could not begin at once is tried again. -/
def possForced (d : Nat) (s : State) : State :=
  let p := poss d s
  if p.st ≥ 2 then s
  else if p.st = 1 ∧ p.forced then possStart d s
  else
    match s.itg.reqs.find? fun r => dieOfTile r.1 == d && r.2.1 && possessable r.1 s with
    | some r => possStart d (setPoss d { st := 1, tile := r.1, forced := true, cal := r.2.2 } s)
    | none => s

/-- ITG_POSS_REQ (R349 to R351): a request joins those that wait, in arrival order; a forced one for a tile under possession has no effect. -/
def possRequest (t : Nat) (force cal : Bool) (s : State) : State :=
  if t ≥ 168 ∨ ctrl t s = 4 ∨ ctrl t s = 5 then event boxITG 0x0C t 0 s
  else if force && underPoss t s then s
  else
    let s := { s with itg := { s.itg with reqs := s.itg.reqs ++ [(t, force, cal)] } }
    if force then possForced (dieOfTile t) s else s

/-! ### Checks (R343 to R346) -/

/-- Tiles with a verdict pending. -/
def underVerdict (t : Nat) (s : State) : Bool :=
  (List.range 16).any fun k => let c := checkSlot k s; decide (c.st ≥ 5) && (c.tile == t || c.checker == t)

/-- A checker for slot `k`: an enabled idle tile with an empty lane row, on the other die if one is free. -/
def chooseChecker (k : Nat) (s : State) : Option Nat :=
  let c := checkSlot k s
  let d := dieOfTile c.tile
  (dieTiles (1 - d) ++ dieTiles d).find? fun t =>
    tileFree t s && rowEmpty t s && t != c.tile && !underVerdict t s && !(c.st == 5 && t == c.checker)

/-- Slot `k` is dropped unchecked, and counted. -/
def checkDrop (k : Nat) (s : State) : State := bump ITG_DUP_DROPPED_count 0 1 (setCheck k {} s)

/-- The opening image of slot `k` in the lane row of tile `t` (R344): the pass's set, floors, count, stationary register and descriptor; nothing else of the image counts, and no drain is taken. A slot that the yard gives back as uncorrectable cannot be checked: it is dropped (R209; DESIGN CHOICE, log entry 93). -/
def checkLoad (k t : Nat) (s : State) : State :=
  let (d, bad, s) := rawRead 6 (slotAddr k s) 337408 s
  if bad then checkDrop k s else
  let l := rowOf d (lrow t s)
  let s := rowFields t d (setLr t { l with queue := [], run := none, waiting := none, groupValid := false, groupSteps := 0, shorts := [] } s)
  drainBits t (wr TIL_LR_STATUS_pending_valid t 0 (wr TIL_LR_STATUS_shadow_valid t 0 (wr TIL_LR_STATUS_set0_parked t 0 (wr TIL_LR_STATUS_set1_parked t 0 s))))

/-- CHECK_START: the checker's lane row takes the opening image. -/
def checkStart (k : Nat) (s : State) : State :=
  let c := checkSlot k s
  if c.st != 3 && c.st != 5 then s else
  match chooseChecker k s with
  | none => s
  | some t =>
    if rd PWR_TILE_state t s != 0 then wakeTile t s
    else checkLoad k t (if c.st = 3 then setCheck k { c with st := 4, checker := t } s else setCheck k { c with st := 6, second := t } s)

/-- A logged step fed to the lane row of checker `t` (R344), where it counts as any step that enters Read (R106). -/
def feedStep (t : Nat) (e : List Byte) (s : State) : State :=
  let info := recNat e 264 8
  let idx := bits info 0 5
  let floor := bits info 5 10
  let l := lrow t s
  let set := aset t s
  let s := (accRead t (fun k => k / 64 == 32 * set + idx) s).2
  let s := if l.groupValid && l.groupIndex != idx then promote t set s else s
  let p := pOf l.current
  let (l', rs) := stepLanes (lrow t s) (sset t s) set idx (e.take (opBytes p)) ((e.drop 256).take (kOf p / 32)) (bits info 15 2) (bit info 17) floor
  let l' := { l' with floors := Map.set (fun _ => {}) l'.floors (8 * set + idx / 4) { floor := floor, set := true }, groupIndex := idx,
                      groupSteps := (if l'.groupValid then l'.groupSteps else 0) + 1, groupValid := true,
                      steps := l'.steps + 1, idleRun := 0, ballast := 0 }
  let s := wr TIL_LR_STATUS_ballast_active t 0 (stepCounts t rs (setCount t set (countOf t set s + kOf p) (setLr t l' s)))
  if (lrow t s).groupSteps ≥ 8 then promote t set s else s

/-- The steps of slot `k` fed to the lane row of tile `t`, the last promotions landed; whether one reads uncorrectable. -/
def checkRun (k t : Nat) (s : State) : Bool × State :=
  let c := checkSlot k s
  let (bad, s) := (List.range c.steps).foldl (fun (q : Bool × State) i =>
    let (e, bad, s) := rawRead 6 (slotAddr k s + 0x77000 + 288 * i) 288 q.2
    (q.1 || bad, feedStep t e s)) (false, s)
  (bad, promote t c.set s)

/-- What set `set` of tile `t` holds: words, then tags, count and floors as a closing image lays them out. -/
def setImage (t set : Nat) (s : State) : List L576 × List Byte :=
  let l := lrow t s
  ((List.range 2048).map fun i => (entry l set (i / 64) (i % 64)).1, tagBytes l set ++ leBytes (countOf t set s) 8 ++ floorBytes l set)

/-- Words with some of them changed. -/
def flipped (ws : List L576) (fs : List (Nat × L576)) : List L576 :=
  fs.foldl (fun l f => l.set f.1 (l.getD f.1 0#576 ^^^ f.2)) ws

/-- The closing words, tags, count and floors of slot `k` as read, whether any reads uncorrectable, and the state after the read. -/
def closingRead (k : Nat) (s : State) : List Byte × Bool × State := rawRead 6 (slotAddr k s + 0x52600) 0x24820 s

/-- A closing image in the same form. -/
def closingOf (d : List Byte) : List L576 × List Byte :=
  ((List.range 2048).map fun i => BitVec.ofNat 576 (recNat d (72 * i) 72), (d.drop 0x24000).take 2048 ++ (d.drop 0x24808).take 24)

/-- The closing image of slot `k`. -/
def closingImage (k : Nat) (s : State) : List L576 × List Byte := closingOf (closingRead k s).1

/-- A tile named as suspect by a verdict (R345): its count rises, and it fails or is sent to a forced possession. -/
def suspect (t : Nat) (s : State) : State :=
  let s := satBump ITG_TILE_CTRL_suspect_count t 1 s
  if ctrl t s = 4 ∨ ctrl t s = 5 then s
  else if rd ITG_TILE_CTRL_suspect_count t s ≥ rd ITG_CONTROL_suspect_limit 0 s then tileFail t 1 s
  else possRequest t true false (if ctrl t s = 0 then setCtrl t 3 s else s)

/-- The command of a wrong pass is tainted (R346). -/
def taint (id : Option Nat) (s : State) : State :=
  modHost (fun h => { h with cmds := h.cmds.map fun c => if some c.id == id && c.phase != 3 then { c with tainted := true } else c }) s

/-- The decision of R345 on the closing image `image` of slot `k` and what its runner held, `held`, its words changed by `fs`. -/
def checkVerdict (k : Nat) (image held : List L576 × List Byte) (fs : List (Nat × L576)) (s : State) : State :=
  let c := checkSlot k s
  let (w0, r0) := image
  let name := (c.cmd.getD 0) % 2 ^ 64
  let mine := flipped held.1 fs
  let agree := mine == w0 && held.2 == r0
  if c.st = 4 then
    if agree then itgEvent 2 c.tile c.checker 0 name (slotAddr k s) (setCheck k {} s)
    else
      bump ITG_DUP_MISMATCH_count 0 1 (itgEvent 1 c.tile c.checker (k % 8) name (slotAddr k s) (setCheck k { c with st := 5, flips := fs } s))
  else
    let first := flipped held.1 c.flips
    let v := if mine == first then 1 else if agree then 2 else 3
    let s := setCheck k {} s
    let s := itgEvent 2 c.tile c.checker v name (slotAddr k s) s
    let s := if v = 2 then s else taint c.cmd s
    if v = 1 then suspect c.tile s else if v = 2 then suspect c.checker s else suspect c.checker (suspect c.tile s)

/-- A checker's row is suspended or on its way back: its check waits. -/
def checkHeld (t : Nat) (s : State) : Bool := coreState t s != 0 || lrSuspended t s || (lrow t s).restBusy.isSome

/-- CHECK_COMPARE: the logged steps run on the slot's checker, whose words are changed where its own hardware erred; a verdict is reached, or a third tile is to run the slot (R345), and the checker returns to empty. A checker whose accumulators read uncorrectable fails, which gives the check up (R352); a slot that does is dropped (DESIGN CHOICE, log entry 93). -/
def checkCompare (k : Nat) (fs : List (Nat × L576)) (s : State) : State :=
  let c := checkSlot k s
  match runner c with
  | none => s
  | some t =>
    if checkHeld t s then s else
    let (bad, s) := checkRun k t s
    let (acc, s) := accRead t (fun i => i / 2048 == c.set) s
    let (d, lost, s) := closingRead k s
    if acc then s
    else if bad || lost then checkDrop k (clearRow t s)
    else checkVerdict k (closingOf d) (setImage t c.set s) fs (clearRow t s)

/-- CHECK_SLOT_TIMEOUT: a slot not checked within 100 ms of filling is dropped (R344), and a checker still at it returns to empty. -/
def checkTimeout (k : Nat) (s : State) : State :=
  let c := checkSlot k s
  if c.st < 3 then s else
  let s := match runner c with
    | some t => clearRow t s
    | none => s
  checkDrop k s

/-! ### Replay before commit (R357) -/

/-- A member holds the final report of a ticket vote: it acts on the record at `a` (R307). One that reads uncorrectable names no outcome, and the member takes no action (DESIGN CHOICE, log entry 93). -/
def voteActed (a cid cmd : Nat) (s : State) : State :=
  let (d, bad, s) := rawRead 6 a 64 s
  if bad then s else
  let name := cmd % 2 ^ 64
  match recNat d 0 1 % 4 with
  | 1 => itgEvent 8 0 0xFF ((List.range 64).filter fun r => bit (recNat d 8 8) r).length name cid s
  | 2 => wr ITG_STATUS_replay_pending 0 1 (itgEvent 9 0 0xFF 0 name cid s)
  | _ => s

/-- REPLAY_DONE. -/
def replayDone (s : State) : State := wr ITG_STATUS_replay_pending 0 0 s

end Sys2Proof.Machine
end

