-- ==== Sys2Proof/Machine/UnitState.lean ====
section
/-! DEFINITION. The unit state of a snapshot (R322, R328, R376): the entries the manual lays out, and the record of the T9's own from which a restore reads everything back. -/

namespace Sys2Proof.Machine

/-! ### A stream of numbers as bytes -/

/-- Numbers as bytes, each behind its length in 2 bytes. -/
def serial (l : List Nat) : List Byte := l.flatMap fun n => let k := Nat.log2 n / 8 + 1; leBytes k 2 ++ leBytes n k

/-- The numbers of a byte stream; `n` bounds them. -/
def numbers : Nat → List Byte → List Nat
  | 0, _ => []
  | n + 1, d => if d.length < 2 then [] else
    let k := recNat d 0 2
    recNat d 2 k :: numbers n (d.drop (2 + k))

def putList (l : List Nat) : List Nat := l.length :: l
def putMany {α : Type} (f : α → List Nat) (l : List α) : List Nat := l.length :: l.flatMap f
def putOpt (o : Option Nat) : List Nat := match o with
  | none => [0]
  | some n => [1, n]
def putBool (b : Bool) : List Nat := [if b then 1 else 0]
def putRaw (d : List Byte) : List Nat := [d.length, ofLe d]
def putMap (m : Map Nat) : List Nat := putMany (fun e => [e.1, e.2]) m

def getN (l : List Nat) : Nat × List Nat := (l.headD 0, l.drop 1)
def getBool (l : List Nat) : Bool × List Nat := (l.headD 0 != 0, l.drop 1)
def getOpt (l : List Nat) : Option Nat × List Nat := if l.headD 0 = 0 then (none, l.drop 1) else (some ((l.drop 1).headD 0), l.drop 2)
def getRaw (l : List Nat) : List Byte × List Nat := (leBytes ((l.drop 1).headD 0) (l.headD 0), l.drop 2)
def getTimes {α : Type} (f : List Nat → α × List Nat) : Nat → List Nat → List α × List Nat
  | 0, l => ([], l)
  | n + 1, l => let (a, l) := f l; let (r, l) := getTimes f n l; (a :: r, l)
/-- A counted list; a count beyond what is left is cut to it. -/
def getMany {α : Type} (f : List Nat → α × List Nat) (l : List Nat) : List α × List Nat :=
  getTimes f (min (l.headD 0) l.length) (l.drop 1)
def getPair (l : List Nat) : (Nat × Nat) × List Nat := ((l.headD 0, (l.drop 1).headD 0), l.drop 2)

/-! ### What is recorded -/

def putColl (k : Nat) (x : Coll) : List Nat :=
  [k, x.phase] ++ putRaw x.desc ++ [x.addr] ++ putOpt x.cmd ++ putOpt x.tile ++ [x.next] ++ putList x.resend ++ [x.pos] ++ putMap x.counts ++ putMap x.rounds
  ++ putMany (fun e => [e.1]) (x.fins.filter (·.2)) ++ [x.finals, x.stat.toNat, x.top] ++ putBool x.zero ++ [x.code]
  ++ putMany (fun e => [e.1, e.2.1] ++ putBool e.2.2) x.reports ++ putMany (fun e => [e.1, e.2.1, e.2.2]) x.due ++ putList x.rlist ++ putList x.rrun ++ putBool x.rbusy
  ++ putMany (fun e => e.1 :: putRaw e.2) x.tickets ++ putMap x.got ++ putOpt x.scale ++ putList x.hold ++ [x.bound] ++ putMany (fun e => [e.1, e.2.1, e.2.2.1] ++ putRaw e.2.2.2) x.wq

/-- A collective as a restore binds it. Writes unanswered at the cut are in the logs of the fabric and are not waited for. -/
def getColl (l : List Nat) : (Nat × Coll) × List Nat :=
  let (k, l) := getN l
  let (phase, l) := getN l
  let (desc, l) := getRaw l
  let (addr, l) := getN l
  let (cmd, l) := getOpt l
  let (tl, l) := getOpt l
  let (next, l) := getN l
  let (resend, l) := getMany getN l
  let (pos, l) := getN l
  let (counts, l) := getMany getPair l
  let (rounds, l) := getMany getPair l
  let (fins, l) := getMany getN l
  let (finals, l) := getN l
  let (stat, l) := getN l
  let (top, l) := getN l
  let (zero, l) := getBool l
  let (code, l) := getN l
  let (reports, l) := getMany (fun l => let (a, l) := getPair l; let (b, l) := getBool l; ((a.1, a.2, b), l)) l
  let (due, l) := getMany (fun l => let (a, l) := getN l; let (b, l) := getPair l; ((a, b.1, b.2), l)) l
  let (rlist, l) := getMany getN l
  let (rrun, l) := getMany getN l
  let (rbusy, l) := getBool l
  let (tickets, l) := getMany (fun l => let (a, l) := getN l; let (b, l) := getRaw l; ((a, b), l)) l
  let (got, l) := getMany getPair l
  let (scale, l) := getOpt l
  let (hold, l) := getMany getN l
  let (bound, l) := getN l
  let (wq, l) := getMany (fun l => let (a, l) := getN l; let (b, l) := getPair l; let (d, l) := getRaw l; ((a, b.1, b.2, d), l)) l
  let z : Map Nat → Map Nat := fun m => m.foldl (fun a e => zset a e.1 e.2) []
  ((k, { phase := phase, desc := desc, addr := addr, cmd := cmd, tile := tl, next := next, resend := resend, pos := pos, counts := z counts, rounds := z rounds,
         fins := fins.foldl (fun a b => Map.set (fun _ => false) a b true) [], finals := finals, stat := BitVec.ofNat 8 stat, top := top, zero := zero, code := code,
         reports := reports, due := due, rlist := rlist, rrun := rrun, rbusy := rbusy,
         tickets := tickets.foldl (fun a e => Map.set (fun _ => []) a e.1 e.2) [], got := z got, scale := scale, hold := hold, bound := bound, wq := wq }), l)

/-- A running channel: its number, current descriptor address, the registers of a direct start, and the descriptor it holds, if it has begun one (R230). -/
def putChan (ch : Nat) (s : State) : List Nat :=
  let x := shunt ch s
  [ch, rd SHN_CH_CUR_cur ch s] ++ putBool x.direct ++ [rd SHN_CH_SRC_src ch s, rd SHN_CH_DST_dst ch s, rd SHN_CH_COUNT_count ch s]
  ++ putOpt x.starter ++ putOpt x.evt ++ putOpt x.cmd ++ putRaw (if x.phase = 0 ∧ ¬x.again then [] else x.desc)

def putRank (s : State) (r : Rank) : List Nat := [r.tile, r.pos, r.st, r.code, r.drains] ++ putList r.scales ++ putList (core r.tile s).scales

/-- A command in progress (R376): its tiles, schedule positions and completed drains, with the tensor scales these used. -/
def putCmdRec (s : State) (c : Cmd) : List Nat :=
  [c.id] ++ putRaw c.entry ++ [c.phase] ++ putOpt c.coll ++ putMany (putRank s) c.ranks
  ++ putBool c.tainted ++ [c.repeats] ++ putRaw c.sched

/-- A command as recorded. -/
def getCmdRec (l : List Nat) : Cmd × List Nat :=
  let (id, l) := getN l
  let (entry, l) := getRaw l
  let (phase, l) := getN l
  let (co, l) := getOpt l
  let (ranks, l) := getMany (fun l =>
    let (a, l) := getN l; let (b, l) := getN l; let (c, l) := getN l; let (d, l) := getN l; let (e, l) := getN l
    let (sc, l) := getMany getN l; let (dn, l) := getMany getN l
    (({ tile := a, pos := b, st := c, code := d, drains := e, scales := sc, done := dn } : Rank), l)) l
  let (ta, l) := getBool l
  let (rep, l) := getN l
  let (sched, l) := getRaw l
  ({ id := id, entry := entry, phase := phase, coll := co, ranks := ranks, tainted := ta, repeats := rep, sched := sched }, l)

/-- Rings enabled, with head and sequence number. -/
def ringRecs (s : State) : List (Nat × Nat × Nat) :=
  (List.range 64).filterMap fun k => if on HST_RING_CONTROL_enable k s then some (k, rd HST_RING_HEAD_head k s, seqOf k s) else none

def boundKeys (s : State) : List Nat := (List.range 512).filter fun k => (coll k s).phase != 0
def runningChans (s : State) : List Nat := (List.range 128).filter fun ch => chState ch s == 1 || chState ch s == 2

/-- The channels a cut records: those that run outside the siding (R181). -/
def recordedChans (s : State) : List Nat := (runningChans s).filter fun ch => !(shunt ch s).siding

/-- The tile and set whose drain holds a step under owner `o`. -/
def drainOf? (o : Nat) : Option (Nat × Nat) := if o < 1024 ∧ o % 512 < 168 then some (o % 512, o / 512) else none

/-- Whether a cut records an open history step: one of the siding is not (R181), nor that of a stopped drain, which the suspension of its row gives up. -/
def recordsStep (h : HistStep) (s : State) : Bool :=
  match h.owner with
  | none => !h.siding
  | some o => match drainOf? o with
    | some (t, set) => !on ITG_TILE_CTRL_siding t s && (lrow t s).run.any fun d => d.active && d.set == set
    | none => o != 169

/-- An open history step as recorded: a tile's drain takes it up again by its descriptor, for its row is suspended and restored. -/
def putStep (a : Nat) (h : HistStep) (s : State) : List Nat :=
  match h.owner.bind drainOf? with
  | some (t, _) => [a] ++ putOpt none ++ putRaw (drainBytes (lrow t s).run) ++ [h.scale]
  | none => [a] ++ putOpt h.owner ++ putRaw h.desc ++ [h.scale]

/-- A command as a cut records it: of one that the siding has started no more than its entry, so that it starts anew (R181, R376). -/
def recordedCmd (s : State) (c : Cmd) : Cmd :=
  if sidingRing c.ring s && c.phase != 0 then { c with phase := 0, ranks := [], tainted := false, repeats := 0, sched := [] } else c

def getStep (l : List Nat) : (Nat × HistStep) × List Nat :=
  let (a, l) := getN l
  let (o, l) := getOpt l
  let (d, l) := getRaw l
  let (c, l) := getN l
  ((a, { owner := o, desc := d, scale := c }), l)

/-- The record of the T9's own, `tiles` being the tiles saved with the state each core was in. With the training express command go the resident vectors it reads. -/
def ownRecord (tiles : List (Nat × Nat)) (s : State) : List Nat :=
  putMany (fun e => putColl e.1 e.2) s.colls ++ putMany (fun ch => putChan ch s) (recordedChans s)
  ++ (match xcmd 0 s with
      | some x => [1, x.cmd] ++ putRaw x.desc ++ putMap (s.expVec.filter fun e => decide (e.1 < 2 ^ 19)) ++ putMap (s.expK.filter fun e => decide (e.1 < 16))
      | none => [0])
  ++ putMany (fun r => [r.1, r.2.1, r.2.2]) (ringRecs s) ++ putMany (putCmdRec s) ((s.host.cmds.filter fun c => c.phase != 3).map (recordedCmd s))
  ++ putMany (fun e => [e.1, e.2]) tiles
  ++ putMany (fun (e : Nat × HistStep) => putStep e.1 e.2 s) (s.hist.filterMap fun e => e.2.bind fun h => if recordsStep h s then some (e.1, h) else none)

def padTo (n : Nat) (d : List Byte) : List Byte := d ++ List.replicate (n - d.length) 0#8

/-- The unit state (R328): an entry for each bound cid with its per-block words, each running channel and the training express command, and each ring; then the own record, as a ring record. -/
def unitState (tiles : List (Nat × Nat)) (s : State) : List Byte :=
  ((boundKeys s).flatMap fun k =>
    let x := coll k s
    let b0 := gRank x.desc * gP x.desc
    let n := if gKind x.desc < 2 then min (gP x.desc) (gB x.desc - b0) else 0
    padTo 64 (leBytes 1 1 ++ leBytes k 2 ++ leBytes x.phase 1 ++ leBytes 0 4 ++ leBytes x.addr 8 ++ leBytes x.next 8 ++ leBytes n 8)
    ++ (List.range n).flatMap fun i => leBytes (zget x.counts (b0 + i) % 2 ^ 27 + zget x.rounds (b0 + i) % 4 * 2 ^ 27) 4)
  ++ ((recordedChans s).flatMap fun ch => padTo 64 (leBytes 2 1 ++ leBytes ch 1 ++ leBytes 0 6 ++ leBytes (rd SHN_CH_CUR_cur ch s) 8))
  ++ (match xcmd 0 s with
      | some x => padTo 64 (leBytes 3 1 ++ leBytes 0 7 ++ leBytes x.cmd 8)
      | none => [])
  ++ ((ringRecs s).flatMap fun r => padTo 64 (leBytes 4 1 ++ leBytes r.1 1 ++ leBytes r.2.1 2 ++ leBytes 0 4 ++ leBytes r.2.2 8))
  ++ (let d := serial (ownRecord tiles s)
      leBytes (4 + 255 * 2 ^ 8 + d.length * 2 ^ 16) 8 ++ d)

/-- The unit state from its own record on: past the entries, each cid entry naming how many per-block words follow it. -/
def skipEntries : Nat → List Byte → List Byte
  | 0, _ => []
  | n + 1, d =>
    match recNat d 0 1 with
    | 0 => []
    | 1 => skipEntries n (d.drop (64 + 4 * recNat d 0x18 8))
    | 4 => if recNat d 1 1 = 255 then d else skipEntries n (d.drop 64)
    | _ => skipEntries n (d.drop 64)

/-- The numbers of the own record of a unit state. -/
def ownNumbers (d : List Byte) : List Nat :=
  let r := skipEntries 1024 d
  let n := recNat r 2 6
  numbers n ((r.drop 8).take n)

end Sys2Proof.Machine
end

