-- ==== Sys2Proof/Machine/Cut.lean ====
section
/-! DEFINITION. Railway time (R312 to R315), cuts and their orders (R316 to R325), snapshots (R326 to R330), mirrors (R331, R332), restore and resume (R335 to R337). -/

namespace Sys2Proof.Machine

def modCut (f : CutSt → CutSt) (s : State) : State := { s with cut := f s.cut }
def cutSt (s : State) : Nat := rd CUT_STATUS_state 0 s
def cutId (s : State) : Nat := rd CUT_STATUS_cut_id 0 s

/-- A cut of this module runs (R317, reason 3). -/
def cutBusy (s : State) : Bool := cutSt s == 1 || cutSt s == 2 || cutSt s == 3 || on CUT_STATUS_sweeping 0 s

/-! ### Railway time (R312 to R315) -/

/-- The port time comes from. -/
def timePort (s : State) : Nat := if on CUT_RT_STATUS_on_alt 0 s then rd CUT_RT_CONFIG_alt 0 s else rd CUT_RT_CONFIG_parent 0 s

/-- RTIME_WRITE (R312). -/
def rtimeWrite (v : Nat) (s : State) : State :=
  if isRoot s && decide (v ≥ now s) then event boxCUT 0x0B 0 (v - now s) (wr CUT_RTIME_rtime 0 v s)
  else event boxCUT 0x02 0 (CUT_RTIME.off 0 0) s

/-- Discipline is lost (R314, R315); being locked is another matter, which the last four exchanges decide. -/
def rtLost (theta : Nat) (s : State) : State :=
  let was := on CUT_STATUS_rt_ok 0 s
  let s := wr CUT_STATUS_rt_ok 0 0 s
  if was then event boxCUT 0x0B 2 theta s else s

/-- A TIME packet's payload (R313); the sender's transmit stamp is written as it leaves. -/
def timePayload (t1 t2 kind : Nat) (s : State) : List Byte :=
  leBytes t1 8 ++ leBytes t2 8 ++ leBytes 0 8 ++ leBytes (kind + rtDepth s * 4 + (if rtLocked s then 2 ^ 9 else 0)) 8

/-- TIME_EXCHANGE_TIMER (R313). -/
def timeTimer (s : State) : State :=
  let p := timePort s
  let st := portState p s
  if isRoot s || !(st == 6 || st == 7 || st == 8) then s else
  sendLocal p { typ := 0x59, vc := 4, tt := 0, dst := 0, src := 0, payload := timePayload 0 0 0 s } (modCut (fun c => { c with asked := true }) s)

/-- A response on the port time comes from: `d2` is twice θ, `dl` twice d (R313 to R315). The entries of one exchange carry the same railway time, that after its step (R421). -/
def timeExchange (d2 dl : Int) (depth : Nat) (locked : Bool) (s : State) : State :=
  let s := bump CUT_RT_EXCHANGES_count 0 1 (modCut (fun c => { c with asked := false }) s)
  let (f, s) := if -4096 ≤ d2 ∧ d2 < 4096 then ((8 * d2 % 65536).toNat, s) else takeFree s
  let (g, s) := if 0 ≤ dl ∧ dl < 131072 then ((dl / 2).toNat, s) else takeFree s
  let s := wr CUT_RT_STATUS_theta 0 f (wr CUT_RT_STATUS_delay 0 g (wr CUT_RT_STATUS_depth 0 (min 127 (depth + 1)) s))
  let good := decide (d2.natAbs ≤ 4)
  let row := if good then min 4 (s.cut.goodRow + 1) else 0
  let t := now s
  let s := modCut (fun c => { c with goodRow := row, lastGood := if good then t else c.lastGood }) s
  let theta := d2.natAbs / 2
  let lk := decide (row ≥ 4) && locked
  let s := wr CUT_RT_STATUS_locked 0 (if lk then 1 else 0) s
  let jump := fun (v : Nat) (s : State) => wr CUT_RTIME_rtime 0 v (modCut (fun c => { c with slew := 0, slewAcc := 0 }) s)
  let lock := fun (s : State) => if lk then wr CUT_STATUS_rt_ok 0 1 s else rtLost theta s
  if d2 > 200000 then event boxCUT 0x0B 0 theta (lock (jump (t + theta) s))
  else if d2 < -2000000 then event boxCUT 0x0B 1 theta (rtLost theta (lock (jump (t - theta) (bump CUT_RT_LOSSES_count 0 1 s))))
  else modCut (fun c => { c with slew := d2 / 2 }) (lock s)

/-- TIME: the first TIME packet of port `p`, stamped as its first cell committed (R313). -/
def timePacket (p : Nat) (s : State) : State :=
  match localPacket p 0x59 s with
  | none => s
  | some f =>
    let q := pktOf f.hdr f.data
    let s := popCells p f.rest s
    let w := fun (o : Nat) => recNat q.payload o 8
    if bits (w 24) 0 2 = 0 then
      sendLocal p { typ := 0x59, vc := 4, tt := 0, dst := 0, src := 0, payload := timePayload (w 0) f.head.rt 1 s } s
    else if isRoot s || p != timePort s || !s.cut.asked then s
    else
      let t4 : Int := f.head.rt
      let t1 : Int := w 0
      let t2 : Int := w 8
      let t3 : Int := w 16
      timeExchange ((t2 - t1) - (t4 - t3)) ((t4 - t1) - (t3 - t2)) (bits (w 24) 2 7) (bit (w 24) 9) s

/-- Time is taken from the alternate port (R315). -/
def timeAlt (s : State) : State :=
  if on CUT_RT_CONFIG_alt_valid 0 s && !on CUT_RT_STATUS_on_alt 0 s then wr CUT_RT_STATUS_on_alt 0 1 (modCut (fun c => { c with asked := false }) s) else s

/-- |θ| in ns as CUT_RT_STATUS.theta holds it, in sixteenths of a nanosecond as two's complement (R338). -/
def shownTheta (s : State) : Nat := ((BitVec.ofNat 16 (rd CUT_RT_STATUS_theta 0 s)).toInt.natAbs) / 16

/-- DISCIPLINE_TIMEOUT: no good exchange for 256 µs (R315). -/
def disciplineTimeout (s : State) : State :=
  if isRoot s then s else
  let s := rtLost (shownTheta s) s
  if portState (rd CUT_RT_CONFIG_parent 0 s) s != 6 then timeAlt s else s

/-! ### The snapshot descriptor (R326) -/

def snRegions (d : List Byte) : Nat := bits (recNat d 0 8) 16 4
def snLog (d : List Byte) : Nat := bits (recNat d 8 8) 0 48
def snLogSize (d : List Byte) : Nat := bits (recNat d 0x10 8) 0 48
def snRec (d : List Byte) : Nat := bits (recNat d 0x18 8) 0 48
def snBase (d : List Byte) (k : Nat) : Nat := bits (recNat d (0x40 + 32 * k) 8) 0 48
def snLimit (d : List Byte) (k : Nat) : Nat := bits (recNat d (0x48 + 32 * k) 8) 0 48
def snDest (d : List Byte) (k : Nat) : Nat := bits (recNat d (0x50 + 32 * k) 8) 0 48

/-- A destination's kind: 0 local, 1 the module at a coordinate, 2 the host. -/
def snKind (w : Nat) : Nat := if bit w 19 then 2 else if bit w 18 then 1 else 0

/-- `n` bytes from `a` lie in the GDDR7 tier or the CXL tier, outside every region. -/
def snOutside (d : List Byte) (a n : Nat) (s : State) : Bool :=
  (decide (a + n ≤ gddrSize s) || decide (0x100000000000 ≤ a) && decide (a + n ≤ 0x180000000000)) &&
  (List.range (snRegions d)).all fun k => decide (a + n ≤ snBase d k) || decide (a > snLimit d k)

/-- The area a record takes beyond its unit state. -/
def recFixed : Nat := 0x3A93000

/-- A legal snapshot descriptor; `unitLen` bytes of unit state are what the record area must take as the order is placed. -/
def snLegal (unitLen : Nat) (d : List Byte) (s : State) : Bool :=
  let w := fun (o : Nat) => recNat d o 8
  let n := snRegions d
  let destOk := fun (a len c : Nat) => c / 2 ^ 20 == 0 && !(bit c 18 && bit c 19) && (snKind c != 0 || snOutside d a len s)
  bits (w 0) 0 16 == 1 && w 0 / 2 ^ 20 == 0 && decide (n ≤ 8) && w 8 / 2 ^ 48 == 0 && w 0x10 / 2 ^ 48 == 0 && w 0x18 / 2 ^ 48 == 0 &&
  w 0x28 == 0 && w 0x30 == 0 && w 0x38 == 0 && snLog d % 4096 == 0 && snLogSize d % 4096 == 0 && snRec d % 4096 == 0 &&
  snOutside d (snLog d) (max 1 (snLogSize d)) s && destOk (snRec d) (recFixed + (unitLen + 4095) / 4096 * 4096 + snLogSize d) (w 0x20) &&
  (List.range n).all fun k =>
    let b := snBase d k
    let l := snLimit d k
    w (0x40 + 32 * k) / 2 ^ 48 == 0 && w (0x48 + 32 * k) / 2 ^ 48 == 0 && w (0x50 + 32 * k) / 2 ^ 48 == 0 &&
    b % 4096 == 0 && l % 4096 == 4095 && decide (b < l) && decide (l < gddrSize s) &&
    destOk (snDest d k) (l + 1 - b) (w (0x58 + 32 * k)) &&
    (List.range k).all fun j => decide (l < snBase d j) || decide (b > snLimit d j)

/-! ### Orders (R316 to R318) -/

/-- The tiles a cut saves: enabled and outside the siding. -/
def cutTiles (s : State) : List Nat :=
  (List.range 168).filter fun t => !on ITG_TILE_CTRL_siding t s &&
    (ctrl t s == 0 || ctrl t s == 3 || ctrl t s == 2 && (poss (dieOfTile t) s).prev != 1)

/-- The TAIL of identifier `id` that holds port `p` is consumed: what stands behind it waits no more for it, though it may for another. -/
def releaseTail (p id : Nat) (s : State) : State :=
  let j := (tailIds p s).findIdx (· == id)
  let pass := fun (c : RxCell) => if c.wait > j then { c with wait := c.wait - 1 } else c
  modCut (fun c => { c with tails := c.tails.erase (p, id) })
    (modPort p (fun x => { x with cells := x.cells.map pass }) s)

/-- TAILs of identifier `id` that wait for an order are consumed and their ports released. -/
def releaseTails (id : Nat) (s : State) : State := s.cut.tails.foldl (fun s e => if e.2 = id then releaseTail e.1 id s else s) s

/-- TAILs of `id` change nothing from now on. -/
def ignoreId (id : Nat) (s : State) : State := modCut (fun c => { c with ignore := id :: c.ignore.filter (· != id) }) s

/-- A refusal met while a cut runs: CUT_STATUS shows it until that cut next changes state, and the cut goes on undisturbed. -/
def cutShow (id reason : Nat) (s : State) : State :=
  cutEvent (event boxCUT 0x10 5 id (modCut (fun c => { c with shown := some (id, reason) }) s))

/-- The order of cut `id` is refused (R317). -/
def cutRefuse (id reason : Nat) (own : Bool) (s : State) : State :=
  let s := ignoreId id (releaseTails id (bump CUT_REFUSALS_count 0 1 s))
  if cutBusy s && !own then cutShow id reason s
  else cutEvent (cutState 5 (wr CUT_STATUS_reason 0 reason (wr CUT_STATUS_cut_id 0 id s)))

/-- Islands a cut needs are woken (R410): enabled tiles outside the siding and the yard halves. -/
def cutWake (s : State) : State :=
  let s := (cutTiles s).foldl (fun s t => wakeTile t s) s
  wakeIsl 29 (wakeIsl 28 s)

/-! ### The cut point (R318 to R323) -/

/-- Every access already handed to a station completes, and its response returns; a tile store not yet accepted completes too (R320, R322). -/
def landAccesses (s : State) : State :=
  (cutTiles s).foldl (fun s t =>
    let s := (List.range (core t s).outst.length).foldr (fun _ s =>
      match (List.range (core t s).outst.length).find? fun k => mayPerform (core t s).outst k with
      | some k => accLand t k s
      | none => s) s
    (List.range (core t s).outst.length).foldl (fun s _ => accReturn t 0 s) s) s

/-- A deferred exception that waits at a tile is taken at the long-word boundary at which the cut stops its core (R135, R138), before the state of the module is recorded: the command that holds the tile ends with it, as it would without the cut (R14). -/
def cutTake (t : Nat) (s : State) : State :=
  let d := dieOfTile t
  let p := poss d s
  let back := underPoss t s && p.defer.isSome
  let s := if back then setPoss d { p with defer := none } (modCore t (fun c => { c with defer := p.defer }) s) else s
  let st := coreState t s
  if (pendingDefer t s).isNone || st == 0 || st == 6 then s else
  let u := { takeDefer t s with notices := s.notices }
  let u := if st == 1 || st == 2 then u else setCoreState t st u
  let u := if underPoss t u then setPoss d { poss d u with epc := rd TIL_CS_EPC_val t u } u else u
  rankStopped t (lentStop t u)

/-- Packets forwarded but not yet sent, and ejected ones no unit has taken, stand in the module at the cut point: they leave it again after it. A packet keeps its VC and its ca (R268, R277), and an ejection counted stays so (R276). A MAPREQ is the router's own from its ejection on (R281). -/
def takeBack (s : State) : State :=
  let back := (List.range 16).flatMap fun p => (port p s).outq.filter fun q => !linkLocal q.pkt.typ
  let s := (List.range 16).foldl (fun s p => modPort p (fun x => { x with outq := x.outq.filter fun q => linkLocal q.pkt.typ }) s) s
  let ej := s.ejq.filter fun q => q.pkt.typ != 0x52
  { s with ejq := s.ejq.filter (fun q => q.pkt.typ == 0x52),
           injq := (ej.map fun q => { q with held := false, counted := true }) ++ (back.map fun q => { q with held := false }) ++ s.injq }

/-- A first cell of a packet to be routed. -/
def RxCell.routed (c : RxCell) : Bool := c.kind == .head && !linkLocal (c.c.toNat % 256)

/-- The packets of a stream that came before its TAIL of cut `id`, marked by `f`; `held` gives the place of that TAIL among those that hold the port, where it is one of them. -/
def markCells (id : Nat) (held : Option Nat) (f : RxCell → RxCell) : List RxCell → List RxCell
  | [] => []
  | c :: l =>
    if (held.any fun j => decide (c.wait > j)) || (c.kind == .head && isLocal 0x58 c.c.toNat && (l.find? (fun b => b.kind == .body)).any fun b => b.c.toNat % 2 ^ 16 == id) then c :: l
    else (if c.routed then f c else c) :: markCells id held f l

/-- Every packet now in the module is marked as here at the cut point, but for those behind a TAIL of the cut (R323). -/
def markPre (id : Nat) (s : State) : State :=
  let f := fun (q : QPkt) => { q with pre := true }
  let s := { s with injq := s.injq.map f }
  (List.range 16).foldl (fun s p =>
    let held := (tailIds p s).findIdx? (· == id)
    modPort p (fun x => { x with inq := x.inq.map f, cells := markCells id held (fun c => { c with pre := true }) x.cells }) s) s

/-- One arm record per region at every station (R203, R320). -/
def armAll (d : List Byte) (s : State) : State :=
  (List.range (snRegions d)).foldl (fun s k =>
    let w := recNat d (0x58 + 32 * k) 8
    (List.range 28).foldl (fun s st =>
      (cowArm st (snBase d k / 4096) (snLimit d k / 4096) (snDest d k) (bits w 0 18) (bit w 18) (bit w 19) s).2) s) s

/-- A tile begins to be saved for the cut (R320 step 5); the records of a possessed tile are those its possession wrote (R351). -/
def cutSave (t : Nat) (s : State) : State :=
  let p := poss (dieOfTile t) s
  let mine := decide (p.st ≥ 2) && p.tile == t
  let prior := if mine then p.core else coreState t s
  let saved := modCut (fun c => { c with saved := c.saved ++ [t] })
  let wait := modCut (fun c => { c with saving := c.saving ++ [(t, prior)] })
  if mine then (if p.st = 2 then wait s else saved s)
  else
    let s := checkStop t s
    let s := if coreState t s = 6 then ctlGo t (restoreCoreDone t s) else s
    if coreState t s = 5 then saved s
    else (saveStart t (saveAddr t s) (ctxAddr t s) (wait s)).2

/-- Quiet at the cut point (R337), the log apart. -/
def quietNow (s : State) : Bool :=
  (cutTiles s).all (fun t => coreState t s == 0 && !on TIL_LR_STATUS_pass_open t s && !draining t 0 s && !draining t 1 s && !parked t 0 s && !parked t 1 s) && (boundKeys s).isEmpty && (runningChans s).isEmpty && (xcmd 0 s).isNone

/-- The tiles of a cut with the state each core is in, or was in before its possession. -/
def cutTileStates (s : State) : List (Nat × Nat) :=
  (cutTiles s).map fun t =>
    let p := poss (dieOfTile t) s
    (t, if p.st ≥ 2 ∧ p.tile = t then p.core else coreState t s)

/-- The module takes its cut point. -/
def takeCutPoint (s : State) : State :=
  let id := cutId s
  let d := s.cut.snap
  let ports := (List.range 16).filter fun p => portState p s == 6 || portState p s == 7 || portState p s == 8
  let s := takeBack ((cutTiles s).foldl (fun s t => cutTake t s) (landAccesses s))
  let tail : Pkt := { typ := 0x58, vc := 4, tt := 0, dst := 0, src := 0, payload := leBytes id 8 ++ leBytes s.cut.time 8 }
  let s := ports.foldl (fun s p => sendLocal p tail s) s
  let came := s.cut.tails.filterMap fun e => if e.2 = id then some e.1 else none
  let s := armAll d s
  let wait := ports.foldl (fun a p => if came.contains p then a else a + 2 ^ p) 0
  let u := unitState (cutTileStates s) s
  let t := now s
  let s := modCut (fun c => { c with point := t, unit := u, logLen := 0, logSeq := 0, saving := [], saved := [], parts := [], begun := [], toSend := [], out := [] }) s
  let s := wr CUT_STATUS_quiet 0 (if quietNow s then 1 else 0) (wr CUT_STATUS_tail_wait 0 wait (wr CUT_STATUS_log_open 0 1 s))
  let s := cutState 2 (releaseTails id (ignoreId id (markPre id s)))
  let s := s.heldq.foldl (fun s h => if on CUT_STATUS_log_open 0 s then logPacket 17 true h.q.hdr h.q.pkt.payload s else s) s
  if cutSt s != 2 || on CUT_STATUS_sweeping 0 s then s else (cutTiles s).foldl (fun s t => cutSave t s) s

/-- CUT_ORDER (R316 to R318). -/
def cutOrder (id : Nat) (s : State) : State :=
  let t := rd CUT_ORDER_TIME_cut_time 0 s
  let a := rd CUT_ORDER_SNAP_snap 0 s
  let waits := s.cut.tails.any fun e => e.2 == id
  if cutBusy s then cutRefuse id 3 false s
  else if !rtOk s then cutRefuse id 1 false s
  else if !waits && decide (t < now s + 50000) then cutRefuse id 2 false s
  else
    let (c, d, s) := if a % 64 = 0 then memRead 6 unwatched a 320 s else (1, [], s)
    if c != 0 || !snLegal (unitState (cutTileStates s) s).length d s then cutRefuse id 4 false s
    else if (List.range 28).any fun st => decide (freeRecords st s < snRegions d) then cutRefuse id 5 false s
    else
      let s := modCut (fun c => { c with snap := d, time := t, ignore := c.ignore.filter (· != id) }) s
      let s := cutWake (cutState 1 (wr CUT_STATUS_reason 0 0 (wr CUT_STATUS_cut_id 0 id s)))
      if waits then takeCutPoint s else s

/-- CUT_POINT: railway time has reached the cut time. -/
def cutPoint (s : State) : State :=
  if cutSt s != 1 || on CUT_STATUS_sweeping 0 s || decide (now s < s.cut.time) then s
  else if !rtOk s then cutRefuse (cutId s) 1 true s
  else takeCutPoint s

/-- TAIL: the first TAIL of port `p` (R318, R319, R325). It divides the port's stream at its place: what came before it is in the cut, what follows it may have to wait. -/
def tailPacket (p : Nat) (s : State) : State :=
  match localPacket p 0x58 s with
  | none => s
  | some f =>
    let id := recNat f.data 0 2
    let came := fun (s : State) => wrBit CUT_STATUS_tail_wait 0 p false s
    let take := fun (before after : List RxCell) => popCells p (before ++ after)
    let sweeps := on CUT_STATUS_sweeping 0 s
    let dropped := sweeps && (cutSt s == 1 || rd CUT_STATUS_reason 0 s == 7)
    if id = cutId s ∧ cutSt s = 1 ∧ ¬sweeps then
      let s := takeCutPoint s
      (match localPacket p 0x58 s with
       | some f => came (popCells p f.rest s)
       | none => came s)
    else if id = cutId s ∧ (cutSt s = 2 ∨ cutSt s = 3) ∧ ¬dropped then
      let logs := on CUT_STATUS_log_open 0 s && (rd CUT_STATUS_tail_wait 0 s).testBit p
      logClose (came (take (if logs then f.before.map fun c => if c.routed then { c with log := true } else c else f.before) f.after s))
    else if s.cut.ignore.contains id || (id == cutId s && dropped) then take f.before f.after s
    else
      let s := take f.before (f.after.map fun c => { c with wait := c.wait + 1 }) s
      modCut (fun c => { c with tails := c.tails ++ [(p, id)] }) s

/-- TAIL_ORDER_TIMEOUT: no order came within 1 ms of the TAIL that port `p` holds. -/
def tailOrderTimeout (p : Nat) (s : State) : State :=
  match s.cut.tails.find? fun e => e.1 == p with
  | some (_, id) => cutRefuse id 6 false s
  | none => s

/-- LOG_TIMEOUT: the log is still open 100 ms after the cut point. -/
def logTimeout (s : State) : State := if on CUT_STATUS_log_open 0 s then cutDamage 12 s else s

/-- CUT_ABANDON (R329): TAILs not yet sent are withdrawn. -/
def cutAbandon (s : State) : State :=
  if !(cutSt s == 1 || cutSt s == 2 || cutSt s == 3) || on CUT_STATUS_sweeping 0 s then s else
  let id := cutId s
  let s := (List.range 16).foldl (fun s p => modPort p (fun x => { x with outq := x.outq.filter fun q => q.pkt.typ != 0x58 || recNat q.pkt.payload 0 2 != id }) s) s
  cutDamage 7 (ignoreId id s)

/-! ### Draining (R327 to R329) -/

def recW (s : State) : Nat := recNat s.cut.snap 0x20 8
def logOffset (s : State) : Nat := recFixed + (s.cut.unit.length + 4095) / 4096 * 4096

/-- Bytes for the record area, part `k`, at offset `o`: written here, sent to the host, or queued for the module that holds the area. Sectors read poisoned, by their offsets in `bad`, travel so marked (R327). -/
def putPart (k o : Nat) (d : List Byte) (bad : List Nat) (s : State) : State :=
  let a := snRec s.cut.snap + o
  let s := modCut (fun c => { c with begun := c.begun ++ [k] }) s
  let marked := fun (e : Nat × List Byte) => bad.any fun b => decide (a + b < e.1 + e.2.length) && decide (e.1 < a + b + 64)
  match snKind (recW s) with
  | 0 => if d.isEmpty then s else if mapped a d.length s && !anyDown a d.length s then bad.foldl (fun s b => poisonSector (a + b) s) (putBytes 6 a d s) else cutDamage 11 s
  | 1 => modCut (fun c => { c with toSend := c.toSend ++ (cutBytes a d).map fun e => (k, e.1, e.2, marked e) }) s
  | _ => (cutBytes a d).foldl (fun s e => hostSend { addr := e.1, data := e.2, poison := marked e } s) s

/-- Tile `t`'s two records, from where they were written. -/
def tilePart (t : Nat) (s : State) : State :=
  let (x, bx, s) := readMarked (ctxAddr t s) 0x6D40 s
  let (l, bl, s) := readMarked (bits (recNat x 8 8) 0 48) 0x52600 s
  putPart t (0x1000 + t * 0x59400) (l ++ x) (bl ++ bx.map (· + 0x52600)) s

/-- Regions whose image goes to another module or the host: their parts are 171 and on. -/
def awayRegions (d : List Byte) : List Nat := (List.range (snRegions d)).filter fun k => snKind (recNat d (0x58 + 32 * k) 8) != 0

/-- Draining begins once every tile runs again: 0 to 167 tiles, 168 unit state, 169 log, 170 manifest, 171 to 178 images on another module or the host. -/
def drainBegin (s : State) : State :=
  if cutSt s != 2 || !s.cut.saving.isEmpty || on CUT_STATUS_sweeping 0 s then s else
  let s := cutState 3 s
  let h := (awayRegions s.cut.snap).map (171 + ·)
  let s := modCut (fun c => { c with parts := c.saved ++ [168, 169, 170] ++ h, begun := h }) s
  putPart 168 recFixed s.cut.unit [] (s.cut.saved.foldl (fun s t => tilePart t s) s)

/-- Every image has left its station, and every write of one is answered. -/
def imagesDone (s : State) : Bool :=
  (List.range 28).all (fun st => rd MST_STATUS_armed st s == 0 && (station st s).push.isEmpty) &&
  (s.tags.all fun e => match e.2 with
    | some { who := .cow _ _, abandoned := a, .. } => a
    | _ => true) && s.tagq.all fun q => match q.who with
    | .cow _ _ => false
    | _ => true

/-- The manifest (R328). -/
def manifest (s : State) : List Byte :=
  let c := s.cut
  padTo 4096 (padTo 0x60 (leBytes (1 + cutId s * 2 ^ 16 + ownCoord s * 2 ^ 32 + rd CUT_STATUS_quiet 0 s * 2 ^ 50 + 2 ^ 51) 8 ++ leBytes c.time 8
    ++ leBytes c.point 8 ++ leBytes (c.saved.foldl (fun a t => a + 2 ^ t) 0) 24 ++ leBytes c.unit.length 8 ++ leBytes c.logLen 8 ++ leBytes c.logSeq 8)
    ++ (c.snap.drop 0x40).take 256)

/-- What draining does of itself: the closed log, the writes that tags allow, and the manifest last. -/
def drainPump (s : State) : State :=
  if cutSt s != 3 || on CUT_STATUS_sweeping 0 s then s else
  let s := if on CUT_STATUS_log_open 0 s || s.cut.begun.contains 169 then s else
    let (d, bad, s) := readMarked (snLog s.cut.snap) s.cut.logLen s
    putPart 169 (logOffset s) d bad s
  let s := if s.cut.parts == [170] && !s.cut.begun.contains 170 && imagesDone s then putPart 170 0 (manifest s) [] s else s
  s.cut.toSend.foldl (fun s e =>
    match freeTag s with
    | none => s
    | some k =>
      let s := request .snap { typ := 0x01, vc := 0, tt := 0, dst := bits (recW s) 0 18, src := 0, addr := e.2.1, payload := e.2.2.1, poison := e.2.2.2 } s
      modCut (fun c => { c with toSend := c.toSend.drop 1, out := c.out ++ [(k, e.1)] }) s) s

/-- A write of a remote part is answered. -/
def snapWrack (tag status : Nat) (s : State) : State :=
  let mine := s.cut.out.any fun e => e.1 == tag
  let s := modCut (fun c => { c with out := c.out.filter fun e => e.1 != tag }) s
  if mine && status != 0 then cutDamage 11 s else s

/-- The snapshot's writes to other modules are waited for no more (R450). -/
def snapGiveUp (s : State) : State :=
  let mine := fun (r : Requester) => match r with
    | .cow _ _ => true
    | .snap => true
    | _ => false
  { s with tags := s.tags.map fun e => (e.1, e.2.map fun u => if mine u.who then { u with abandoned := true } else u),
           tagq := s.tagq.filter fun q => !mine q.who }

/-- SNAPSHOT_PART_CONFIRM: part `k` has reached its destination and is counted drained, or a write of it was refused or unanswered, or its confirming read failed (R327, R329). -/
def partConfirm (k : Nat) (ok : Bool) (s : State) : State :=
  if cutSt s != 3 || on CUT_STATUS_sweeping 0 s || !s.cut.parts.contains k || !s.cut.begun.contains k then s
  else if !ok then cutDamage 11 (snapGiveUp s)
  else if s.cut.toSend.any (fun e => e.1 == k) || s.cut.out.any (fun e => e.2 == k) || (decide (k > 170) && !imagesDone s) then s
  else
    let s := modCut (fun c => { c with parts := c.parts.filter (· != k) }) s
    if k = 170 then cutEvent (bump CUT_CUTS_count 0 1 (cutState 4 s)) else s

/-! ### Tiles of a cut (R320 step 5) -/

/-- A row that the throttle holds suspended stays so behind the restore of its tile: the record that the context record names stands, and no other is written (R414). -/
def resuspend (t : Nat) (s : State) : State :=
  if s.power.rows.contains t && !lrSuspended t s then
    let (w, _, s) := rawRead 6 (ctxAddr t s + 8) 8 s
    rowAway t (recNat w 0 8 % 2 ^ 48) s
  else s

/-- A restored tile goes on as core state `prior` had it. -/
def tileResume (t prior : Nat) (s : State) : State :=
  resuspend t (if prior = 7 then discardTile t s else if coreState t s != 3 then s else if prior = 0 then setCoreState t 0 s else if prior == 1 || prior == 2 then coreGoOn t false s else s)

/-- A save has ended: a cut's tile is restored from the records at once. -/
def cutSaved (t : Nat) (s : State) : State :=
  match s.cut.saving.find? fun e => e.1 == t with
  | none => s
  | some (_, prior) =>
    let p := poss (dieOfTile t) s
    let s := modCut (fun c => { c with saved := c.saved ++ [t] }) s
    if p.st ≥ 2 ∧ p.tile = t ∨ prior = 4 then modCut (fun c => { c with saving := c.saving.filter fun e => e.1 != t }) s
    else (restoreCore t (ctxAddr t s) s).2

/-- A save of a cut could not be made: the cut is damaged (R138), and an idle tile stays idle. -/
def cutSaveFailed (t : Nat) (s : State) : State :=
  match s.cut.saving.find? fun e => e.1 == t with
  | none => s
  | some (_, prior) =>
    let s := modCut (fun c => { c with saving := c.saving.filter fun e => e.1 != t }) s
    cutDamage 13 (if prior = 0 then setCoreState t 0 s else s)

/-- The restore that waits for its resume time: of the partner's work (`ad`) or of this module's own. -/
def restoreOf (ad : Bool) (s : State) : Option Restore := if ad then s.cut.twin else s.cut.own
def setRestore (ad : Bool) (r : Option Restore) (s : State) : State := modCut (fun c => if ad then { c with twin := r } else { c with own := r }) s

/-- Whose work the records of tile `n` that tile `t` has taken are, where a restore of that kind waits and has such a tile still to place. While both wait, records within the partner's record area are the partner's; others are this module's own before the partner's (DESIGN CHOICE, log entry 94). -/
def restoredFor (t n : Nat) (s : State) : Option Bool :=
  let wants := fun (ad : Bool) => (restoreOf ad s).any fun r => r.prior.any (fun e => e.1 == n) && !r.placed.any fun e => e.2 == n && e.1 != t
  let inTwin := s.cut.twin.any fun r => decide (r.area ≤ ctxAddr t s) && decide (ctxAddr t s < r.area + recFixed)
  if wants true && (inTwin || !wants false) then some true else if wants false then some false else none

/-- A restore has ended: a cut's tile runs again; a tile restored after CUT_RESTORE waits for the resume time. -/
def cutRestored (t : Nat) (s : State) : State :=
  match s.cut.saving.find? fun e => e.1 == t with
  | some (_, prior) => tileResume t prior (modCut (fun c => { c with saving := c.saving.filter fun e => e.1 != t }) s)
  | none =>
    if coreState t s == 3 && !possessed t s then
      match restoredFor t (core t s).src s with
      | some ad => setRestore ad ((restoreOf ad s).map fun r => { r with placed := (r.placed.filter fun e => e.1 != t) ++ [(t, (core t s).src)] }) s
      | none => s
    else s

/-- Tiles that failed while the cut saved them leave it damaged. -/
def cutDead (s : State) : State :=
  s.cut.saving.foldl (fun s e => if ctrl e.1 s == 4 then cutDamage 13 (modCut (fun c => { c with saving := c.saving.filter fun x => x.1 != e.1 }) s) else s) s

/-! ### Mirrors (R331, R332) -/

/-- Region `k` sets gap. -/
def setGap (k : Nat) (s : State) : State :=
  if !on CUT_MIR_BASE_valid k s || on CUT_MIR_BASE_gap k s then s else bump CUT_MIR_GAPS_count 0 1 (wr CUT_MIR_BASE_gap k 1 s)

/-- A MIR packet of region `k` failed. -/
def mirFailed (k : Nat) (s : State) : State := setGap k (modCut (fun c => { c with walk := c.walk.filter fun e => e.1 != k }) s)

/-- A MIR packet of station `st` is acknowledged or given up: the oldest update that waits there leaves (R331). -/
def mirFree (st : Nat) (s : State) : State :=
  let x := station st s
  match x.mirq with
  | [] => setStation st { x with mirOut := x.mirOut - 1 } s
  | m :: l => mirPost m (setStation st { x with mirOut := x.mirOut - 1, mirq := l } s)

/-- Updates of mirror region `k` are under way. -/
def mirBusy (k : Nat) (s : State) : Bool :=
  s.tags.any (fun e => match e.2 with
    | some { who := .mirror j _ _, abandoned := a, .. } => !a && j == k
    | _ => false) ||
  s.tagq.any (fun q => match q.who with
    | .mirror j _ _ => j == k
    | _ => false) ||
  s.stations.any fun e => e.2.mirq.any fun m => m.region == k

/-- MIRACK_TIMEOUT: the request with `tag` had no answer within 1 ms. -/
def mirTimeout (tag : Nat) (s : State) : State :=
  match Map.get (fun _ => none) s.tags tag with
  | some { who := .mirror k st _, abandoned := false, .. } => mirFailed k (mirFree st (abandonTag tag s))
  | _ => s

/-- A walk of every region with gap begins (R332). -/
def resync (s : State) : State :=
  if !on CUT_CONTROL_mirror_en 0 s then s else
  let ks := (List.range 8).filter fun k => on CUT_MIR_BASE_valid k s && on CUT_MIR_BASE_gap k s && !s.cut.walk.any fun e => e.1 == k
  modCut (fun c => { c with walk := c.walk ++ ks.map fun k => (k, rd CUT_MIR_BASE_base k s * 4096, rd CUT_MIR_LIMIT_limit k s * 4096 + 4095) }) s

/-- A walk reads each sector (R190), sends it to its own region's twin as far as stations and tags allow, and ends with its last acknowledgement (R332). A sector that reads poisoned or uncorrectable, or that a station with a failed device answers memory-error for (R356), goes marked, as in a push or a drain (R192, R206; DESIGN CHOICE, log entry 66). -/
def walkStep (s : State) : State :=
  match s.cut.walk with
  | [] => s
  | (k, x, last) :: rest =>
    if !on CUT_CONTROL_mirror_en 0 s || !on CUT_MIR_BASE_valid k s then modCut (fun c => { c with walk := rest }) s
    else if x ≤ last then
      if writeWaits [x] s then s else
      let (bad, s) := if unitDown x s then (true, s) else touchSector 6 x 64 x s
      modCut (fun c => { c with walk := (k, x + 64, last) :: rest }) (mirTo k x bad s)
    else if mirBusy k s then modCut (fun c => { c with walk := rest ++ [(k, x, last)] }) s
    else wr CUT_MIR_BASE_gap k 0 (modCut (fun c => { c with walk := rest }) s)

/-- What resynchronising does of itself inside a command. -/
def mirPump (s : State) : State := if s.cut.walk.isEmpty then s else (List.range 64).foldl (fun s _ => walkStep s) s

/-- What a port's change of state means for time, mirrors, and the log (R315, R325, R332, R333). -/
def cutPort (p old new : Nat) (s : State) : State :=
  let ts := (List.range 16).filter fun q => rd ULP_ROLE_role q s == 7
  let s := if !(ts.contains p) || !on CUT_CONTROL_mirror_en 0 s then s
    else if old = 6 then (List.range 8).foldl (fun s k => setGap k s) s
    else if new = 6 ∧ ts.all fun q => portState q s == 6 then resync s else s
  let s := if ts.contains p && new == 9 && ts.all fun q => portState q s == 9 then cutEvent s else s
  let s := if old = 6 ∧ p = rd CUT_RT_CONFIG_parent 0 s ∧ !isRoot s then timeAlt s else s
  if new = 9 ∧ on CUT_STATUS_log_open 0 s ∧ (rd CUT_STATUS_tail_wait 0 s).testBit p then cutDamage 9 s else s

/-! ### Restore and resume (R335 to R337) -/

/-- A restore of the other kind waits for the resume time (R333 step 5). -/
def otherWaits (ad : Bool) (s : State) : Bool := (restoreOf (!ad) s).isSome

/-- The module is idle: no tile running, no cid bound, no channel running. The cids that a waiting restore of the other kind bound (R333 step 5) do not count, nor does a cut under way, which a reset to the idle state leaves as it stands (R381). -/
def moduleIdle (ad : Bool) (s : State) : Bool :=
  (List.range 168).all (fun t => !(coreState t s == 1 || coreState t s == 2)) &&
  ((boundKeys s).all fun k => otherWaits ad s && decide (k ≥ 256) != ad) && (runningChans s).isEmpty

/-- Where a recorded channel is set: on the channel of its number; the partner's, where that holds a chain of this module's own, on the highest idle one (DESIGN CHOICE, log entry 94). -/
def chanFor (ad : Bool) (ch : Nat) (s : State) : Nat :=
  if !ad || chState ch s == 0 then ch else ((List.range 128).reverse.find? fun n => chState n s == 0).getD ch

/-- A restore is refused. -/
def restoreRefuse (reason : Nat) (s : State) : State :=
  if cutBusy s then cutShow (cutId s) reason s else cutEvent (cutState 5 (wr CUT_STATUS_reason 0 reason s))

/-- Log entries of a record area, as (source, entry). -/
def logEntries : Nat → List Byte → List (Nat × List Byte)
  | 0, _ => []
  | n + 1, d => if d.length < 32 then [] else
    let w := recNat d 0 8
    let len := 32 + (bits w 6 9 + 15) / 16 * 16
    (bits w 0 5, d.take len) :: logEntries n (d.drop len)

/-- CUT_RESTORE (R336). -/
def cutRestore (s : State) : State :=
  let a := rd CUT_RESTORE_rec 0 s
  let ad := on CUT_RESTORE_adopt 0 s
  let (c, m, s) := memRead 6 unwatched a 4096 s
  let w := recNat m 0 8
  if c != 0 || bits w 0 16 != 1 || !bit w 51 then restoreRefuse 4 s
  else if !moduleIdle ad s then restoreRefuse 3 s
  else
    let ulen := bits (recNat m 0x30 8) 0 48
    let (cu, u, s) := memRead 6 unwatched (a + recFixed) ulen s
    let (cl, lg, s) := memRead 6 unwatched (a + recFixed + (ulen + 4095) / 4096 * 4096) (bits (recNat m 0x38 8) 0 48) s
    if cu != 0 || cl != 0 then restoreRefuse 4 s else
    let l := ownNumbers u
    let key := fun (k : Nat) => if ad then k / 512 * 512 + k % 256 + 256 else k
    let name := fun (id : Nat) => if ad then id + 2 ^ 65 else id
    let (colls, l) := getMany getColl l
    let (chans, l) := getMany (fun l =>
      let (ch, l) := getN l; let (cur, l) := getN l; let (dr, l) := getBool l; let (a, l) := getN l; let (b, l) := getN l; let (n, l) := getN l
      let (st, l) := getOpt l; let (ev, l) := getOpt l; let (cm, l) := getOpt l; let (d, l) := getRaw l
      ((ch, cur, a, b, n, ({ direct := dr, starter := st, evt := ev, cmd := cm.map name, desc := d, again := !d.isEmpty } : Shunt)), l)) l
    let (hasX, l) := getBool l
    let (xp, l) := if hasX then
        (let (id, l) := getN l
         let (d, l) := getRaw l
         let (v, l) := getMany getPair l
         let (k, l) := getMany getPair l
         ([({ cmd := name id, desc := d, vec := v, len := k } : XPend)], l))
      else ([], l)
    let (rings, l) := getMany (fun l => let (a, l) := getN l; let (b, l) := getPair l; ((a, b.1, b.2), l)) l
    let (cmds, l) := getMany getCmdRec l
    let (tiles, l) := getMany getPair l
    let (steps, _) := getMany getStep l
    let s := colls.foldl (fun s e => setColl (key e.1) { e.2 with cmd := e.2.cmd.map name } s) s
    let s := steps.foldl (fun s e => setHistStep (if ad then (adoptAddr e.1 s).getD (2 ^ 48) else e.1)
      (some { e.2 with owner := e.2.owner.map fun o => if o < 1024 then o else 1024 + key (o - 1024) }) s) s
    let (placedChans, s) := chans.foldl (fun (r : List Nat × State) e =>
      let (ch0, cur, a, b, n, x) := e
      let s := r.2
      let ch := chanFor ad ch0 s
      let s := if x.direct then wr SHN_CH_SRC_src ch a (wr SHN_CH_DST_dst ch b (wr SHN_CH_COUNT_count ch n s)) else s
      let s := match x.starter with
        | some t => wr SHN_CH_STATUS_tile_started ch 1 (wr SHN_CH_STATUS_starter ch t (wr SHN_CH_STATUS_starter_hi ch (t / 256) s))
        | none => wr SHN_CH_STATUS_tile_started ch 0 s
      (r.1 ++ [ch], wr SHN_CH_STATUS_state ch 3 (wr SHN_CH_CUR_cur ch cur (setShunt ch x s)))) ([], s)
    let s := if ad then s else rings.foldl (fun s r =>
      wr HST_RING_HEAD_head r.1 r.2.1 (modHost (fun h => { h with seqs := Map.set (fun _ => 0) h.seqs r.1 r.2.2 }) s)) s
    let again := fun (c : Cmd) => c.phase == 1 && (c.op == 8 || c.op == 2 || c.op == 10)
    let mine := cmds.map fun c => if again c then { c with id := name c.id, phase := 0, ranks := [], restored := true } else { c with id := name c.id }
    let s := modHost (fun h => { h with cmds := h.cmds ++ mine }) s
    let n := (bits (recNat m 0x38 8) 0 48) / 32 + 1
    setRestore ad (some { area := a, prior := tiles, xpend := xp, chans := placedChans, inject := logEntries n lg }) (modCut (fun c => { c with resumeSet := false }) s)

/-- A log entry injected as if it had just arrived on its source port. It enters the fabric anew: it carries the stamp in force (R274), and is counted so (R276; DESIGN CHOICE, log entry 90). -/
def logInject (src : Nat) (e : List Byte) (s : State) : State :=
  let p : Pkt := { pktOf (recNat e 16 16) (e.drop 32) with tt := rd RTR_CONTROL_stamp 0 s }
  let q : QPkt := { pkt := p, from_ := src, hdr := p.header }
  let s := bump RTR_INJ_count q.pkt.tt 1 s
  if src < 16 then
    modPort src (fun x => { x with inq := x.inq ++ [q], shared := zadd x.shared q.pkt.vc (pktCells q.pkt.payload.length) }) s
  else if src = 16 then { s with injq := s.injq ++ [q] }
  else bump RTR_EJ_count q.pkt.tt 1 { s with ejq := s.ejq ++ [q] }

/-- The tile that took the records of tile `t`. -/
def placedOn (r : Restore) (t : Nat) : Nat := ((r.placed.find? fun e => e.2 == t).map (·.1)).getD t

/-- A command with ranks goes on, or waits on for tiles to stand in: each rank's tile, registers and counts are those of its record, and its start latch is taken again (R431). -/
def cmdResume (p : Restore) (c : Cmd) (s : State) : State :=
  let ranks := c.ranks.map fun r => { r with tile := placedOn p r.tile }
  let c := latchStart { c with ranks := ranks, restored := true } s
  eachRank ranks (fun r x s =>
    let t := x.tile
    let arg := if c.schedAddr = 0 then (c.argBase + r * c.argStride) % 2 ^ 48 else (c.schedAddr + 16 * (r * c.schedLen + x.pos)) % 2 ^ 48
    let s := wr TIL_CS_TILE_ID_rank t r (wr TIL_CS_CMDARG_val t arg s)
    let s := wr TIL_CS_SHN_GRANT_LO_val t (c.grants % 2 ^ 64) (wr TIL_CS_SHN_GRANT_HI_val t (c.grants / 2 ^ 64) s)
    modCore t (fun q => { q with cmd := some c.id, drainsDone := x.done.length, scales := x.done, drainSkip := x.drains - x.done.length, skipScales := x.scales.drop x.done.length }) s)
    (putCmd { c with ranks := ranks.map fun r => { r with done := [] } } s)

/-- A write of CUT_RESUME_TIME; one that follows a restore sets the time at which what is restored resumes (R335). -/
def resumeWrite (v : Nat) (s : State) : State :=
  modCut (fun c => { c with resumeSet := c.restored }) (wr CUT_RESUME_TIME_resume 0 v s)

/-- A restarted express command begins from its first slab with its resident vectors, as soon as the slot of its queue is free. -/
def xpendGo (s : State) : State :=
  match s.cut.xpend with
  | [] => s
  | x :: rest =>
    if (xcmd 0 s).isSome then s else
    let s := modCut (fun c => { c with xpend := rest }) s
    mvStart 0 x.desc x.cmd { s with expVec := x.vec.foldl (fun m e => zset m e.1 e.2) (s.expVec.filter fun e => decide (e.1 ≥ 2 ^ 19)),
                                    expK := x.len.foldl (fun m e => zset m e.1 e.2) s.expK }

/-- What restore `p` holds goes on (R336); `ad` where it is the partner's work. A tile that failed meanwhile is a failed tile of the command its rank belongs to (R352, R353). -/
def resumeWork (ad : Bool) (p : Restore) (s : State) : State :=
  let mine := fun (x : Cmd) => bit x.id 65 == ad && (x.phase == 1 || x.phase == 2)
  let replays := s.host.cmds.filter fun x => mine x && x.coll.isSome
  let rtiles := replays.flatMap Cmd.tiles
  let s := replays.foldl (fun s x => dropCmd x s) s
  let s := s.host.cmds.foldl (fun s x => if !mine x then s else if x.runs then cmdResume p x s
    else putCmd { latchStart x s with restored := true } s) s
  let s := p.placed.foldl (fun s e =>
    let prior := ((p.prior.find? fun x => x.1 == e.2).map (·.2)).getD 0
    if failedTile e.1 s then cmdTileFailed e.1 s else if rtiles.contains e.2 then freeTile e.1 s else tileResume e.1 prior s) s
  let s := p.chans.foldl (fun s ch =>
    let x := shunt ch s
    let st := x.starter.map fun t => placedOn p t
    let s := match st with
      | some t => wr SHN_CH_STATUS_starter ch t (wr SHN_CH_STATUS_starter_hi ch (t / 256) s)
      | none => s
    chResume ch (setShunt ch { x with starter := st } s)) s
  let s := (s.colls.map (·.1)).foldl (fun s k => if decide (k % 512 ≥ 256) == ad then
      let x := coll k s
      let (wait, go) := x.due.partition fun e => x.wq.any fun w => 2 ^ 20 * w.1 + w.2.1 == e.1
      let s := setColl k { x with due := wait, outst := x.wq.foldl (fun o w => zadd o (2 ^ 20 * w.1 + w.2.1) 1) [], tile := x.tile.map fun t => placedOn p t } s
      let s := go.foldl (fun s e => sendReport k e.2.1 (e.1 % 2 ^ 20) e.2.2 s) s
      let s := lingerEnd k (collFlush k x.wq.length s)
      if x.rbusy then { s with notices := s.notices ++ [.collReplay k] }
      else if !x.rlist.isEmpty && (x.phase == 2 || x.phase == 3) then replayDispatch k s else s
    else s) s
  p.inject.foldl (fun s e => logInject e.1 e.2 s) (modCut (fun c => { c with xpend := c.xpend ++ p.xpend }) s)

/-- RESUME_TIME_REACHED (R336): this module's own work goes on, and the partner's that was restored beside it (R333). -/
def resumeTime (s : State) : State :=
  if !s.cut.restored || !s.cut.resumeSet || decide (now s < rd CUT_RESUME_TIME_resume 0 s) then s else
  let go := fun (ad : Bool) (s : State) => match restoreOf ad s with
    | some p => setRestore ad none (resumeWork ad p s)
    | none => s
  modCut (fun c => { c with resumeSet := false }) (xpendGo (go true (go false s)))

end Sys2Proof.Machine
end

