-- ==== Sys2Proof/Machine/Responses.lean ====
section
/-! DEFINITION. Responses to the requests of this module (R265, R450): WRACK, RDATA, MIRACK and MGTACK, and the release of abandoned tags. -/

namespace Sys2Proof.Machine

/-- The first ejected response of type `typ` with the request it answers: one of a kind that `mine` accepts. A response that matches no outstanding request is discarded and recorded. -/
def takeResponse (typ : Nat) (mine : Requester → Bool) (s : State) : Option (Pkt × Requester) × State :=
  match takeEj typ s with
  | none => (none, s)
  | some (e, s) =>
    let s := if e.pkt.ae then rateEcho e.pkt.src s else s
    let stray := (none, event boxRTR 0x05 5 (e.hdr % 2 ^ 48) s)
    match Map.get (fun _ => none) s.tags e.pkt.tag with
    | some u => if u.abandoned || !mine u.who then stray else (some (e.pkt, u.who), tagFree e.pkt.tag s)
    | none => stray

def Pkt.status (p : Pkt) : Nat := p.addr % 256

/-- Writes of channels and collectives that found no free tag leave as tags are freed (R450), a channel's before a collective's and each by its number (DESIGN CHOICE, log entry 61). -/
def tagPump (s : State) : State :=
  let s := (s.shunts.map (·.1)).foldl (fun s ch => sendRemote ch (shunt ch s).toSend.length s) s
  (s.colls.map (·.1)).foldl (fun s k => if (coll k s).wq.isEmpty then s else lingerEnd k (collFlush k (coll k s).wq.length s)) s

/-- WRACK. -/
def wrackPacket (s : State) : State := tagPump <|
  let mine := fun (r : Requester) => match r with
    | .shunt _ _ n => n != 0
    | .coll _ _ _ => true
    | .cow _ _ => true
    | .snap => true
    | _ => false
  match takeResponse 0x80 mine s with
  | (none, s) => s
  | (some (p, who), s) =>
    match who with
    | .shunt ch a n => chWrack ch a n p.status s
    | .coll k b m => collWrack k b m s
    | .cow _ _ => if p.status != 0 then cutDamage 11 s else s
    | .snap => snapWrack p.tag p.status s
    | _ => s

/-- RDATA: the only reads this module sends are the read-backs of shunting channels (R231). -/
def rdataPacket (s : State) : State := tagPump <|
  let mine := fun (r : Requester) => match r with
    | .shunt _ _ n => n == 0
    | _ => false
  match takeResponse 0x81 mine s with
  | (some (p, .shunt ch a _), s) => chRdata ch a p.status s
  | (_, s) => s

/-- MIRACK (R331, R332). -/
def mirackPacket (s : State) : State := tagPump <|
  let mine := fun (r : Requester) => match r with
    | .mirror _ _ _ => true
    | _ => false
  match takeResponse 0x82 mine s with
  | (some (p, .mirror k st _), s) => if p.status != 0 then mirFailed k (mirFree st s) else mirFree st s
  | (_, s) => s

/-- MGTACK (R378). -/
def mgtackPacket (s : State) : State := tagPump <|
  let mine := fun (r : Requester) => match r with
    | .mgt _ => true
    | _ => false
  match takeResponse 0x83 mine s with
  | (some (p, .mgt id), s) => mgtReply id p.payload s
  | (_, s) => s

/-- TAG_RELEASE_TIMER (R450): 10 ms after its requester stopped waiting, tag `k` is free. -/
def tagRelease (k : Nat) (s : State) : State := tagPump <|
  match Map.get (fun _ => none) s.tags k with
  | some { abandoned := true, .. } => tagFree k s
  | _ => s

end Sys2Proof.Machine
end

