-- ==== Sys2Proof/Machine/Power.lean ====
section
/-! DEFINITION. The power controller (R404 to R419): islands and seasons, supply droop, throttle levels, power-throttle suspension, temperature and coolant. -/

namespace Sys2Proof.Machine

def season (s : State) : Nat := rd PWR_STATUS_season 0 s

/-- PWR_STATUS.event and its message (R418). -/
def pwrEvent (s : State) : State := msix 243 (wr PWR_STATUS_event 0 1 s)

/-! ### Islands (R406 to R410) -/

/-- An island's number among those kept by the controller; tiles hold theirs in PWR_TILE. -/
def islIx : Island → Nat
  | .tile t => t.val
  | .station n => n.val
  | .yard h => 28 + h.val
  | .shunt h => 30 + h.val
  | .cxl p => 32 + p.val

/-- State of an island: 0 running, 1 clock-gated, 2 retention (power-down, L1), 3 low retention (self-refresh), 4 waking. -/
def islState (x : Island) (s : State) : Nat :=
  match x with
  | .tile t => rd PWR_TILE_state t.val s
  | x => isl (islIx x) s

def setIslState (x : Island) (v : Nat) (s : State) : State :=
  match x with
  | .tile t => wr PWR_TILE_state t.val v s
  | x => setIsl (islIx x) v s

/-- The state season `n` permits an island (R406). -/
def seasonState (x : Island) (n : Nat) : Nat :=
  match x, n with
  | _, 0 => 0
  | .tile _, n => n
  | .station _, n => n
  | .yard _, 1 => 1
  | .yard _, _ => 2
  | .shunt _, 3 => 2
  | .shunt _, _ => 1
  | .cxl _, 1 => 0
  | .cxl _, _ => 2

/-- No access of a tile waits for an address `p` selects. -/
def noAccess (p : Nat → Bool) (s : State) : Bool :=
  s.tiles.all fun e => e.2.core.outst.all fun a => a.done.isSome || !p a.addr

/-- Idle islands (R407). -/
def islIdle (x : Island) (s : State) : Bool :=
  match x with
  | .tile t =>
    let st := coreState t.val s
    (st == 0 || st == 3 || st == 5) && rowQuiet t.val s && !checking t.val s && !possessed t.val s
  | .station n => (station n.val s).push.isEmpty && ((List.range 8).all fun k => !Map.get (fun _ => false) s.sweep (8 * n.val + k)) && noAccess (fun a => decide (whereOf a s = .gddr) && stOf a == n.val) s
  | .yard h => noAccess (fun a => decide (whereOf a s = .yard h.val)) s
  | .shunt h => (List.range 64).all fun i => let c := chState (64 * h.val + i) s; !(c == 1 || c == 2)
  | .cxl p => noAccess (fun a => decide (whereOf a s = .cxl p.val)) s

/-- Islands a cut holds awake (R410). -/
def cutHolds (x : Island) (s : State) : Bool :=
  (cutSt s == 1 || cutSt s == 2) &&
  match x with
  | .tile t => (cutTiles s).contains t.val
  | .yard _ => true
  | _ => false

/-- ISLAND_SLEEP: the hold time of an idle island expires, by the station clock (R404); a deeper season takes it deeper. -/
def islandSleep (x : Island) (s : State) : State :=
  let want := seasonState x (season s)
  let st := islState x s
  if !stationClock s ∨ st = 4 ∨ want ≤ st then s
  else if !islIdle x s || cutHolds x s then s
  else setIslState x want s

/-- ISLAND_WAKE: a wake cause reaches a sleeping island. -/
def islandWake (x : Island) (s : State) : State :=
  match x with
  | .tile t => wakeTile t.val s
  | x => wakeIsl (islIx x) s

/-- ISLAND_WAKE_COMPLETE, by the island's sequencer (R404). -/
def islandAwake (x : Island) (s : State) : State := if stationClock s ∧ islState x s = 4 then setIslState x 0 s else s

def wakeShunt (ch : Nat) (s : State) : State := islandWake (.shunt (if ch < 64 then 0 else 1)) s

/-- The island that holds address `a` is woken. -/
def wakeAddr (a : Nat) (s : State) : State := wakeWindow a (wakeMem a s)

/-! ### Seasons (R409) -/

/-- Every island but the ports. -/
def islands : List Island :=
  (List.finRange 168).map .tile ++ (List.finRange 28).map .station ++ (List.finRange 2).map .yard ++ (List.finRange 2).map .shunt ++ (List.finRange 4).map .cxl

/-- The deepest season tol_ns tolerates. -/
def tolSeason (tol : Nat) : Nat := if tol < 1000 then 0 else if tol < 30000 then 1 else if tol < 25000000 then 2 else 3

/-- The season of a station tick. A shallower one wakes islands and ports it does not permit; any change wakes a port in SLUMBER (R256), which then naps as deep as the new season lets it; a port that is about to sleep keeps the change until it has (R407). -/
def seasonTick (s : State) : State :=
  let n := min (tolSeason (rd PWR_WAKE_tol_ns 0 s)) (rd PWR_CONTROL_max_season 0 s)
  let old := season s
  if n = old then s else
  let s := event boxPWR 0x0F n 0 (wr PWR_STATUS_season 0 n s)
  let s := if n > old then s else
    islands.foldl (fun s x => if islState x s != 4 && decide (islState x s > seasonState x n) then islandWake x s else s) s
  let s := (List.range 16).foldl (fun s p => if (port p s).nap.isSome || (port p s).napEnter.isSome then modPort p (fun x => { x with turned := true }) s else s) s
  (List.range 16).foldl (fun s p => if portState p s == 7 || (portState p s == 8 && decide (n < 3)) then portWake p s else s) s

/-! ### Droop (R411) -/

def supplyDroop (t : Nat) (s : State) : State := modPower (fun p => { p with droop := Map.set (fun _ => false) p.droop t true }) s
def droopEnd (t : Nat) (s : State) : State := modPower (fun p => { p with droop := Map.set (fun _ => false) p.droop t false }) s

/-! ### Throttle levels and suspension (R413 to R415) -/

def levelFld (d : Nat) : Fld := if d = 0 then PWR_STATUS_level_w else PWR_STATUS_level_e
def suspFld (d : Nat) : Fld := if d = 0 then PWR_STATUS_susp_w else PWR_STATUS_susp_e
def level (d : Nat) (s : State) : Nat := rd (levelFld d) 0 s
def heat (d : Nat) (s : State) : Bool := Map.get (fun _ => false) s.power.heat d

/-- The power-throttle suspension of die `d` begins (R414): a row that cannot be saved keeps its state, and its tile runs at level 15 (R448); one already suspended by another cause is left to it. -/
def suspendDie (d : Nat) (hot : Bool) (s : State) : State :=
  if on (suspFld d) 0 s then (if hot then modPower (fun p => { p with heat := Map.set (fun _ => false) p.heat d true }) s else s) else
  let s := pwrEvent (event boxPWR 0x0F (level d s) 0 (bump PWR_SUSPENDS_count 0 1 (wr (suspFld d) 0 1 s)))
  let s := modPower (fun p => { p with heat := Map.set (fun _ => false) p.heat d hot }) s
  (dieTiles d).foldl (fun s t =>
    if ctrl t s == 4 || ctrl t s == 5 then s else
    match suspendStart t (saveAddr t s) s with
    | (0, s) => modPower (fun p => { p with rows := p.rows ++ [t] }) s
    | (3, s) => modPower (fun p => { p with rows := p.rows ++ [t] }) s
    | (4, s) => throttleRefused t s
    | (_, s) => s) s

/-- The rows a released die suspended are restored from where they were written, each once its record is written; a row restored with its core's context needs nothing more. -/
def restoreRows (d : Nat) (s : State) : State :=
  if on (suspFld d) 0 s then s else
  let mine := s.power.rows.filter fun t => dieOfTile t == d
  mine.foldl (fun s t =>
    let drop := modPower (fun p => { p with rows := p.rows.filter (· != t) })
    let l := lrow t s
    if l.suspBusy.isSome || l.suspHeld || l.restBusy.isSome then s
    else if !on TIL_LR_STATUS_suspended t s then drop s
    else if coreState t s == 4 || coreState t s == 5 || coreState t s == 6 then s
    else drop (restoreStart t (l.suspAddr.getD (saveAddr t s)) s).2) s

/-- The suspension of die `d` ends (R414, R415). -/
def releaseDie (d temp : Nat) (s : State) : State :=
  if !on (suspFld d) 0 s then s
  else if level d s > 7 || heat d s && decide (temp + 5 > rd PWR_THERMAL_throttle_c 0 s) then s
  else event boxPWR 0x0F (level d s) 0 (wr (suspFld d) 0 0 (modPower (fun p => { p with at15 := p.at15.filter fun t => dieOfTile t != d }) s))

/-- The throttle level of die `d` in a tick: `peak` the draw exceeds peak_w, `rise` another condition of R413 or the temperature holds. -/
def levelTick (d : Nat) (peak rise : Bool) (s : State) : State :=
  let l := level d s
  let calm := if peak || rise then 0 else Map.get (fun _ => 0) s.power.calm d + 1
  let n := if peak then 15 else if rise then min 15 (l + 1) else if calm ≥ 100 then l - 1 else l
  let top := if n = 15 then Map.get (fun _ => 0) s.power.top d + 1 else 0
  wr (levelFld d) 0 n (modPower (fun p => { p with calm := Map.set (fun _ => 0) p.calm d calm, top := Map.set (fun _ => 0) p.top d top }) s)

/-- A leak stays shown through everything but the loss of the main input (R446). -/
def keepLeak (s : State) : State := if s.phys.leak then wr PWR_COOLANT_leak 0 1 s else s

/-- Thermal trip (R415, R443): no state is kept but what the board holds. -/
def thermalTrip (s : State) : State :=
  keepLeak { State.reset with pending := s.pending, dens24 := s.dens24, boot := { flash := if s.boot.attach.isSome then [0#8] else s.boot.flash, ident := s.boot.ident, fuses := s.boot.fuses },
                              phys := { s.phys with trip := true }, hostOut := s.hostOut, bar2 := s.bar2 }

/-- PWR_THERMAL.trip_c and the die temperatures. -/
def tripNow (x : Sensors) : Bool := decide (x.hotW.toNat ≥ 115) || decide (x.hotE.toNat ≥ 115)

/-- What a station tick shows in registers (R419, R446). -/
def sensorTick (x : Sensors) (s : State) : State :=
  let s := modPower (fun p => { p with draws := x.now.toNat :: p.draws.take 999999 }) s
  let ds := s.power.draws
  let s := wr PWR_INPUT_now_w 0 x.now.toNat (wr PWR_INPUT_avg_w 0 (ds.foldl (· + ·) 0 / ds.length) s)
  let s := wr PWR_INPUT_west_w 0 x.west.toNat (wr PWR_INPUT_east_w 0 x.east.toNat s)
  let s := wr PWR_INPUT_hot_w 0 x.hotW.toNat (wr PWR_INPUT_hot_e 0 x.hotE.toNat s)
  let s := x.temps.foldl (fun s (e : TileN × Byte) => wr PWR_TILE_temp e.1.val e.2.toNat s) s
  let s := wr PWR_COOLANT_inlet_c 0 x.inlet.toNat (wr PWR_COOLANT_outlet_c 0 x.outlet.toNat s)
  let s := wr PWR_COOLANT_flow 0 x.flow.toNat (wr PWR_COOLANT_vin 0 x.vin.toNat s)
  let s := if x.vin.toNat ≥ 480 then wr PWR_COOLANT_vin_low 0 0 s else s
  { s with phys := { s.phys with vin := x.vin.toNat } }

/-- hot and the flags beside it (R415, R418, R442); each of its four conditions raises the PWR event as it begins. -/
def hotTick (x : Sensors) (s : State) : State :=
  let low := decide (x.flow.toNat < 240)
  let inl := decide (x.inlet.toNat > 45)
  let w := rd PWR_THERMAL_warn_c 0 s
  let hw := decide (x.hotW.toNat ≥ w)
  let he := decide (x.hotE.toNat ≥ w)
  let begins := low && !on PWR_COOLANT_low_flow 0 s || inl && !on PWR_COOLANT_hot_inlet 0 s || hw && !s.power.warm.1 || he && !s.power.warm.2
  let b := fun (x : Bool) => if x then 1 else 0
  let s := wr PWR_COOLANT_low_flow 0 (b low) (wr PWR_COOLANT_hot_inlet 0 (b inl) (wr PWR_STATUS_hot 0 (b (low || inl || hw || he)) s))
  let s := modPower (fun p => { p with warm := (hw, he) }) s
  if begins then pwrEvent s else s

/-- Conditions 2 and 3 of R413: the draw has exceeded sustain_w for 8 ms and has not fallen below it since, or the average, taken exactly, exceeds 0.98 of it. -/
def sustainRise (sus : Nat) (s : State) : Bool :=
  decide (s.power.overTicks ≥ 8000) || decide (s.power.draws.foldl (· + ·) 0 * 100 > 98 * sus * s.power.draws.length)

/-- Ticks above sustain_w in a row, after one of draw `now`; once they are 8 ms, a draw of just sustain_w ends them no more than one above it (R413). -/
def overNext (now sus ticks : Nat) : Nat := if now > sus then ticks + 1 else if now = sus ∧ ticks ≥ 8000 then ticks else 0

/-- The management bus's status block of the moment (R445). -/
def mgmtBlock (s : State) : List Byte :=
  let f := rd BTC_STATUS_fail_code 0 s
  let st := (if s.phys.conv = 2 then 1 else 0) + rd BTC_STATUS_ready 0 s * 2 + rd PWR_STATUS_hot 0 s * 4 + (if s.phys.leak then 8 else 0)
    + rd PWR_COOLANT_vin_low 0 s * 16 + rd PWR_COOLANT_low_flow 0 s * 32 + season s * 64
  leBytes 0x09 1 ++ leBytes 0xB0 1 ++ leBytes st 1 ++ leBytes (rd BTC_STATUS_stage 0 s + (if f > 14 then 15 else f) * 16) 1
  ++ leBytes (rd PWR_INPUT_now_w 0 s) 2 ++ leBytes (rd PWR_INPUT_avg_w 0 s) 2 ++ leBytes (rd PWR_INPUT_hot_w 0 s) 1 ++ leBytes (rd PWR_INPUT_hot_e 0 s) 1
  ++ leBytes (rd PWR_COOLANT_inlet_c 0 s) 1 ++ leBytes (rd PWR_COOLANT_outlet_c 0 s) 1 ++ leBytes (rd PWR_COOLANT_flow 0 s) 2
  ++ leBytes (rd PWR_COOLANT_vin 0 s) 2 ++ leBytes s.boot.fuses.serial 4

/-- POWER_TICK (R412 to R415, R442, R445). -/
def powerTick (x : Sensors) (s : State) : State :=
  if !stationClock s then s
  else if tripNow x then thermalTrip s
  else
    let s := hotTick x (sensorTick x s)
    let sus := rd PWR_CONTROL_sustain_w 0 s
    let above := decide (x.now.toNat > sus)
    let s := if above && !s.power.above then pwrEvent (bump PWR_EXCURSIONS_count 0 1 s) else s
    let s := modPower (fun p => { p with overTicks := overNext x.now.toNat sus p.overTicks, above := above }) s
    let peak := decide (x.now.toNat > rd PWR_CONTROL_peak_w 0 s)
    let rise := sustainRise sus s
    let thr := rd PWR_THERMAL_throttle_c 0 s
    let s := [(0, x.west.toNat, x.hotW.toNat), (1, x.east.toNat, x.hotE.toNat)].foldl (fun s (e : Nat × Nat × Nat) =>
      let (d, draw, temp) := e
      let s := levelTick d peak (rise || decide (temp ≥ thr)) s
      let s := if Map.get (fun _ => 0) s.power.top d ≥ 1000 ∧ draw * 2600 > 625 * sus then suspendDie d false s else s
      let s := if temp ≥ rd PWR_THERMAL_suspend_c 0 s then suspendDie d true s else s
      restoreRows d (releaseDie d temp s)) s
    let l := max (level 0 s) (level 1 s)
    let s := wr PWR_STATUS_hold_cap 0 (if l = 0 then 192 else if l ≤ 7 then 64 else 0) s
    let s := if l = 0 then s else bump PWR_THROTTLE_US_count 0 1 s
    let s := seasonTick s
    { s with phys := { s.phys with sampled := mgmtBlock s } }

end Sys2Proof.Machine
end

