-- ==== Sys2Proof/Machine/Boot.lean ====
section
/-! DEFINITION. Boot (R385 to R396): verification of the image, the configuration record, the stages; recovery; identity and attestation (R397 to R399); the ATTACH command (R400, R401). -/

namespace Sys2Proof.Machine

def modBoot (f : BootSt → BootSt) (s : State) : State := { s with boot := f s.boot }
def stage (s : State) : Nat := rd BTC_STATUS_stage 0 s
def setStage (n : Nat) (s : State) : State := wr BTC_STATUS_stage 0 n s

/-- A command that reaches a block other than HST, BTC and MSX: in recovery these answer nothing (R396). -/
def answering (f : State → State) (s : State) : State := if stage s = 7 then s else f s

/-- BTC_STATUS.event and its message (R403). -/
def btcEvent (s : State) : State := msix 245 (wr BTC_STATUS_event 0 1 s)

/-! ### Limits of fields -/

/-- The value a write of `v` stores in a field with limits (R103, R215, R259, R260, R284, R361, R418, R419, and COL_CONTROL). -/
def storeVal (f : Fld) (v : Nat) (s : State) : Nat :=
  let within := fun (lo hi : Nat) => max lo (min hi v)
  if f = TIL_LR_CONTROL_ballast_hold then within 0 192
  else if f = MST_CONTROL_retrain_ms then within 10 1000
  else if f.reg = ULP_FC_CAP then (if v = 1 ∨ v = 2 then 3 else v)
  else if f = RTR_RATE_CONFIG_dec then within 1 8
  else if f.reg = RTR_RATE_CONFIG || f = MST_CONTROL_scrub_hours || f = ULP_CONTROL_nap_idle || f = COL_CONTROL_hold_us
    || f = ITG_CONTROL_poss_ms || f = ITG_CONTROL_suspect_limit then max 1 v
  else if f = PWR_THERMAL_warn_c then within 60 105
  else if f = PWR_THERMAL_throttle_c then within (rd PWR_THERMAL_warn_c 0 s) 110
  else if f = PWR_THERMAL_suspend_c then within (rd PWR_THERMAL_throttle_c 0 s) 112
  else if f = PWR_CONTROL_sustain_w then within 300 2600
  else if f = PWR_CONTROL_peak_w then within (rd PWR_CONTROL_sustain_w 0 s) 3000
  else v

/-! ### The boot image (R386, R387) -/

def imLen : Nat := 0x7F00000
def imFwOff (d : List Byte) : Nat := recNat d 8 8
def imFwLen (d : List Byte) : Nat := recNat d 0x10 8
def imRecOff (d : List Byte) : Nat := recNat d 0x18 8
def imRecLen (d : List Byte) : Nat := recNat d 0x20 8
def imSlot (d : List Byte) : Nat := recNat d 0x29 1
def imSvn (d : List Byte) : Nat := recNat d 0x28 1
def imPart (d : List Byte) (o n : Nat) : List Byte := (d.drop o).take n
def imRecord (d : List Byte) : List Byte := imPart d (imRecOff d) (imRecLen d)
def mFw (d : List Byte) : List Byte := shake256 (0x10#8 :: (d.take 64 ++ imPart d (imFwOff d) (imFwLen d))) 64
def mRec (d : List Byte) : List Byte := shake256 (0x11#8 :: (d.take 64 ++ imRecord d)) 64

/-- The header's layout: magic, version, reserved bytes, and where firmware and record lie. -/
def imHeader (d : List Byte) : Bool :=
  let fo := imFwOff d
  let fl := imFwLen d
  let ro := imRecOff d
  let rl := imRecLen d
  d.length ≥ 512 && recNat d 0 4 == 0x4239544B && recNat d 4 2 == 1 && recNat d 6 2 == 0 && recNat d 0x2A 22 == 0 && recNat d 0x79 7 == 0
  && recNat d 0xF2 14 == 0 && recNat d 0x139 7 == 0 && recNat d 0x1B2 78 == 0
  && fo % 4096 == 0 && decide (fo ≥ 0x1000) && decide (1 ≤ fl) && decide (fl ≤ 2 ^ 26) && ro % 4096 == 0 && decide (ro ≥ 512)
  && decide (0x800 ≤ rl) && decide (rl ≤ 0x21000) && decide (fo + fl ≤ imLen) && decide (ro + rl ≤ imLen)
  && (decide (fo + fl ≤ ro) || decide (ro + rl ≤ fo)) && decide (imSvn d ≤ 63) && decide (imSlot d ≤ 3)

/-! ### The configuration record (R388 to R391) -/

def rcEntries (r : List Byte) : Nat := recNat r 2 2
def rcTile (r : List Byte) (t : Nat) : Nat := recNat r (0x40 + t) 1
def rcShare (r : List Byte) : Nat := bits (recNat r 0x100 8) 0 5
def rcRing (r : List Byte) : Nat := bits (recNat r 0x100 8) 8 6
def rcDensity (r : List Byte) : Nat := bits (recNat r 0x200 8) 6 6
def rcEntry (r : List Byte) (i : Nat) : Nat × Nat := (recNat r (0x800 + 16 * i) 8, recNat r (0x808 + 16 * i) 8)

/-- The cfg fields of the register at an offset, with the index they have there. -/
def cfgFlds (o : Nat) : List (Fld × Nat) :=
  match findReg o with
  | some (r, i, j) => (r.flds.filter fun f => f.isCfg (r.ix i j)).map fun f => (f, r.ix i j)
  | none => []

/-- The record check: 0, 7 or 8 (R390, R391). -/
def recordFault (r : List Byte) : Nat :=
  let tiles := (List.range 168).map (rcTile r)
  let g := recNat r 0x200 8
  let sd := recNat r 0x100 8
  let n := rcEntries r
  let ok := recNat r 0 2 == 1 && decide (n ≤ 8192) && recNat r 4 60 == 0 && decide (0x800 + 16 * n ≤ r.length)
    && tiles.all (fun b => decide (b % 4 ≤ 2) && b / 8 == 0 && (!bit b 2 || b % 4 == 0)) && recNat r 0xE8 24 == 0
    && decide (bits sd 0 5 ≤ 16) && bits sd 5 3 == 0 && sd / 2 ^ 14 == 0 && recNat r 0x108 248 == 0
    && decide (28 ≤ bits g 0 6) && decide (bits g 0 6 ≤ 48) && (rcDensity r == 24 || rcDensity r == 32) && g / 2 ^ 12 == 0
    && recNat r 0x588 120 == 0 && (List.range 4).all (fun p => decide (recNat r (0x600 + 32 * p) 8 < 2 ^ 15)) && recNat r 0x680 384 == 0
    && decide ((tiles.filter fun b => b % 4 == 1).length ≤ 8) && (rcRing r != 0 || tiles.all fun b => !bit b 2)
    && (List.range n).all fun i => let (o, _) := rcEntry r i; decide (o < 2 ^ 26) && o % 8 == 0 && !(cfgFlds o).isEmpty
  if !ok then 7 else if (tiles.filter fun b => b % 4 == 0).length < 128 then 8 else 0

/-- R387 on an image: the fail code, 0 where it passes. With `enrol` the record is verified under the new owner key (R401). -/
def verifyImage (d : List Byte) (enrol : Bool) (s : State) : Nat :=
  let f := s.boot.fuses
  let kk := imPart d 0x40 57
  let ok := imPart d 0x100 57
  let fused := f.owner.isSome
  if !imHeader d then 2
  else if some (shake256 kk 32) != f.keys[imSlot d]? || bit f.revoked (imSlot d) then 3
  else if !Config.ed448Verify kk (mFw d) (imPart d 0x80 114) then 4
  else if imSvn d < f.svn then 5
  else if fused && f.owner != some (shake256 ok 32) then 6
  else if !Config.ed448Verify (if fused || enrol then ok else kk) (mRec d) (imPart d 0x140 114) then 6
  else recordFault (imRecord d)

/-- Ring `k` is the siding ring (R178), whether or not a tile belongs to the siding. A record whose ring field is 0 has none, for R390 refuses siding tiles with it (DEDUCED, log entry 44). -/
def rcSidingRing (r : List Byte) (k : Nat) : Bool := k == rcRing r && rcRing r != 0

/-- A cfg value written, and kept for later resets (R381). -/
def setCfg (f : Fld) (i v : Nat) (s : State) : State :=
  let s := wr f i (storeVal f v s) s
  { s with cfgVals := (s.cfgVals.filter fun e => e.1 != f.key i) ++ [(f.key i, rd f i s)] }

/-- Every cfg field at the value its table ships (R391). -/
def shipped (s : State) : State :=
  { s with cfgVals := [], flds := s.flds.filter fun e => !(match allFlds.find? fun f => f.id == e.1 / 65536 with
    | some f => f.isCfg (e.1 % 65536)
    | none => false) }

/-- The record applied (R388 to R391). -/
def applyRecord (r : List Byte) (s : State) : State :=
  let s := shipped s
  let s := (List.range (rcEntries r)).foldl (fun s i =>
    let (o, v) := rcEntry r i
    (cfgFlds o).foldl (fun s e => setCfg e.1 e.2 (bits v e.1.lo e.1.w) s) s) s
  let s := (List.range 168).foldl (fun s t =>
    let b := rcTile r t
    setCfg ITG_TILE_CTRL_state t (if b % 4 = 2 then 5 else b % 4) (setCfg ITG_TILE_CTRL_siding t (bits b 2 1) s)) s
  let count := fun (v : Nat) => ((List.range 168).filter fun t => rcTile r t % 4 == v).length
  let s := setCfg ITG_STATUS_enabled 0 (count 0) (setCfg ITG_STATUS_spares 0 (count 1) s)
  let s := (List.range 64).foldl (fun s k => setCfg HST_RING_CONTROL_siding k (if rcSidingRing r k then 1 else 0) s) s
  let s := (List.range 4).foldl (fun s p => wr MST_CXL_STATUS_present p (bits (recNat r (0x600 + 32 * p) 8) 0 1) s) s
  let s := setCfg RTR_TT_CTL_valid 0 1 (setCfg RTR_CONTROL_stamp 0 0 s)
  { s with sidingShare := rcShare r, dens24 := rcDensity r == 24 }

/-- Bytes 0x000 to 0x07F of the device certificate (R398): public key, serial number, ordering code, stepping, and the slot of the signing key. -/
def certBody (serial : Nat) : List Byte :=
  let key := (Config.ed448Public Config.siliconKey).take 57
  let code := [0x43, 0x54, 0x56, 0x2D, 0x54, 0x39, 0x2D, 0x34, 0x34, 0x38, 0x4C].map fun (n : Nat) => BitVec.ofNat 8 n
  let fit := fun (n : Nat) (d : List Byte) => (d ++ List.replicate n 0#8).take n
  fit 64 key ++ leBytes serial 8 ++ code ++ List.replicate 5 0x20#8 ++ [0xB0#8, Config.certSlot] ++ List.replicate 38 0#8

/-- The device certificate of the identity area (R398), which Kryler signed at manufacture. -/
def certificate (s : State) : List Byte :=
  let d := certBody s.boot.fuses.serial
  d ++ ((Config.ed448Sign Config.krylerKey (shake256 (0x30#8 :: d) 64)).take 114 ++ List.replicate 114 0#8).take 114 ++ List.replicate 270 0#8

/-- A measurement written (R398). -/
def setMeas (k : Nat) (d : List Byte) (s : State) : State := (List.range 8).foldl (fun s i => wr BTC_MEAS_data (8 * k + i) (recNat d (8 * i) 8) s) s

/-- The fuses as registers show them (R403), and their measurement. -/
def readFuses (s : State) : State :=
  let f := s.boot.fuses
  let s := wr BTC_SERIAL_serial 0 f.serial (wr BTC_FUSE_fuse_svn 0 f.svn (wr BTC_FUSE_key_revoked 0 f.revoked (wr BTC_FUSE_owner_fused 0 (if f.owner.isSome then 1 else 0) s)))
  setMeas 3 (shake256 (0x13#8 :: Config.fuseBytes f.svn f.revoked f.keys f.owner f.serial) 64) s

/-! ### The boot sequence (R392 to R396) -/

/-- Boot ends in stage 7 or 8 with a fail code. -/
def bootFail (st code : Nat) (s : State) : State := btcEvent (setStage st (wr BTC_STATUS_fail_code 0 code s))

/-- BOOT_START: BOARD_RESET_N ends, and with PERST_N ended and PWR_GOOD high board reset is released (R438), with the references running (R440); stage 1 (R392, R397). -/
def bootStart (s : State) : State :=
  if stage s != 0 || s.phys.conv != 2 || s.phys.trip || s.phys.perst then s else
  let s := setStage 1 { s with phys := { s.phys with low := false, refs := 7 } }
  let k := Config.ed448Public Config.siliconKey
  let s := (List.range 8).foldl (fun s m => wr BTC_ID_KEY_data m (ofLe (imPart (k.take 57) (8 * m) 8)) s) s
  readFuses (setMeas 0 Config.romDigest s)

/-- PCIE_LINK_UP: the link has come up, and configuration space answers. -/
def pcieUp (s : State) : State :=
  if stage s = 0 ∨ !s.phys.refs.testBit 1 then s else
  let s := modBoot (fun b => { b with pcie := true }) s
  if stage s = 1 then setStage 2 s else s

/-- The image as stage 2 leaves it in the yard, at a place that the spec leaves open (log entry 84). -/
def yardImage (d : List Byte) (s : State) : State := putBytes 6 (0x200000000000 + Config.imagePlace % (0xC000001 - min d.length 0xC000000)) d s

/-- BOOT_IMAGE_READ_DONE: stages 2 to 4. -/
def imageRead (err : Bool) (s : State) : State :=
  if !(stage s == 1 || stage s == 2) then s else
  let d := s.boot.flash
  if err then bootFail 7 1 s else
  let s := yardImage d s
  if d.all (· == 0xFF#8) then bootFail 7 9 s
  else
    match verifyImage d false (setStage 3 s) with
    | 0 =>
      let s := applyRecord (imRecord d) (setStage 4 s)
      let s := setMeas 1 (mFw d) (setMeas 2 (mRec d) (wr BTC_ID_fw_svn 0 (imSvn d) s))
      modBoot (fun b => { b with image := d }) s
    | c => bootFail 7 c s

/-- An enabled tile that failed the boot test is replaced (R393). -/
def bootReplace (bad : List Nat) (t : Nat) (s : State) : State :=
  let d := dieOfTile t
  let sd := on ITG_TILE_CTRL_siding t s
  match (dieTiles d ++ dieTiles (1 - d)).find? fun u => ctrl u s == 1 && !bad.contains u with
  | some u =>
    let s := wr ITG_STATUS_enabled 0 (enabledTiles s + 1) (wr ITG_STATUS_spares 0 (rd ITG_STATUS_spares 0 s - 1) s)
    let s := setCtrl u 0 s
    if sd then wr ITG_TILE_CTRL_siding u 1 s else s
  | none => s

/-- BOOT_TILE_TEST_DONE: tiles that failed, and the first calibration of the others. -/
def bootTested (bad : List TileN) (cal : List (TileN × BitVec 5 × Byte)) (s : State) : State :=
  if stage s != 4 then s else
  let s := cal.foldl (fun s e => wr PWR_TILE_trim e.1.val e.2.1.toNat (wr PWR_TILE_droop e.1.val e.2.2.toNat s)) s
  let bad := (List.range 168).filter fun t => (ctrl t s == 0 || ctrl t s == 1) && bad.any fun u => u.val == t
  let hurt := bad.filter fun t => ctrl t s == 0
  let s := bad.foldl (fun s t =>
    let s := if ctrl t s = 0 then wr ITG_STATUS_enabled 0 (enabledTiles s - 1) s else wr ITG_STATUS_spares 0 (rd ITG_STATUS_spares 0 s - 1) s
    setCtrl t 4 s) s
  let s := hurt.foldl (fun s t => bootReplace bad t s) s
  let s := if bad.isEmpty then s else wr BTC_STATUS_degraded 0 1 s
  if enabledTiles s < 128 then bootFail 7 8 s
  else
    let svn := imSvn s.boot.image
    let s := if svn > s.boot.fuses.svn then readFuses (modBoot (fun b => { b with fuses := { b.fuses with svn := svn } }) s) else s
    setStage 5 s

/-- CXL port `p` after its identity reading and training (R212). -/
def trainCxl (x : Trained) (p : Nat) (s : State) : State :=
  let r := imRecord s.boot.image
  let w := recNat r (0x600 + 32 * p) 8
  let id := imPart x.cxlIds (64 * p) 64
  let s := (List.range 8).foldl (fun s m => wr MST_CXL_ID_data (8 * p + m) (recNat id (8 * m) 8) s) s
  if !bit w 0 then s else
  let cap := (x.cxlCap.getD p 0#14).toNat
  let mismatch := wr BTC_STATUS_degraded 0 1 (wr MST_CXL_STATUS_id_mismatch p 1 s)
  if id.take 24 != imPart r (0x608 + 32 * p) 24 then mismatch
  else if !x.cxlUp.getLsbD p then wr BTC_STATUS_degraded 0 1 s
  else if cap != bits w 1 14 then mismatch
  else wr MST_CXL_STATUS_link_up p 1 (wr MST_CXL_STATUS_cap_256m p (min cap 8192) (wr MST_CXL_STATUS_degraded p (if x.cxlSlow.getLsbD p then 1 else 0) s))

/-- Boot lock (R395): the enabled ports begin bring-up. -/
def bootLock (s : State) : State :=
  let s := wr HST_STATUS_locked 0 1 (wr BTC_STATUS_locked 0 1 (setStage 6 s))
  (List.range 16).foldl (fun s p => if on ULP_CONTROL_enable p s && portState p s == 0 then portBringUp p s else s) s

/-- BOOT_TRAINING_DONE: stages 5 and 6 (R392, R394, R396). -/
def trainingDone (x : Trained) (s : State) : State :=
  if stage s != 5 then s
  else if !x.bridge then bootFail 8 11 s
  else
    let r := imRecord s.boot.image
    let good := fun (st d : Nat) => x.devices.getLsbD (4 * st + d) && (x.ids.getD (4 * st + d) 0#64).toNat == recNat r (0x208 + 8 * (4 * st + d)) 8
    let s := (List.range 28).foldl (fun s st =>
      let bad := (List.range 4).foldl (fun a d => if good st d then a else a + 2 ^ d) 0
      let s := wr MST_STATUS_dev_fail st bad (wr MST_STATUS_ready st (if bad = 0 then 1 else 0) s)
      if bad = 0 then s else wr BTC_STATUS_degraded 0 1 s) s
    let s := (List.range 4).foldl (fun s p => trainCxl x p s) s
    if (List.range 28).all fun st => rd MST_STATUS_dev_fail st s != 0 then bootFail 8 10 s
    else
      let s := modBoot (fun b => { b with fw := x.firmware.toNat }) (bootLock s)
      if x.firmware = 0xF#4 then btcEvent (wr BTC_STATUS_ready 0 1 s) else s

/-- FIRMWARE_START_TIMEOUT (R396). -/
def firmwareTimeout (s : State) : State :=
  if stage s = 6 ∧ s.boot.fw ≠ 0xF ∧ !on BTC_STATUS_ready 0 s then bootFail 8 12 s else s

/-- RECOVERY_GO: the bytes are those fetched from the host's memory (R396). -/
def recoveryGo (d : List Byte) (s : State) : State :=
  if stage s != 7 then s else
  wr BTC_REC_CONTROL_done 0 0 (modBoot (fun b => { b with fetched := some (d.take (rd BTC_REC_LEN_len 0 s)) }) s)

/-- RECOVERY_DONE (R396). An image longer than the attachment's image range is installed whole where it passes R387: no rule gives its length a limit here (DESIGN CHOICE, log entry 93). -/
def recoveryDone (s : State) : State :=
  match s.boot.fetched with
  | none => s
  | some d =>
    if stage s != 7 then s else
    let c := verifyImage d false s
    let s := modBoot (fun b => { b with fetched := none, flash := if c = 0 then d else b.flash }) s
    wr BTC_REC_CONTROL_done 0 1 (wr BTC_REC_CONTROL_result 0 c s)

/-! ### The ATTACH command (R399 to R401) -/

/-- An ATTACH command that may start: the attachment is free. -/
def frontAttach (k sub : Nat) (s : State) : Option Cmd :=
  if h : k < 64 then
    (match frontCmd (.ring ⟨k, h⟩) 10 s with
     | some c => if bits (recNat c.entry 0x18 8) 0 2 == sub && s.boot.attach.isNone then some c else none
     | none => none)
  else none

/-- What refuses an ATTACH before it starts (R400, R373). -/
def attachOk (c : Cmd) (s : State) : Bool :=
  c.reservedOk && !sidingRing c.ring s && c.waybill % 64 == 0 && decide (bits (recNat c.entry 0x18 8) 0 2 < 2)

/-- An ATTACH command ends (R403). -/
def attachEnd (c : Cmd) (status arg : Nat) (s : State) : State := btcEvent (complete c status 0 0 0 arg s)

/-- An ATTACH of a reserved subop, or of the siding ring, is refused. -/
def attachBad (k : Nat) (s : State) : State :=
  [2, 3].foldl (fun s n => match frontAttach k n s with
    | some c => btcEvent (refuseCmd c 1 s)
    | none => s) s

/-- ATTACH_UPDATE (R401 step 1). -/
def attachUpdate (k : Nat) (s : State) : State :=
  match frontAttach k 0 s with
  | none => attachBad k s
  | some c =>
    let n := c.fld 0x28 0 32
    let enrol := bit (recNat c.entry 0x18 8) 2
    if !attachOk c s || decide (n > imLen) then btcEvent (refuseCmd c 1 s) else
    match smRead (c.fld 0x20 0 48) n s with
    | (0, d, s1) =>
      let (c, s2) := started c s1
      if (enrol && s.boot.fuses.owner.isSome) || verifyImage d enrol s2 != 0 then attachEnd c 1 0 s2
      else modBoot (fun b => { b with attach := some (c.id, d, enrol) }) s2
    | (_, _, s1) => btcEvent (refuseRead c 1 s1)

/-- ATTACH_UPDATE_WRITE_DONE (R401 steps 2 to 4); `back` is what the attachment reads back where that is not what was written. -/
def attachWritten (back : Option (List Byte)) (s : State) : State :=
  match s.boot.attach with
  | none => s
  | some (id, d, enrol) =>
    let bad := match back with
      | some b => shake256 b 64 != shake256 d 64
      | none => false
    let s := modBoot (fun b => { b with attach := none, flash := back.getD d }) s
    let s := if bad then s else
      let s := if enrol then
          modBoot (fun b => { b with fuses := { b.fuses with owner := some (shake256 (imPart d 0x100 57) 32) } }) (wr BTC_FUSE_owner_fused 0 1 s)
        else s
      wr BTC_STATUS_update_pending 0 1 s
    match (cmdOf id s).filter fun c => c.phase == 1 && c.op == 10 with
    | some c => attachEnd c (if bad then 3 else 0) 0 s
    | none => s

/-- The quote of R399. -/
def quote (nonce : List Byte) (s : State) : List Byte :=
  let meas := (List.range 32).flatMap fun m => leBytes (rd BTC_MEAS_data m s) 8
  let d := leBytes (1 + 0xB0 * 2 ^ 16 + ownCoord s * 2 ^ 24) 8 ++ leBytes (rd BTC_SERIAL_serial 0 s) 8 ++ leBytes (now s) 8 ++ nonce ++ leBytes 0 8
    ++ meas ++ List.replicate 64 0#8
  d ++ (Config.ed448Sign Config.siliconKey (shake256 (0x20#8 :: d) 64)).take 114 ++ List.replicate 14 0#8

/-- ATTACH_ATTEST (R399, R400). -/
def attachAttest (k : Nat) (s : State) : State :=
  match frontAttach k 1 s with
  | none => attachBad k s
  | some c =>
    let out := c.fld 0x30 0 48
    if !attachOk c s || out % 64 != 0 then btcEvent (refuseCmd c 1 s) else
    match smRead (c.fld 0x20 0 48) 32 s with
    | (0, n, s1) =>
      if !mapped out 512 s1 then btcEvent (refuseRead c 11 s1)
      else if anyDown out 512 s1 then btcEvent (refuseRead c 3 s1)
      else
        let (c, s2) := started c s1
        attachEnd c 0 0 (putBytes 6 out (quote n s2) s2)
    | (e, _, s1) => btcEvent (refuseRead c e s1)

end Sys2Proof.Machine
end

