-- ==== Sys2Proof/Machine/Debug.lean ====
section
/-! DEFINITION. Freezing of signal boxes (R423) and the start of a trace collector (R425, R434). -/

namespace Sys2Proof.Machine

/-- BOX_FREEZE_WRITE: lost clears when freeze is set. -/
def boxFreeze (n : Nat) (v : Bool) (s : State) : State :=
  if v then wr DBG_BOX_HEAD_lost n 0 (wr DBG_BOX_HEAD_freeze n 1 s) else wr DBG_BOX_HEAD_freeze n 0 s

/-- FREEZE_ALL. -/
def freezeAll (s : State) : State := (List.range 224).foldl (fun s n => boxFreeze n true s) s

/-- THAW_ALL. -/
def thawAll (s : State) : State := (List.range 224).foldl (fun s n => boxFreeze n false s) s

/-- TRACE_ENABLE. -/
def traceEnable (d : Nat) (v : Bool) (s : State) : State :=
  if v then collectorStart d s else wr DBG_TRACE_CTL_enable d 0 s

end Sys2Proof.Machine
end

