-- ==== Sys2Proof/Machine/Resets.lean ====
section
/-! DEFINITION. Resets (R381), the module as an object (R437 to R446), and accesses through BAR2 (R364). -/

namespace Sys2Proof.Machine

/-! ### Resets of blocks -/

/-- The fields of the blocks `p` selects return to their reset values, cfg fields to those of boot (R381). -/
def resetFlds (p : Block → Bool) (s : State) : State :=
  let s := { s with flds := s.flds.filter fun e => !p (fldBlock (e.1 / 65536)) }
  s.cfgVals.foldl (fun s e =>
    if p (fldBlock (e.1 / 65536)) then
      (match allFlds.find? fun f => f.id == e.1 / 65536 with
       | some f => wr f (e.1 % 65536) e.2 s
       | none => s)
    else s) s

/-- The tags that units now reset waited for are abandoned, and their requests that wait for a tag are dropped (R450). -/
def dropTags (s : State) : State :=
  { s with tags := s.tags.map fun e => (e.1, e.2.map fun u => match u.who with
      | .shunt _ _ _ => { u with abandoned := true }
      | .coll _ _ _ => { u with abandoned := true }
      | .mgt _ => { u with abandoned := true }
      | _ => u),
           tagq := s.tagq.filter fun q => match q.who with
      | .shunt _ _ _ => false
      | .coll _ _ _ => false
      | .mgt _ => false
      | _ => true }

/-- A possession whose tile is reset under it is over; the tile is what it was. -/
def possDrop (d : Nat) (s : State) : State :=
  let p := poss d s
  if p.st = 0 then s else possEnd d (if p.st = 1 then s else setCtrl p.tile p.prev s)

/-- TIL, SHN, COL and the express units are reset, and with them what a restore set in them (R336); stores and memory keep their contents. -/
def resetUnits (s : State) : State :=
  let s := haltAsked ((List.range 168).filter fun t => coreBusy t s) s
  let s := if s.cut.saving.isEmpty then s else cutDamage 13 (modCut (fun c => { c with saving := [] }) s)
  let s := possDrop 1 (possDrop 0 s)
  let checks := (List.range 16).foldl (fun (m : Map CheckSlot) k =>
    let c := checkSlot k s
    let c' : CheckSlot := if c.st = 1 ∨ c.st = 2 then {} else if c.st = 4 then { c with st := 3 } else if c.st = 6 then { c with st := 5 } else c
    Map.set (fun _ => {}) m k c') []
  let tiles := (List.range 168).foldl (fun (m : Map TileSt) t =>
    Map.set (fun _ => {}) m t { core := { cycle0 := s.cycle - Map.get (fun _ => 0) s.power.skips t } }) []
  let s := resetFlds (fun b => b == .TIL || b == .SHN || b == .COL || b == .EXP)
    { dropTags s with tiles := tiles, checks := checks, shunts := [], signals := [], colls := [], heldq := [], expVec := [], expK := [], xcmds := [], xunits := [],
                      xparts := [], hist := [], notices := [] }
  let s := modCut (fun c => { c with own := none, twin := none, resumeSet := false, xpend := [] }) s
  modPower (fun p => { p with rows := [], at15 := [] }) s

/-! ### Ring, idle, function and board reset -/

/-- The order list of a command that is aborted leaves the arbiter. -/
def dropList (c : Cmd) (s : State) : State :=
  let mine := fun (m : MList) => m.cmd == some c.id
  modHost (fun h => { h with arb := h.arb.filter fun m => !mine m, hold := if h.arb.any (fun m => mine m && !m.fresh) && h.hold == some 1 then none else h.hold }) s

/-- A command in progress, or fetched and waiting, is aborted: its cores are halted and its tiles are free. An ATTACH that ends so raises its event too (R403). -/
def abortCmd (c : Cmd) (s : State) : State :=
  let s := haltAsked c.tiles (dropList c s)
  let s := c.tiles.foldl (fun s t => if ctrl t s == 4 then s else discardTile t s) s
  let s := complete c 13 0 0 0 0 s
  if c.op = 10 then btcEvent s else s

/-- The commands `p` selects are aborted; those completed with their tiles held, where `p` selects them, let go of them. -/
def abortWhere (p : Cmd → Bool) (s : State) : State :=
  s.host.cmds.foldl (fun s c => if !p c then s else
    if c.phase = 3 then dropCmd c (c.tiles.foldl (fun s t => freeTile t s) s) else
    match cmdOf c.id s with
    | some c => abortCmd c s
    | none => s) s

/-- RING_RESET. Tiles held after an exception stay held: RELEASE or an idle reset frees them (R371). Completions that found no room in the ring go into the empty one. -/
def ringReset (k : Nat) (s : State) : State :=
  let s := abortWhere (fun c => c.ring == k && c.phase != 3) s
  let s := modHost (fun h => { h with seqs := Map.set (fun _ => 0) h.seqs k 0, pass := Map.set (fun _ => 0) h.pass k 0 }) s
  let s := wr HST_RING_HEAD_head k 0 (wr HST_RING_TAIL_tail k 0 (wr HST_CQ_HEAD_head k 0 (wr HST_CQ_TAIL_tail k 0 s)))
  cqDrain (k % 4) (cqWaiting (k % 4) s).length s

/-- RING_ENABLE: a write of enable; the sequence number is counted from 0 (R366). -/
def ringEnable (k : Nat) (v : Bool) (s : State) : State :=
  let s := if v && !on HST_RING_CONTROL_enable k s then modHost (fun h => { h with seqs := Map.set (fun _ => 0) h.seqs k 0 }) s else s
  wr HST_RING_CONTROL_enable k (if v then 1 else 0) s

/-- RING_TAIL_WRITE. -/
def ringTail (k v : Nat) (s : State) : State := wr HST_RING_TAIL_tail k v s

/-- IDLE_RESET. -/
def idleReset (s : State) : State := resetUnits (abortWhere (fun _ => true) s)

/-- FUNCTION_RESET; `down` where the PCIe link went down. No completion is written, and bus mastering is off until the host sets it on again. -/
def functionReset (down : Bool) (s : State) : State :=
  let s := resetUnits (modHost (fun h => { arb := h.arb.filter fun m => m.cmd.isNone, hold := if h.hold = some 1 then none else h.hold }) s)
  let s := resetFlds (fun b => b == .HST || b == .MSX) s
  let s := wr HST_STATUS_locked 0 (rd BTC_STATUS_locked 0 s) s
  modBoot (fun b => { b with pcie := b.pcie && !down, masterOff := true }) s

/-- Everything but what the board, the attachment and the fuses hold is lost. An update that was being written leaves an image that fails R387 (R401). -/
def loseState (s : State) : State :=
  let flash := if s.boot.attach.isSome then [0#8] else s.boot.flash
  keepLeak { State.reset with pending := s.pending, dens24 := s.dens24, boot := { flash := flash, ident := s.boot.ident, fuses := s.boot.fuses },
                              phys := { s.phys with sampled := [] }, hostOut := s.hostOut, bar2 := s.bar2 }

/-- BOARD_RESET: no effect while a thermal trip holds (R443). -/
def boardReset (s : State) : State :=
  if s.phys.trip then s else
  let s := loseState s
  { s with phys := { s.phys with low := true } }

/-- PERST_N asserted is a board reset too (R363, R381), which it holds until it ends (R438). -/
def perstWrite (b : Bool) (s : State) : State :=
  if s.phys.trip then { s with phys := { s.phys with perst := b } } else
  if b then (let s := loseState s; { s with phys := { s.phys with perst := true } }) else { s with phys := { s.phys with perst := false } }

/-! ### Main input, references, leak, management bus (R439 to R445) -/

def modPhys (f : PhysSt → PhysSt) (s : State) : State := { s with phys := f s.phys }

/-- INPUT_RISE. -/
def inputRise (s : State) : State := if s.phys.conv = 0 ∧ !s.phys.overV then modPhys (fun p => { p with conv := 1 }) s else s

/-- SOFT_START_COMPLETE: PWR_GOOD rises. -/
def softStart (s : State) : State := if s.phys.conv = 1 then modPhys (fun p => { p with conv := 2 }) s else s

/-- INPUT_LOSS: the input fell below 44 V, or rose above 57 V (`high`). Only the fall clears the latches of a trip and of a leak. -/
def inputLoss (high : Bool) (s : State) : State :=
  if high then modPhys (fun p => { p with conv := 0, overV := true }) (loseState s)
  else modPhys (fun p => { p with conv := 0, overV := false, trip := false }) (loseState (modPhys (fun p => { p with leak := false }) s))

/-- OVERVOLTAGE_RELEASE. -/
def overRelease (s : State) : State := if s.phys.overV then modPhys (fun p => { p with overV := false, conv := 1 }) s else s

/-- VIN_LOW_TIMER. -/
def vinLow (s : State) : State := if s.phys.conv = 2 ∧ !s.phys.trip then wr PWR_COOLANT_vin_low 0 1 s else s

/-- REFERENCE_LOSS: reference 0 of 25 MHz, 1 of 100 MHz, 2 of 156.25 MHz (R440). -/
def referenceLoss (k : Nat) (s : State) : State :=
  let s := modPhys (fun p => { p with refs := if p.refs.testBit k then p.refs - 2 ^ k else p.refs }) s
  match k with
  | 1 => if s.boot.pcie then functionReset true s else s
  | 2 => (List.range 16).foldl (fun s p => linkLost p s) s
  | _ => s

/-- LEAK_DETECT. -/
def leakDetect (s : State) : State :=
  if s.phys.trip then s else
  pwrEvent (wr PWR_COOLANT_leak 0 1 (modPhys (fun p => { p with leak := true }) s))

/-- What the management bus shows: the sample of the latest station tick, before the first one the values of the moment (R445). -/
def busBlock (s : State) : List Byte := if s.phys.sampled.isEmpty then mgmtBlock s else s.phys.sampled

/-- ALERT_N (R437): low while the status byte of the bus shows hot, leak, vin_low or low_flow. -/
def alertN (s : State) : Bool := bits ((busBlock s).getD 2 0#8).toNat 2 4 == 0

/-- The module's address on the management bus (R445). -/
def mgmtAddr (s : State) : Nat := 0x60 + s.phys.straps % 4

/-- MGMT_BUS_READ of `n` bytes from `o` at bus address `a`; no answer at another address, without PWR_GOOD, or after a trip. -/
def mgmtRead (a o n : Nat) (s : State) : State :=
  if a != mgmtAddr s || s.phys.conv != 2 || s.phys.trip then modPhys (fun p => { p with answer := none }) s else
  modPhys (fun p => { p with answer := some ((List.range n).map fun i => (busBlock s).getD (o + i) 0#8) }) s

/-- MGMT_BUS_WRITE: acknowledged and discarded. -/
def mgmtWrite (s : State) : State := s

/-! ### BAR2 (R364) -/

/-- BAR2 answers: the link is up, and boot has not ended in recovery (R396). -/
def bar2Open (s : State) : Bool := s.boot.pcie && stage s != 7

def bar2Answer (a : Option (List Byte × Bool)) (s : State) : State := { s with bar2 := s.bar2 ++ [a] }

/-- A read of `n` bytes at window offset `o`. -/
def bar2Read (o n : Nat) (s : State) : State :=
  if !bar2Open s then bar2Answer none s else
  match memRead 2 fromHost (rd HST_BAR2_BASE_base 0 s * 2 ^ 36 + o) n s with
  | (0, d, s) => bar2Answer (some (d, false)) s
  | (3, d, s) => bar2Answer (some (d, true)) s
  | (_, _, s) => bar2Answer none s

/-- A write; poisoned data is stored poisoned (R363, R192). A write that must wait for a mirror (R331) waits. -/
def bar2Write (o : Nat) (d : List Byte) (poison : Bool) (s : State) : State :=
  let a := rd HST_BAR2_BASE_base 0 s * 2 ^ 36 + o
  let xs := rangeSectors a d.length
  if !bar2Open s then bar2Answer none s
  else if writeWaits xs s then s
  else
    match memWrite 2 fromHost a d s with
    | (0, s) =>
      let s := if !poison then s else poisonMarked a (List.replicate d.length 0xFF#8) s
      bar2Answer (some ([], false)) s
    | (3, s) => bar2Answer (some ([], false)) s
    | (_, s) => bar2Answer none s

end Sys2Proof.Machine
end

