-- ==== Sys2Proof/Machine/RegWrite.lean ====
section
/-! DEFINITION. Writes of BAR0 registers (R6 to R9, R365): what a written field does, and what is ignored and recorded (R8, R275, R312, R341, R379, R384). -/

namespace Sys2Proof.Machine

/-! ### Writes that are ignored -/

/-- The box of the unit whose register was written (R8). -/
def writeBox (r : Reg) (i : Nat) : Nat :=
  match r.blk with
  | .TIL => i
  | .MST => if 58 ≤ r.id then boxHST else boxStation i
  | .EXP => boxStation i
  | .SHN => boxSHN
  | .ULP => boxPort i
  | .RTR => boxRTR
  | .COL => boxCOL
  | .CUT => boxCUT
  | .ITG => boxITG
  | .BTC => boxBTC
  | .PWR => boxPWR
  | _ => boxHST

/-- A write that is ignored while the unit it configures runs (R341, R384). -/
def writeHeld (f : Fld) (i : Nat) (s : State) : Bool :=
  let r := f.reg.id
  if r = HST_RING_BASE.id ∨ r = HST_CQ_BASE.id ∨ f.id = HST_RING_CONTROL_log2_size.id ∨ f.id = HST_RING_CONTROL_cq_log2_size.id then on HST_RING_CONTROL_enable i s
  else if r = CUT_MIR_BASE.id ∨ r = CUT_MIR_LIMIT.id ∨ r = CUT_MIR_TWIN.id then on CUT_CONTROL_mirror_en 0 s && on CUT_MIR_BASE_valid i s
  else if r = CUT_ADOPT_BASE.id ∨ r = CUT_ADOPT_LIMIT.id ∨ r = CUT_ADOPT_LOCAL.id then on RTR_CONTROL_adopt 0 s && on CUT_ADOPT_BASE_valid i s
  else false

/-! ### Fields with a rule of their own -/

/-- STAMP_WRITE (R274, R275). -/
def stampWrite (v : Nat) (s : State) : State :=
  if on RTR_TT_CTL_valid (v % 2) s then wr RTR_CONTROL_stamp 0 v s
  else event boxRTR 0x06 (v % 2) (RTR_CONTROL.off 0 0) s

/-- A new value of vector `v`'s mask; unmasked, a pending message is sent (R363). -/
def msixMask (v new : Nat) (s : State) : State :=
  let s := wr MSIX_DATA_mask v new s
  if new = 0 ∧ (rd MSIX_PBA_pend (v / 64) s).testBit (v % 64) then msixSend v (wrBit MSIX_PBA_pend (v / 64) (v % 64) false s) else s

/-- A new value of count_en of tile `t`; cleared, the waybills of the commands that hold the tile are partial (R430). -/
def countEnable (t new : Nat) (s : State) : State :=
  let part := fun (c : Cmd) => if (c.phase == 1 || c.phase == 2) && c.tiles.contains t then { c with part := true } else c
  wr TIL_LR_CONTROL_count_en t new (if new = 0 then modHost (fun h => { h with cmds := h.cmds.map part }) s else s)

/-- A new value of a field of CUT_RT_CONFIG: time is taken from the parent port again, and a module that is the root no more, and was not in discipline beside, records that rt_ok is lost (R315, R422). -/
def rtConfig (f : Fld) (new : Nat) (s : State) : State :=
  let t := wr CUT_RT_STATUS_on_alt 0 0 (wr f 0 new s)
  if rtOk s && !rtOk t then event boxCUT 0x0B 2 (shownTheta t) t else t

/-- A new value for a field that software may replace. -/
def setField (f : Fld) (i new : Nat) (s : State) : State :=
  if f.id = ULP_CONTROL_enable.id then portEnable i (new == 1) s
  else if f.id = RTR_CONTROL_stamp.id then stampWrite new s
  else if f.id = CUT_RTIME_rtime.id then rtimeWrite new s
  else if f.id = CUT_RESUME_TIME_resume.id then resumeWrite new s
  else if f.id = HST_RING_CONTROL_enable.id then ringEnable i (new == 1) s
  else if f.id = HST_RING_TAIL_tail.id then ringTail i new s
  else if f.id = HST_CQ_HEAD_head.id then cqHeadWrite i new s
  else if f.id = DBG_TRACE_CTL_enable.id then traceEnable i (new == 1) s
  else if f.id = DBG_BOX_HEAD_freeze.id then boxFreeze i (new == 1) s
  else if f.id = TIL_LR_CONTROL_count_en.id then countEnable i new s
  else if f.id = MSIX_DATA_mask.id then msixMask i new s
  else if f.reg.id = BTC_REC_ADDR.id ∨ f.reg.id = BTC_REC_LEN.id then (if stage s = 7 then wr f i new s else s)
  else if f.reg.id = CUT_RT_CONFIG.id then rtConfig f new s
  else wr f i (storeVal f new s) s

/-! ### Control registers: fields that act (WO), lowest bit first -/

/-- The actions of `l` whose bit of `x` is set, in order. -/
def acting (x : Nat) (l : List (Fld × (State → State))) (s : State) : State :=
  l.foldl (fun s e => if bit x e.1.lo then e.2 s else s) s

/-- A lane-row order to tile `t`; a failed tile takes none (R352), and it is recorded as ignored. -/
def rowOrder (t : Nat) (f : State → State) (s : State) : State := if failedTile t s then event t 0x02 0 (TIL_LR_SUSPEND.off t 0) s else f s

/-- TIL_LR_SUSPEND.suspend (R95, R104); one that joins a suspension is recorded (R449). -/
def lrSuspendWrite (t : Nat) : State → State := rowOrder t fun s =>
  let (c, s) := suspendStart t (saveAddr t s) (wakeTile t s)
  if c = 1 then event t 0x02 0 (TIL_LR_SUSPEND.off t 0) s else s

/-- TIL_LR_SUSPEND.restore (R97, R104). -/
def lrRestoreWrite (t : Nat) : State → State := rowOrder t fun s => (restoreStart t (saveAddr t s) (wakeTile t s)).2

/-- SHN_CH_CONTROL.start_chain. -/
def chChainWrite (ch : Nat) (s : State) : State := chainStart ch (rd SHN_CH_CHAIN_chain ch s) false none s

/-- What the WO fields of register `r` at index `i` do for the bits of `x` that are set; an order or a request needs its mask (R378). Several that are set in one write act lowest bit first, after the register's other fields: the spec orders them for TIL_CORE_CONTROL alone (R143; DESIGN CHOICE, log entry 71). -/
def regActs (r : Reg) (i x m : Nat) (s : State) : State :=
  if r.id = TIL_LR_SUSPEND.id then acting x [(TIL_LR_SUSPEND_suspend, lrSuspendWrite i), (TIL_LR_SUSPEND_restore, lrRestoreWrite i)] s
  else if r.id = TIL_CORE_CONTROL.id then
    if x % 32 = 0 then s else coreControl i (x % 32) (wakeTile i s)
  else if r.id = MST_CONTROL.id then
    acting x [(MST_CONTROL_retrain_req, retrainReq i), (MST_CONTROL_scrub_kick, scrubKick i)] s
  else if r.id = MST_ERR_HEAD.id then acting x [(MST_ERR_HEAD_consumed, consumed i)] s
  else if r.id = SHN_CH_CONTROL.id then
    acting x [(SHN_CH_CONTROL_start, afterLock (regStart i)), (SHN_CH_CONTROL_start_chain, afterLock (chChainWrite i)), (SHN_CH_CONTROL_stop, chStop i),
              (SHN_CH_CONTROL_resume, chResume i), (SHN_CH_CONTROL_clear, chClear i)] (if x % 32 = 0 then s else wakeShunt i s)
  else if r.id = ULP_CONTROL.id then acting x [(ULP_CONTROL_retrain, portRetrain i)] s
  else if r.id = RTR_MAP_CONTROL.id then acting x [(RTR_MAP_CONTROL_latch, mapLatch (bit x RTR_MAP_CONTROL_clear.lo))] s
  else if r.id = CUT_CONTROL.id then
    acting x [(CUT_CONTROL_abandon, cutAbandon), (CUT_CONTROL_restore, cutRestore), (CUT_CONTROL_resync, resync)] s
  else if r.id = CUT_ORDER.id then (if m % 65536 = 0 then s else cutOrder (x % 65536) s)
  else if r.id = ITG_CONTROL.id then acting x [(ITG_CONTROL_replay_done, replayDone)] s
  else if r.id = ITG_POSS_REQ.id then if m % 1024 = 0 then s else possRequest (x % 256) (bit x ITG_POSS_REQ_force.lo) (bit x ITG_POSS_REQ_cal_only.lo) s
  else if r.id = ITG_TILE_CTRL.id then acting x [(ITG_TILE_CTRL_fail, tileFail i 4)] s
  else if r.id = HST_CONTROL.id then acting x [(HST_CONTROL_idle_reset, idleReset)] s
  else if r.id = HST_RING_CONTROL.id then acting x [(HST_RING_CONTROL_reset, ringReset i)] s
  else if r.id = DBG_CONTROL.id then acting x [(DBG_CONTROL_freeze_all, freezeAll), (DBG_CONTROL_thaw_all, thawAll)] s
  else s

/-! ### A masked write -/

/-- What a write of `v` under mask `m` does to a field, beside WO. `pre` is the state before the write; the second component says that the write is to be recorded with that code (0 not). -/
def writeField (pre : State) (i v m : Nat) (f : Fld) (x : Nat × State) : Nat × State :=
  let fm := bits m f.lo f.w
  let fv := bits v f.lo f.w
  let old := rd f i pre
  let new := old - (old &&& fm) + (fv &&& fm)
  if fm = 0 then x else
  match f.acc with
  | .RO => x
  | .WO => x
  | .W1C => (x.1, wr f i (rd f i x.2 - (rd f i x.2 &&& fv &&& fm)) x.2)
  | .W1S => (x.1, wr f i (rd f i x.2 ||| (fv &&& fm)) x.2)
  | .RWL => if rwlHeld f pre then (1, x.2) else (x.1, setField f i new x.2)
  | .RW => if writeHeld f i pre then (2, x.2) else (x.1, setField f i new x.2)

/-- A write of RTR_CONTROL that names a timetable which is not valid (R275). -/
def stampRefused (v m : Nat) (s : State) : Bool := bit m 0 && !on RTR_TT_CTL_valid (bits v 0 1) s

/-- A write of the register (`r`, i, j): the fields from the lowest up, then the actions. A field of the timetable that stamp names is refused, and a refused stamp leaves the whole register as it was (R275). A new cap of ULP_FC_CAP takes effect at once (R260). -/
def regWrite (r : Reg) (i j v m : Nat) (s : State) : State :=
  if r.id = RTR_CONTROL.id ∧ stampRefused v m s then stampWrite (bits v 0 1) s else
  if (r.id = RTR_TT_CTL.id ∨ r.id = RTR_TT_REDIR.id) ∧ i = rd RTR_CONTROL_stamp 0 s then event boxRTR 0x06 i (r.off i j) s else
  let k := r.ix i j
  let (c, s) := r.flds.foldl (fun x f => writeField s k v m f x) (0, s)
  let s := if c = 0 then s else event (writeBox r i) c 0 (r.off i j) s
  let s := if r.id = ULP_FC_CAP.id ∧ m ≠ 0 then fcUpdate k s else s
  regActs r k (v &&& m) m s

/-- TIMETABLE_WRITE (R275): a write under a mask to RTR_TT_CTL of timetable `i`, or to its entry `e` of RTR_TT_REDIR. -/
def timetableWrite (i : Nat) (e : Option Nat) (v m : Nat) (s : State) : State :=
  match e with
  | none => regWrite RTR_TT_CTL i 0 v m s
  | some j => regWrite RTR_TT_REDIR i j v m s

/-- A masked write to BAR0 offset `o`; one outside every register is discarded (R365). -/
def regWriteM (o v m : Nat) (s : State) : State :=
  match findReg o with
  | some (r, i, j) => regWrite r i j v m s
  | none => s

/-- Registers the host may not write through BAR0 (R379). -/
def ordersOnly (o : Nat) : Bool := decide (0x800000 ≤ o ∧ o < 0xA00000) || decide (0xB00000 ≤ o ∧ o < 0xD00000) || o == 0x200008

/-- Blocks that answer in recovery (R396). -/
def recoveryBlock (o : Nat) : Bool := decide (o < 0x200000) || decide (0x3F00000 ≤ o ∧ o < 0x3F08100)

/-- REGISTER_WRITE: a host write through BAR0. -/
def hostWriteReg (o v : Nat) (s : State) : State :=
  if !s.boot.pcie || (stage s == 7 && !recoveryBlock o) then s
  else if ordersOnly o then event boxHST 0x02 0 o s
  else regWriteM o v (2 ^ 64 - 1) s

end Sys2Proof.Machine
end

