-- ==== Sys2Proof/Machine/Arbiter.lean ====
section
/-! DEFINITION. Management orders (R378 to R380): MGT packets, the arbiter's cycle, and the replies. -/

namespace Sys2Proof.Machine

/-! ### Orders that arrive -/

/-- Whether coordinate `c` is a fabric manager's (R379). -/
def isFm (c : Nat) (s : State) : Bool :=
  c == rd HST_FM_COORD_primary 0 s || (on HST_FM_COORD_standby_valid 0 s && c == rd HST_FM_COORD_standby 0 s)

/-- The master of an MGT packet: 0 fabric manager, 2 twin, 3 other. -/
def mgtMaster (e : QPkt) (s : State) : Nat :=
  if isFm e.pkt.src s then 0
  else if e.from_ < 16 && rd ULP_ROLE_role e.from_ s == 7 && e.pkt.src == twinOf (ownCoord s) then 2
  else 3

/-- MGT_PACKET: the list is classified and waits at the arbiter. A payload that does not hold the n orders of its header, n from 1 to 10, orders nothing and is not answered. -/
def mgtPacket (s : State) : State :=
  match takeEj 0x50 s with
  | none => s
  | some (e, s) =>
    let d := e.pkt.payload
    let h := recNat d 0 8
    let n := h % 16 + 1
    if n > 10 ∨ d.length < 8 + 24 * n then s else
    arbPush { master := mgtMaster e s, orders := ordersOf n (d.drop 8), atomic := bit h 4, src := e.pkt.src, tag := e.pkt.tag, echo := e.pkt.ca } s

/-! ### The arbiter -/

/-- What a master may do (R379). -/
def mayOrder (master : Nat) (o : MOrder) : Bool :=
  match master with
  | 0 => o.read || !decide (0x100000 ≤ o.off ∧ o.off < 0x200000)
  | 1 => true
  | 2 => o.read || o.off == CUT_CONTROL.off 0 0 || o.off == ITG_POSS_REQ.off 0 0
  | _ => false

/-- The register an order names. -/
def MOrder.reg (o : MOrder) : Nat := o.off / 8 * 8

/-- The first list of master `m` that waits. -/
def listOf (m : Nat) (s : State) : Option MList := s.host.arb.find? fun l => l.master == m

/-- The masters whose orders are taken this cycle, first in precedence first: those of `ms`, or the one that holds the arbiter. -/
def cycleMasters (ms : BitVec 4) (s : State) : List Nat :=
  (List.range 4).filter fun m => (match s.host.hold with
    | some h => h == m
    | none => ms.getLsbD m) && (match listOf m s with
    | some l => !l.orders.isEmpty
    | none => false)

/-- The list of master `m` takes the arbiter for more than a cycle: it is atomic and has orders behind its first. -/
def longList (m : Nat) (s : State) : Bool := (listOf m s).any fun l => l.atomic && decide (l.orders.length > 1)

/-- The status of each order of the cycle: of those that may write, the first to name a register is applied and the others are superseded. One list alone can hold the arbiter from this cycle on: where an atomic list of several orders (`long`) comes behind such a list, it waits with its first order, unless that is superseded. -/
def cycleStatus (long : Nat → Bool) : List (Nat × MOrder) → List Nat → Bool → List (Nat × MOrder × Nat)
  | [], _, _ => []
  | (m, o) :: rest, taken, held =>
    if mayOrder m o && !o.read && taken.contains o.reg then (m, o, 10) :: cycleStatus long rest taken held
    else if held && long m then cycleStatus long rest taken held
    else if !mayOrder m o then (m, o, 2) :: cycleStatus long rest taken (held || long m)
    else if o.read then (m, o, 0) :: cycleStatus long rest taken (held || long m)
    else (m, o, 0) :: cycleStatus long rest (o.reg :: taken) (held || long m)

/-- The value an order's reply shows: none to a master that may not read. -/
def orderValue (m : Nat) (o : MOrder) (s : State) : Nat := if m = 3 then 0 else readReg o.reg s

/-- The first list of master `m` after the cycle in which its first order had status `st` with value `v`. A superseded first order of an atomic list takes the whole list with it. -/
def listAfter (l : MList) (st v : Nat) (s : State) : MList :=
  if st = 10 ∧ l.atomic ∧ l.fresh then
    { l with orders := [], fresh := false, results := l.orders.map fun o => (10, orderValue l.master o s) }
  else { l with orders := l.orders.tail, fresh := false, results := l.results ++ [(st, v)] }

/-- The MGTACK payload of a finished list (R378). -/
def ackPayload (l : MList) : List Byte :=
  leBytes ((l.results.length - 1) % 16) 8 ++ l.results.flatMap fun r => leBytes r.1 8 ++ leBytes r.2 8

/-- A finished list is answered. -/
def listReply (l : MList) (s : State) : State :=
  match l.cmd with
  | some id => mgtReply id (ackPayload l) s
  | none => respond { typ := 0x50, vc := 4, tt := 0, ca := l.echo, dst := 0, src := l.src, tag := l.tag } 0x83 0 0 (ackPayload l) s

/-- The orders of `l` whose results its turn gives: the first, or all of an atomic list whose first is superseded. -/
def ordersDone (l : MList) (o : MOrder) (st : Nat) : List MOrder := if st = 10 ∧ l.atomic ∧ l.fresh then l.orders else [o]

/-- List `l` after its order of this cycle: answered once it is empty; an atomic one holds the arbiter until then. A list that a write of the cycle took away has no turn. -/
def listTurn (l : MList) (o : MOrder) (st : Nat) (s : State) : State :=
  if !s.host.arb.contains l then s else
    let m := l.master
    let s := if st = 0 then s else (ordersDone l o st).foldl (fun s q => event boxHST 0x07 st q.off s) s
    let s := if st = 2 then msix 246 s else s
    let l' := listAfter l st (orderValue m o s) s
    let at_ := s.host.arb.findIdx (· == l)
    let rest := s.host.arb.eraseIdx at_
    if l'.orders.isEmpty then
      listReply l' (modHost (fun h => { h with arb := rest, hold := if h.hold = some m then none else h.hold }) s)
    else
      modHost (fun h => { h with arb := h.arb.set at_ l', hold := if l'.atomic then some m else h.hold }) s

/-- The bits of a register whose fields are W1C. -/
def w1cMask (r : Reg) : Nat := r.flds.foldl (fun m f => match f.acc with
  | .W1C => m ||| (2 ^ f.w - 1) * 2 ^ f.lo
  | _ => m) 0

/-- The part of an order's mask that is on W1C bits. -/
def MOrder.w1c (o : MOrder) : Nat :=
  match findReg o.reg with
  | some (r, _, _) => o.mask &&& w1cMask r
  | none => 0

/-- The writes `os` that a cycle applies, first in precedence first. Their W1C bits are cleared ahead of all else, so that a bit which the hardware sets in that cycle, for any of them, reads 1 (R6). -/
def cycleWrites (os : List MOrder) (s : State) : State :=
  let s := os.foldl (fun s o => if o.w1c = 0 then s else regWriteM o.reg o.value o.w1c s) s
  os.foldl (fun s o => regWriteM o.reg o.value (o.mask - o.w1c) s) s

/-- MANAGEMENT_ORDER: one cycle of the arbiter, in which the next orders of the masters `ms` arrive (bit 0 fabric manager, 1 host, 2 twin, 3 any other). Writes are applied in precedence order, then reads and replies see every write of the cycle; each box has the events of the cycle in ascending code order (R421). -/
def managementOrder (ms : BitVec 4) (s : State) : State :=
  let os := (cycleMasters ms s).filterMap fun m => (listOf m s).bind fun l => l.orders.head?.map fun o => (m, o)
  let cs := cycleStatus (fun m => longList m s) os [] false
  let ls := cs.filterMap fun c => (listOf c.1 s).map fun l => (l, c.2)
  let u := cycleWrites (ls.filterMap fun c => if c.2.2 = 0 ∧ !c.2.1.read then some c.2.1 else none) s
  ascendAll s (ls.foldl (fun s c => listTurn c.1 c.2.1 c.2.2 s) u)

end Sys2Proof.Machine
end

