-- ==== Sys2Proof/Machine/Settle.lean ====
section
/-! DEFINITION. What follows inside a command from what its units report (`Notice`): the dispatcher (R353, R371 to R374), the cut logic (R320 to R332) and the integrity logic (R347 to R357) act on it before the command ends. -/

namespace Sys2Proof.Machine

/-- What one report leads to. -/
def handle (n : Notice) (s : State) : State :=
  match n with
  | .stopped t => rankStopped t (lentStop t s)
  | .ended t code => rankEnded t code s
  | .sigh t code => programEvent t code s
  | .failed t cause => tileFail t cause s
  | .saved t => cutSaved t (possSaved t s)
  | .saveFailed t => cutSaveFailed t (possSaveFailed t s)
  | .restored t => cutRestored t (possRestored t s)
  | .shuntDone id code addr => shuntEnd id code addr s
  | .expressDone id status addr => expressEnd id status addr s
  | .collDone _ id code => collEnd id code s
  | .collReplay key => replayCmd key s
  | .vote a cid id => voteActed a cid id s
  | .portChange p old new => cutPort p old new s
  | n@(.lost _ _) => notice n s

/-- Every report so far, in the order it was made. -/
def handleAll (s : State) : State := s.notices.foldl (fun s n => handle n s) { s with notices := [] }

/-- What the cut, the mirrors and the integrity logic go on with of themselves. -/
def goOn (s : State) : State :=
  possForced 1 (possForced 0 (repeatWaiting (xpendGo (mirPump (drainPump (drainBegin (logClose (cutDead s))))))))

/-- A trace record was lost. -/
def Notice.isLost : Notice → Bool
  | .lost _ _ => true
  | _ => false

/-- The entries of lost trace records, which come last in box 201 (R421, R426). -/
def tellLost (s : State) : State :=
  { s.notices.foldl (fun s n => match n with
      | .lost d k => event boxHST 0x13 d k s
      | _ => s) s with notices := [] }

/-- Reports and what follows from them, until nothing is left to act on. -/
def settleN : Nat → State → State
  | 0, s => { s with notices := [] }
  | n + 1, s =>
    let s := goOn (handleAll s)
    if s.notices.isEmpty then s else if s.notices.all Notice.isLost then tellLost s else settleN n s

/-- Rounds that `settle` allows; every round acts on all reports of the one before. -/
def settleFuel : Nat := 1024

/-- A command that may have changed what the cut, the mirrors, or the integrity logic wait for ends. -/
def settleAll (s : State) : State := settleN settleFuel s

/-- A command whose units may have reported something ends. -/
def settle (s : State) : State := if s.notices.isEmpty then s else settleAll s

end Sys2Proof.Machine
end

