-- ==== Sys2Proof/Machine/Tick.lean ====
section
/-! DEFINITION. One cycle of the main clock: railway time (R312, R314), skipped cycles (R411, R413), what tiles issue and count by the cycle (R87, R99, R106, R114, R430), and the observation buckets (R426). -/

namespace Sys2Proof.Machine

/-- The main clock runs from stage 1 of boot on (R392). -/
def clockOn (s : State) : Bool := stage s != 0

/-! ### Railway time -/

/-- A nanosecond of slewing: one nanosecond of correction in 5,000 (R314). -/
def slewTick (s : State) : State :=
  if s.cut.slew = 0 then s
  else if s.cut.slewAcc + 1 < 5000 then modCut (fun c => { c with slewAcc := c.slewAcc + 1 }) s
  else
    let s := modCut (fun c => { c with slewAcc := 0, slew := if c.slew > 0 then c.slew - 1 else c.slew + 1 }) s
    s

/-- What the coming nanosecond adds to CUT_RTIME: 1, and where the slew falls due 1 more, or none. -/
def rtAdd (s : State) : Nat :=
  if s.cut.slewAcc + 1 < 5000 ∨ s.cut.slew = 0 then 1 else if s.cut.slew > 0 then 2 else 0

/-- A cycle is five ninths of a nanosecond (R5). -/
def rtTick (s : State) : State :=
  if s.rtFrac + 5 < 9 then { s with rtFrac := s.rtFrac + 5 }
  else slewTick (bump CUT_RTIME_rtime 0 (rtAdd s) { s with rtFrac := s.rtFrac + 5 - 9 })

/-! ### Tiles -/

/-- Whether tile `t` skips this cycle for its supply (R411). -/
def droopSkip (t : Nat) (s : State) : Bool := Map.get (fun _ => false) s.power.droop t && s.cycle % 2 == 1

/-- The throttle level of tile `t`: its die's, or 15 where its row could not be saved for the throttle (R413, R448). -/
def tileLevel (t : Nat) (s : State) : Nat := if s.power.at15.contains t then 15 else level (dieOfTile t) s

/-- Whether tile `t` skips this cycle (R405): for its supply, or at a position that its throttle level takes (R413). -/
def skips (t : Nat) (s : State) : Bool := droopSkip t s || decide (s.cycle % 16 ≥ 16 - tileLevel t s)

/-- Cycles of full ballast in an idle run (R412). -/
def ballastHold (t : Nat) (s : State) : Nat := min (rd TIL_LR_CONTROL_ballast_hold t s) (rd PWR_STATUS_hold_cap 0 s)

/-- Eighths of the lanes that perform ballast in the coming cycle of an idle run (R99): all for `hold` cycles from its first, and from then on one fewer after every 8 cycles. `run` cycles of the run are past, and `taper` since the fraction began to fall; a hold lowered meanwhile only begins the fall. -/
def ballastNow (hold run last taper : Nat) : Nat :=
  if run = 0 then (if hold = 0 then 7 else 8)
  else if last = 8 then (if run < hold then 8 else 7)
  else 7 - taper / 8

/-- Ballast in the coming cycle of the idle run of tile `t`: it never grows within a run. -/
def ballastLevel (t : Nat) (s : State) : Nat :=
  let l := lrow t s
  ballastNow (ballastHold t s) l.idleRun l.ballast (if l.idleRun = 0 then 0 else l.taper)

def setBallast (t n : Nat) (s : State) : State :=
  wr TIL_LR_STATUS_ballast_active t (if n = 0 then 0 else 1) (modLr t (fun l => { l with ballast := n }) s)

/-- A cycle without a step (R99); without ballast_en no run goes on. -/
def idleCycle (t : Nat) (s : State) : State :=
  if !on TIL_LR_CONTROL_ballast_en t s then
    (if (lrow t s).idleRun = 0 then s else setBallast t 0 (modLr t (fun l => { l with idleRun := 0 }) s))
  else
    let n := ballastLevel t s
    let s := setBallast t n s
    let s := if n = 0 then s else lrCount TIL_LR_BALLAST_CYCLES_count t 1 s
    modLr t (fun l => { l with idleRun := l.idleRun + 1, taper := if n = 8 then 0 else if l.idleRun = 0 then 1 else l.taper + 1 }) s

/-- BALLAST_TAPER (R99): the fraction of lanes falls to what the length of the idle run leaves. -/
def ballastTaper (t : Nat) (s : State) : State :=
  if (lrow t s).ballast = 0 then s else setBallast t (ballastLevel t s) s

/-- The head of the queue waits under R85 or R87. -/
def headWaits (t : Nat) (s : State) : Bool :=
  match (lrow t s).queue with
  | [] => false
  | c :: _ => match qHead t c s with
    | .wait _ => true
    | _ => false

/-- A cycle of tile `t`; a running core issues a long word of its program (R114). A tile asleep or waking has no cycle, and TIL_CS_CYCLE counts none (R405). -/
def tileTick (t : Nat) (s : State) : State :=
  if rd ITG_TILE_CTRL_state t s = 4 then s
  else if rd PWR_TILE_state t s ≠ 0 then modCore t (fun c => { c with cycle0 := c.cycle0 + 1 }) s
  else if skips t s then
    let s := modPower (fun p => { p with skips := Map.set (fun _ => 0) p.skips t (Map.get (fun _ => 0) p.skips t + 1) }) s
    if droopSkip t s then bump PWR_SKIP_CYCLES_count 0 1 s else s
  else
    let s := if (core t s).hold.isSome then modCore t (fun c => { c with heldCycles := c.heldCycles + 1 }) s else s
    let s := if headWaits t s then lrCount TIL_LR_INTERLOCK_CYCLES_count t 1 s else s
    coreCycle t (idleCycle t s)

/-! ### The cycle -/

/-- The bucket of die `d` gains 168 bytes, to 64 KiB at most (R426). -/
def refill (d : Nat) (s : State) : State :=
  { s with bucket := Map.set (fun _ => (0 : Int)) s.bucket d (max 0 (Map.get (fun _ => (0 : Int)) s.bucket d - 168)) }

/-- One cycle of the main clock: tiles and station-master cores first, then time and the buckets. -/
def tick (s : State) : State :=
  if !clockOn s then s else
  let s := (List.range 168).foldl (fun s t => tileTick t s) s
  let s := refill 1 (refill 0 (rtTick (smCycle s)))
  settle { s with cycle := s.cycle + 1 }

end Sys2Proof.Machine
end

