-- ==== Sys2Proof/Machine/Commands.lean ====
section
/-! DEFINITION. The parts of commands that join several units: an island is woken by what reaches it (R407), a held long word is tried again when what it waits for may have come, and a restore's end lets a held suspension begin (R449). -/

namespace Sys2Proof.Machine

/-- The end of a command. -/
abbrev Out : Type := Host.Outcome State Fault Refusal

/-! ### Slots of a tile core -/

/-- A scalar slot: 0, or 1 in the second of the two. -/
def scalarSlot (h : Hd) (op : SlotOp) (s : State) : State := settle (slot h.t.val (if h.b then 1 else 0) h.pg h.pn op s)
/-- Slot 0 (MFSR and MTSR, R109). -/
def firstSlot (h : Hd) (op : SlotOp) (s : State) : State := settle (slot h.t.val 0 h.pg h.pn op s)
/-- Slot 1 (the divisions, R119). -/
def secondSlot (h : Hd) (op : SlotOp) (s : State) : State := settle (slot h.t.val 1 h.pg h.pn op s)
/-- The branch slot. -/
def branchSlot (h : Hd) (op : SlotOp) (s : State) : State := settle (slot h.t.val 2 h.pg h.pn op s)
/-- An address slot: 3, or 4 in the second of the two. -/
def addressSlot (h : Hd) (op : SlotOp) (s : State) : State := settle (slot h.t.val (if h.b then 4 else 3) h.pg h.pn op s)
/-- The lane-row slot. -/
def laneSlot (h : Hd) (op : SlotOp) (s : State) : State := settle (slot h.t.val 5 h.pg h.pn op s)
/-- The vector slot. -/
def vectorSlot (h : Hd) (op : SlotOp) (s : State) : State := settle (slot h.t.val 6 h.pg h.pn op s)
/-- The move/shunt slot. -/
def moveSlot (h : Hd) (op : SlotOp) (s : State) : State := settle (slot h.t.val 7 h.pg h.pn op s)
/-- Any slot (NOP). -/
def anySlot (h : Hd) (k : Fin 8) (op : SlotOp) (s : State) : State := settle (slot h.t.val k.val h.pg h.pn op s)

/-! ### Events of tiles -/

/-- A signal from tile `src` reaches tile `t`: one that is enabled, and from a siding tile no tile outside the siding (R182; DEDUCED, log entry 78). -/
def sigTakes (src t : Nat) (s : State) : Bool := tileEnabled t s && (!on ITG_TILE_CTRL_siding src s || on ITG_TILE_CTRL_siding t s)

/-- SIG_DELIVERY: the signal wakes its tile. -/
def sigDelivery (k : Nat) (s : State) : State :=
  match s.signals[k]? with
  | some g => deliver k (sigTakes g.src) (if sigTakes g.src g.dst s then wakeTile g.dst s else s)
  | none => s

/-- The held long word is tried again if it holds an instruction that `p` selects. -/
def release (t : Nat) (p : SlotOp → Bool) (s : State) : State := if holds t p s then retry t s else s

def isWait (o : SlotOp) : Bool := match o with | .wait _ => true | _ => false
def isSync (o : SlotOp) : Bool := match o with | .lrsync => true | _ => false
def isFence (o : SlotOp) : Bool := match o with | .fence _ => true | _ => false

/-- DEFERRED_EXCEPTION (R135): it finds a core that issues, is held at issue, or is idle; behind a halt, a save or a restore it waits for the core to run again. -/
def deferredException (t : Nat) (s : State) : State := if coreState t s ≤ 2 then takeDefer t s else s

/-- SHADOW_LOAD_START (R76). -/
def loadStart (t : Nat) (s : State) : State :=
  match (lrow t s).load with
  | some q => modLr t (fun l => { l with load := some { q with busy := true } }) s
  | none => s

/-- SHADOW_LOAD_COMPLETE (R76): a load that has begun to write ends. -/
def loadEnd (t : Nat) (s : State) : State :=
  match (lrow t s).load with
  | some q => if q.busy then retryPlain t (loadDone t s) else s
  | none => s

/-- DRAIN_START (R91): a drain that stops as its scale is chosen ends the wait of a FENCE (R132). -/
def drainGo (t : Nat) (s : State) : State :=
  let u := drainStart t s
  if (List.range 2).any fun k => (stoppedDrain t k u).isSome && (stoppedDrain t k s).isNone then retryPlain t (fenceStop t u) else u

/-- DRAIN_COMPLETE (R91): every write of the active drain is accepted; a drain that must wait for a mirror waits (R331). -/
def drainComplete (t : Nat) (s : State) : State :=
  match (lrow t s).run with
  | some d => if !d.active || drainWaits t d s then s else
    (match drainWork t d s with
     | (none, s') => retryPlain t (drainDone t d s')
     | (some _, _) => s)
  | none => s

/-- DRAIN_STOP (R92): a write of the active drain is refused, or a record of it is unusable. -/
def drainStop (t : Nat) (s : State) : State :=
  match (lrow t s).run with
  | some d => if !d.active || drainWaits t d s then s else
    (match drainWork t d s with
     | (none, _) => s
     | (some (code, a), s') => retryPlain t (fenceStop t (stopDrain t code a s')))
  | none => s

/-- A conversion that waited for a history append proceeds (R72): the drain of a tile, an express unit's, or a collective's. -/
def historyGo (t : Nat) (s : State) : State :=
  (List.range 512).foldl (fun s k => collGo k s) ((List.range 28).foldl (fun s u => convertReady u s) (drainGo t s))

/-- LANE_ROW_RESTORE_COMPLETE (R97): a suspension held behind the restore is taken. -/
def rowRestored (t : Nat) (s : State) : State := ctlGo t (retryPlain t (takeHeld t (restoreDone t s).2))

/-- CONTEXT_SAVE_COMPLETE (R138). -/
def contextSaved (t : Nat) (s : State) : State := ctlGo t (saveDone t s)

/-- CONTEXT_RESTORE_COMPLETE (R140). -/
def contextRestored (t : Nat) (s : State) : State := ctlGo t (takeHeld t (restoreCoreDone t s))

/-- LR_QUEUE_DISPATCH (R78): the core's held word may find room now. -/
def queueDispatch (t : Nat) (s : State) : State := retryPlain t (dispatchQ t ((lrow t s).queue.length + 1) s)

/-- LOAD_RESPONSE (R117). -/
def loadResponse (t k : Nat) (s : State) : State := retryPlain t (accReturn t k s)

/-! ### Accesses -/

/-- An access wakes the island that holds its address (R407). -/
def reach (q : StReq) (s : State) : State :=
  match stReqAt q s with
  | some (a, _, _) => wakeAddr a s
  | none => s

/-- A write of a station-master core to the register range (R184), word by word; bits outside the bytes written are masked. PWR_CONTROL is written by management orders alone (R417, R379): a write of it is discarded (log entry 92). -/
def smRegWrite (a : Nat) (d : List Byte) (s : State) : State :=
  let o := a - 0x300000000000
  (List.range ((o + d.length + 7) / 8 - o / 8)).foldl (fun s k =>
    let w := 8 * (o / 8 + k)
    let at_ := fun (i : Nat) => decide (o ≤ w + i ∧ w + i < o + d.length)
    let v := (List.range 8).foldl (fun v i => if at_ i then v + (d.getD (w + i - o) 0#8).toNat * 2 ^ (8 * i) else v) 0
    let m := (List.range 8).foldl (fun m i => if at_ i then m + 255 * 2 ^ (8 * i) else m) 0
    if w = 0x200008 then s else regWriteM w v m s) s

/-- The access is an instruction of a station-master core. -/
def ofMaster : StReq → Bool
  | .smRead _ _ => true
  | .smWrite _ _ => true
  | .smAmo _ _ _ => true
  | _ => false

/-- The access of a station-master core retires with its record (R424). -/
def retired (q : StReq) (s : State) : State := if ofMaster q then smRetire s else s

/-- An access reaches its station, or, from a station-master core, a register. -/
def stationReach (q : StReq) (ups : List Upset) (retries : Nat) (exhausted : Bool) (s : State) : State :=
  retired q (match q with
  | .smWrite a d => if whereOf a s = .regs ∧ smMapped a d.length s then smRegWrite a d s else stationAccess q ups retries exhausted (reach q s)
  | _ => stationAccess q ups retries exhausted (reach q s))

/-- A SHUNT command wakes the half of the engine that holds its channel. -/
def shuntCommand (q : CmdSel) (s : State) : State :=
  startShunt wakeShunt q s

/-! ### The PCIe function (R363, R364) -/

/-- The Link Status register (R363): the rate in [3:0], 1 for 2.5 GT/s to 6 for 64 GT/s, and the width in [9:4] (PRESUMED, PCI Express; log entry 72). -/
def linkStatus (s : State) : Nat := s.boot.rate + 1 + (if s.boot.x8 then 8 else 16) * 16

/-- A register of the configuration space, as R363 gives it: 32 bits. -/
def pcieConfig (r : CfgReg) (s : State) : Nat :=
  match r with
  | .ident => 0x1F74 + 0x0009 * 2 ^ 16
  | .cls => 0xB0 + 0x120000 * 2 ^ 8
  | .linkStatus => linkStatus s

/-- A read of the configuration space, which answers while the link is up (R392). -/
def bar2Config (r : CfgReg) (s : State) : State :=
  bar2Answer (if s.boot.pcie then some (leBytes (pcieConfig r s) 4, false) else none) s

/-- BAR2 is given its size, 64 GiB doubled `k` times (R363). -/
def bar2Resize (k : Nat) (s : State) : State := if s.boot.pcie then { s with bar2Size := 2 ^ (36 + k) } else s

/-- The host sets bus mastering on or off. -/
def bar2Master (b : Bool) (s : State) : State := if s.boot.pcie then modBoot (fun x => { x with masterOff := !b }) s else s

/-- The width and rate at which the link runs (R363). -/
def bar2Link (x8 : Bool) (rate : Nat) (s : State) : State := modBoot (fun b => { b with x8 := x8, rate := rate }) s

/-- BAR2_ACCESS: an access that crosses the window ends in a fault, for the host must not issue one. -/
def bar2Access (q : Bar2) (s : State) : Out :=
  match q with
  | .read o n => if o + n > s.bar2Size then .fault .bar2WindowCrossed else .next (settleAll (bar2Read o n s))
  | .write o d poison => if o + d.length > s.bar2Size then .fault .bar2WindowCrossed else .next (settleAll (bar2Write o d poison s))
  | .config r => .next (bar2Config r s)
  | .resize k => .next (bar2Resize k.val s)
  | .busMaster b => .next (bar2Master b s)
  | .perst b => .next (perstWrite b s)
  | .link x8 rate => .next (bar2Link x8 rate.val s)

end Sys2Proof.Machine
end

