-- ==== Sys2Proof/Machine/ExecAddress.lean ====
section
/-! DEFINITION. Commands: the address slots (R117, R124, R125). -/

namespace Sys2Proof.Machine

/-- LDB (R125). -/
def execLdb (h : Hd) (f : FAM) (s : State) : Out := .next (addressSlot h (.ld .ldb f) s)
/-- LDBU (R125). -/
def execLdbu (h : Hd) (f : FAM) (s : State) : Out := .next (addressSlot h (.ld .ldbu f) s)
/-- LDH (R125). -/
def execLdh (h : Hd) (f : FAM) (s : State) : Out := .next (addressSlot h (.ld .ldh f) s)
/-- LDHU (R125). -/
def execLdhu (h : Hd) (f : FAM) (s : State) : Out := .next (addressSlot h (.ld .ldhu f) s)
/-- LDW (R125). -/
def execLdw (h : Hd) (f : FAM) (s : State) : Out := .next (addressSlot h (.ld .ldw f) s)
/-- LDWU (R125). -/
def execLdwu (h : Hd) (f : FAM) (s : State) : Out := .next (addressSlot h (.ld .ldwu f) s)
/-- LDD (R125). -/
def execLdd (h : Hd) (f : FAM) (s : State) : Out := .next (addressSlot h (.ld .ldd f) s)
/-- STB (R125). -/
def execStb (h : Hd) (f : FAM) (s : State) : Out := .next (addressSlot h (.st .stb f) s)
/-- STH (R125). -/
def execSth (h : Hd) (f : FAM) (s : State) : Out := .next (addressSlot h (.st .sth f) s)
/-- STW (R125). -/
def execStw (h : Hd) (f : FAM) (s : State) : Out := .next (addressSlot h (.st .stw f) s)
/-- STD (R125). -/
def execStd (h : Hd) (f : FAM) (s : State) : Out := .next (addressSlot h (.st .std f) s)
/-- VLD (R125). -/
def execVld (h : Hd) (f : FAM) (s : State) : Out := .next (addressSlot h (.vld f) s)
/-- VST (R125). -/
def execVst (h : Hd) (f : FAM) (s : State) : Out := .next (addressSlot h (.vst f) s)
/-- WLD (R125). -/
def execWld (h : Hd) (f : FAM) (s : State) : Out := .next (addressSlot h (.wld f) s)
/-- WST (R125). -/
def execWst (h : Hd) (f : FAM) (s : State) : Out := .next (addressSlot h (.wst f) s)
/-- AMOADD (R125). -/
def execAmoadd (h : Hd) (sd : BitVec 5) (aa : BitVec 4) (sx : BitVec 5) (s : State) : Out := .next (addressSlot h (.amo .add sd aa sx) s)
/-- AMOSWAP (R125). -/
def execAmoswap (h : Hd) (sd : BitVec 5) (aa : BitVec 4) (sx : BitVec 5) (s : State) : Out := .next (addressSlot h (.amo .swap sd aa sx) s)
/-- AMOMAXU (R125). -/
def execAmomaxu (h : Hd) (sd : BitVec 5) (aa : BitVec 4) (sx : BitVec 5) (s : State) : Out := .next (addressSlot h (.amo .maxu sd aa sx) s)
/-- AADDI (R125). -/
def execAaddi (h : Hd) (ad aa : BitVec 4) (imm : BitVec 38) (s : State) : Out := .next (addressSlot h (.aaddi ad aa imm) s)
/-- AADD (R125). -/
def execAadd (h : Hd) (ad aa : BitVec 4) (sx : BitVec 5) (s : State) : Out := .next (addressSlot h (.aadd ad aa sx) s)
/-- AMOVS (R125). -/
def execAmovs (h : Hd) (ad : BitVec 4) (sx : BitVec 5) (s : State) : Out := .next (addressSlot h (.amovs ad sx) s)
/-- SMOVA (R125). -/
def execSmova (h : Hd) (sd : BitVec 5) (aa : BitVec 4) (s : State) : Out := .next (addressSlot h (.smova sd aa) s)
/-- LOAD_RESPONSE (R117). -/
def execLoadResponse (t : TileN) (k : Nat) (s : State) : Out := .next (settle (loadResponse t.val k s))

end Sys2Proof.Machine
end

