-- ==== Sys2Proof/Machine/ExecBootSteps.lean ====
section
/-! DEFINITION. Commands: boot and recovery (R387 to R396). -/

namespace Sys2Proof.Machine

/-- BOOT_START (R392). -/
def execBootStart (s : State) : Out := .next (bootStart s)
/-- PCIE_LINK_UP (R392). -/
def execPcieLinkUp (s : State) : Out := .next (pcieUp s)
/-- BOOT_IMAGE_READ_DONE (R387). -/
def execBootImageReadDone (err : Bool) (s : State) : Out := .next (imageRead err s)
/-- BOOT_TILE_TEST_DONE (R393). -/
def execBootTileTestDone (bad : List TileN) (cal : List (TileN × BitVec 5 × Byte)) (s : State) : Out := .next (bootTested bad cal s)
/-- BOOT_TRAINING_DONE (R392). -/
def execBootTrainingDone (x : Trained) (s : State) : Out := .next (settle (trainingDone x s))
/-- RECOVERY_GO (R396). -/
def execRecoveryGo (d : List Byte) (s : State) : Out := .next (recoveryGo d s)
/-- RECOVERY_DONE (R396). -/
def execRecoveryDone (s : State) : Out := .next (recoveryDone s)
/-- FIRMWARE_START_TIMEOUT (R396). -/
def execFirmwareStartTimeout (s : State) : Out := .next (firmwareTimeout s)

end Sys2Proof.Machine
end

