-- ==== Sys2Proof/Machine/ExecBoxes.lean ====
section
/-! DEFINITION. Commands: signal boxes and trace (R423, R434). -/

namespace Sys2Proof.Machine

/-- FREEZE_ALL (R423). -/
def execFreezeAll (s : State) : Out := .next (answering freezeAll s)
/-- THAW_ALL (R423). -/
def execThawAll (s : State) : Out := .next (answering thawAll s)
/-- BOX_FREEZE_WRITE (R423). -/
def execBoxFreezeWrite (n : Fin 224) (v : Bool) (s : State) : Out := .next (answering (boxFreeze n.val v) s)
/-- TRACE_ENABLE (R434). -/
def execTraceEnable (d : Fin 2) (v : Bool) (s : State) : Out := .next (answering (traceEnable d.val v) s)

end Sys2Proof.Machine
end

