-- ==== Sys2Proof/Machine/ExecBranch.lean ====
section
/-! DEFINITION. Commands: the branch slot (R121 to R123, R133). -/

namespace Sys2Proof.Machine

/-- JMP (R121). -/
def execJmp (h : Hd) (target : BitVec 16) (s : State) : Out := .next (branchSlot h (.jmp target) s)
/-- CALL (R121). -/
def execCall (h : Hd) (target : BitVec 16) (sd : BitVec 5) (s : State) : Out := .next (branchSlot h (.call target sd) s)
/-- JMPR (R121). -/
def execJmpr (h : Hd) (sa : BitVec 5) (s : State) : Out := .next (branchSlot h (.jmpr sa) s)
/-- LOOP (R122). -/
def execLoop (h : Hd) (fin : BitVec 16) (sa : BitVec 5) (s : State) : Out := .next (branchSlot h (.loop fin sa) s)
/-- LOOPI (R122). -/
def execLoopi (h : Hd) (fin : BitVec 16) (count : BitVec 19) (s : State) : Out := .next (branchSlot h (.loopi fin count) s)
/-- LPOP (R122). -/
def execLpop (h : Hd) (s : State) : Out := .next (branchSlot h .lpop s)
/-- WAIT (R133). -/
def execWait (h : Hd) (sa : BitVec 5) (s : State) : Out := .next (branchSlot h (.wait sa) s)
/-- EVCLR (R133). -/
def execEvclr (h : Hd) (sa : BitVec 5) (s : State) : Out := .next (branchSlot h (.evclr sa) s)
/-- END (R123). -/
def execEndProgram (h : Hd) (code : BitVec 16) (s : State) : Out := .next (branchSlot h (.fin code) s)
/-- BRK (R121). -/
def execBrk (h : Hd) (code : BitVec 16) (s : State) : Out := .next (branchSlot h (.brk code) s)

end Sys2Proof.Machine
end

