-- ==== Sys2Proof/Machine/ExecChecks.lean ====
section
/-! DEFINITION. Commands: sampled checks, possessions and spares (R343 to R361). -/

namespace Sys2Proof.Machine

/-- CHECK_SLOT_FILLED (R343). -/
def execCheckSlotFilled (k : Fin 16) (s : State) : Out := .next (settleAll (fillSlot k.val s))
/-- CHECK_START (R344). -/
def execCheckStart (k : Fin 16) (s : State) : Out := .next (settleAll (checkStart k.val s))
/-- CHECK_COMPARE (R345). -/
def execCheckCompare (k : Fin 16) (flips : List (Fin 2048 × L576)) (s : State) : Out := .next (settleAll (checkCompare k.val (flips.map fun e => (e.1.val, e.2)) s))
/-- CHECK_SLOT_TIMEOUT (R344). -/
def execCheckSlotTimeout (k : Fin 16) (s : State) : Out := .next (settleAll (checkTimeout k.val s))
/-- POSSESSION_TIMER (R347). -/
def execPossessionTimer (d : Fin 2) (s : State) : Out := .next (settleAll (possTimer d.val s))
/-- POSSESSION_START (R348). -/
def execPossessionStart (d : Fin 2) (s : State) : Out := .next (settleAll (possStart d.val s))
/-- POSSESSION_TEST_END (R348). -/
def execPossessionTestEnd (d : Fin 2) (pass : Bool) (stage : Byte) (trim : BitVec 5) (droop : Byte) (s : State) : Out := .next (settleAll (possTestEnd d.val pass stage.toNat trim.toNat droop.toNat s))
/-- POSSESSION_RETURN (R348). -/
def execPossessionReturn (d : Fin 2) (s : State) : Out := .next (settleAll (possReturn d.val s))
/-- ITG_POSS_REQ (R349). -/
def execItgPossReq (t : Byte) (force calOnly : Bool) (s : State) : Out := .next (settleAll (answering (possRequest t.toNat force calOnly) s))
/-- TILE_FAIL (R352). -/
def execTileFail (t : TileN) (s : State) : Out := .next (settleAll (answering (tileFail t.val 4) s))
/-- TILE_STOP_TIMEOUT (R352). -/
def execTileStopTimeout (t : TileN) (s : State) : Out := .next (settleAll (tileStopTimeout t.val s))
/-- REPLAY_DONE (R361). -/
def execReplayDone (s : State) : Out := .next (answering replayDone s)

end Sys2Proof.Machine
end

