-- ==== Sys2Proof/Machine/ExecCollective.lean ====
section
/-! DEFINITION. Commands: collectives (R288 to R307). -/

namespace Sys2Proof.Machine

/-- COLL (R288). -/
def execColl (q : CmdSel) (s : State) : Out := .next (settleAll (startColl q s))
/-- COLLECTIVE_ZEROING_END (R288). -/
def execCollectiveZeroingEnd (k : Fin 512) (s : State) : Out := .next (settleAll (zeroingEnd k.val s))
/-- CONTRIBUTION_SEND (R292). -/
def execContributionSend (k : Fin 512) (s : State) : Out := .next (settleAll (if s.cut.restored then s else contributionSend k.val s))
/-- REPORT_RECEIVE (R299). -/
def execReportReceive (k : Fin 512) (s : State) : Out := .next (settleAll (if s.cut.restored then s else reportReceive k.val s))
/-- REPLAY_COMMAND_COMPLETE (R300). -/
def execReplayCommandComplete (k : Fin 512) (s : State) : Out := .next (settleAll (if s.cut.restored then s else replayComplete k.val s))
/-- HOLD_EXPIRY (R302). -/
def execHoldExpiry (s : State) : Out := .next (holdExpiry s)
/-- COLLECTIVE_TIMEOUT (R303). -/
def execCollectiveTimeout (k : Fin 512) (s : State) : Out := .next (settleAll (collTimeout k.val s))
/-- LIST_TICKET_DONE (R307). -/
def execListTicketDone (k : Fin 512) (s : State) : Out := .next (settleAll (if s.cut.restored then s else listTicketDone k.val s))

end Sys2Proof.Machine
end

