-- ==== Sys2Proof/Machine/ExecControl.lean ====
section
/-! DEFINITION. Commands: signals, releases and core control (R123, R131 to R143). -/

namespace Sys2Proof.Machine

/-- SIG_DELIVERY (R131). -/
def execSigDelivery (k : Nat) (s : State) : Out := .next (sigDelivery k s)
/-- WAIT_RELEASE (R133). -/
def execWaitRelease (t : TileN) (s : State) : Out := .next (settle (release t.val isWait s))
/-- LRSYNC_RELEASE (R126). -/
def execLrsyncRelease (t : TileN) (s : State) : Out := .next (settle (release t.val isSync s))
/-- FENCE_RELEASE (R132). -/
def execFenceRelease (t : TileN) (s : State) : Out := .next (settle (release t.val isFence s))
/-- END_COMPLETE (R123). -/
def execEndComplete (t : TileN) (s : State) : Out := .next (settle (endComplete t.val s))
/-- DEFERRED_EXCEPTION (R135). -/
def execDeferredException (t : TileN) (s : State) : Out := .next (settle (deferredException t.val s))
/-- CORE_RUN (R143). -/
def execCoreRun (t : TileN) (s : State) : Out := .next (settle (answering (fun s => ctlTake t.val (afterLock (coreRun t.val)) (wakeTile t.val s)) s))
/-- CORE_HALT (R143). -/
def execCoreHalt (t : TileN) (s : State) : Out := .next (settle (answering (fun s => ctlTake t.val (coreHalt t.val) (wakeTile t.val s)) s))
/-- CORE_SAVE (R138). -/
def execCoreSave (t : TileN) (s : State) : Out := .next (settle (answering (fun s => ctlTake t.val (coreSave t.val) (wakeTile t.val s)) s))
/-- CORE_RESTORE (R140). -/
def execCoreRestore (t : TileN) (s : State) : Out := .next (settle (answering (fun s => ctlTake t.val (coreRestore t.val) (wakeTile t.val s)) s))
/-- CORE_STEP (R143). -/
def execCoreStep (t : TileN) (s : State) : Out := .next (settle (answering (fun s => ctlTake t.val (afterLock (coreStep t.val)) (wakeTile t.val s)) s))
/-- CONTEXT_SAVE_COMPLETE (R138). -/
def execContextSaveComplete (t : TileN) (s : State) : Out := .next (settleAll (contextSaved t.val s))
/-- CONTEXT_RESTORE_COMPLETE (R140). -/
def execContextRestoreComplete (t : TileN) (s : State) : Out := .next (settleAll (contextRestored t.val s))

end Sys2Proof.Machine
end

