-- ==== Sys2Proof/Machine/ExecCutLogic.lean ====
section
/-! DEFINITION. Commands: railway time, cuts, snapshots and mirrors (R312 to R336). -/

namespace Sys2Proof.Machine

/-- RTIME_WRITE (R312). -/
def execRtimeWrite (v : U64) (s : State) : Out := .next (answering (rtimeWrite v.toNat) s)
/-- TIME_EXCHANGE_TIMER (R313). -/
def execTimeExchangeTimer (s : State) : Out := .next (settleAll (timeTimer s))
/-- DISCIPLINE_TIMEOUT (R315). -/
def execDisciplineTimeout (s : State) : Out := .next (disciplineTimeout s)
/-- CUT_ORDER (R316). -/
def execCutOrder (id : BitVec 16) (s : State) : Out := .next (settleAll (answering (cutOrder id.toNat) s))
/-- CUT_POINT (R320). -/
def execCutPoint (s : State) : Out := .next (settleAll (cutPoint s))
/-- TAIL_ORDER_TIMEOUT (R318). -/
def execTailOrderTimeout (p : PortN) (s : State) : Out := .next (settleAll (tailOrderTimeout p.val s))
/-- LOG_TIMEOUT (R325). -/
def execLogTimeout (s : State) : Out := .next (settleAll (logTimeout s))
/-- SNAPSHOT_PART_CONFIRM (R327). -/
def execSnapshotPartConfirm (k : Fin 179) (ok : Bool) (s : State) : Out := .next (settleAll (partConfirm k.val ok s))
/-- CUT_ABANDON (R329). -/
def execCutAbandon (s : State) : Out := .next (settleAll (answering cutAbandon s))
/-- CUT_RESTORE (R336). -/
def execCutRestore (s : State) : Out := .next (settleAll (answering cutRestore s))
/-- RESUME_TIME_REACHED (R336). -/
def execResumeTimeReached (s : State) : Out := .next (settleAll (resumeTime s))
/-- MIRACK_TIMEOUT (R332). -/
def execMirackTimeout (k : BitVec 12) (s : State) : Out := .next (settleAll (mirTimeout k.toNat s))
/-- RESYNC (R332). -/
def execResync (s : State) : Out := .next (settleAll (answering resync s))

end Sys2Proof.Machine
end

