-- ==== Sys2Proof/Machine/ExecExpressPath.lean ====
section
/-! DEFINITION. Commands: the express path (R168, R180). -/

namespace Sys2Proof.Machine

/-- EXPRESS_SLAB_START (R180). -/
def execExpressSlabStart (u : StationN) (s : State) : Out := .next (settle (slabStart u.val s))
/-- EXPRESS_CHUNK_READ (R168). -/
def execExpressChunkRead (u : StationN) (s : State) : Out := .next (settle (chunkRead u.val s))
/-- EXPRESS_PARTIAL_ARRIVAL (R168). -/
def execExpressPartialArrival (k : Nat) (s : State) : Out := .next (settle (partialArrive k s))

end Sys2Proof.Machine
end

