-- ==== Sys2Proof/Machine/ExecFabric.lean ====
section
/-! DEFINITION. Commands: packets and the router (R264 to R293, R313, R318, R331, R378, R450). -/

namespace Sys2Proof.Machine

/-- PACKET_RECEIVE (R264). -/
def execPacketReceive (p : PortN) (s : State) : Out := .next (settleAll (packetReceive p.val s))
/-- PACKET_ROUTE (R270). -/
def execPacketRoute (q : Fin 17) (v : Fin 6) (s : State) : Out := .next (settleAll (packetRoute q.val v.val s))
/-- ESCAPE_WAIT_EXPIRY (R270). -/
def execEscapeWaitExpiry (q : Fin 17) (v : Fin 6) (s : State) : Out := .next (escapeExpiry q.val v.val s)
/-- WR (R265). -/
def execWr (s : State) : Out := .next (settleAll (wrPacket s))
/-- RD (R265). -/
def execRd (s : State) : Out := .next (settleAll (rdPacket s))
/-- AMOADD_PACKET (R265). -/
def execAmoaddPacket (s : State) : Out := .next (settleAll (amoPacket 0x20 .add s))
/-- AMOSWAP_PACKET (R265). -/
def execAmoswapPacket (s : State) : Out := .next (settleAll (amoPacket 0x21 .swap s))
/-- AMOMAXU_PACKET (R265). -/
def execAmomaxuPacket (s : State) : Out := .next (settleAll (amoPacket 0x22 .maxu s))
/-- ACC (R293). -/
def execAcc (s : State) : Out := .next (settleAll (accPacket 0x30 s))
/-- ACCW (R291). -/
def execAccw (s : State) : Out := .next (settleAll (accPacket 0x31 s))
/-- MIR (R331). -/
def execMir (s : State) : Out := .next (settleAll (mirPacket s))
/-- MGT_PACKET (R378). -/
def execMgtPacket (s : State) : Out := .next (mgtPacket s)
/-- MAPREQ (R281). -/
def execMapreq (s : State) : Out := .next (settleAll (mapReq s))
/-- ECHO (R279). -/
def execEcho (s : State) : Out := .next (settleAll (echoPacket s))
/-- TAIL (R318). -/
def execTail (p : PortN) (s : State) : Out := .next (settleAll (tailPacket p.val s))
/-- TIME (R313). -/
def execTime (p : PortN) (s : State) : Out := .next (settleAll (timePacket p.val s))
/-- WRACK (R265). -/
def execWrack (s : State) : Out := .next (settleAll (wrackPacket s))
/-- RDATA (R265). -/
def execRdata (s : State) : Out := .next (settleAll (rdataPacket s))
/-- MIRACK (R332). -/
def execMirack (s : State) : Out := .next (settleAll (mirackPacket s))
/-- MGTACK (R378). -/
def execMgtack (s : State) : Out := .next (settleAll (mgtackPacket s))
/-- TAG_RELEASE_TIMER (R450). -/
def execTagReleaseTimer (k : BitVec 12) (s : State) : Out := .next (settleAll (tagRelease k.toNat s))
/-- RATE_RECOVERY (R279). -/
def execRateRecovery (d : BitVec 18) (s : State) : Out := .next (rateRecovery d.toNat s)
/-- CONGESTION_SAMPLE (R280). -/
def execCongestionSample (s : State) : Out := .next (congestion s)
/-- MAP_LATCH (R283). -/
def execMapLatch (clear : Bool) (s : State) : Out := .next (answering (mapLatch clear) s)
/-- STAMP_WRITE (R275). -/
def execStampWrite (v : Fin 2) (s : State) : Out := .next (answering (stampWrite v.val) s)
/-- TIMETABLE_WRITE (R275). -/
def execTimetableWrite (d : Fin 2) (e : Option (Fin 64)) (v m : U64) (s : State) : Out := .next (answering (timetableWrite d.val (e.map (·.val)) v.toNat m.toNat) s)

end Sys2Proof.Machine
end

