-- ==== Sys2Proof/Machine/ExecHostLink.lean ====
section
/-! DEFINITION. Commands: rings, commands, orders and resets (R158 to R171, R218, R288, R364 to R384, R399, R401). -/

namespace Sys2Proof.Machine

/-- RING_TAIL_WRITE (R366). -/
def execRingTailWrite (k : RingN) (v : BitVec 16) (s : State) : Out := .next (ringTail k.val v.toNat s)
/-- COMMAND_FETCH (R366). -/
def execCommandFetch (k : RingN) (entry : BitVec 1024) (s : State) : Out := .next (settleAll (commandFetch k.val (leBytes entry.toNat 128) s))
/-- RUN (R369). -/
def execRun (q : CmdSel) (s : State) : Out := .next (settleAll (startRun q s))
/-- XVLOAD (R170). -/
def execXvload (q : CmdSel) (s : State) : Out := .next (settleAll (startXvload q s))
/-- XMV (R171). -/
def execXmv (q : CmdSel) (s : State) : Out := .next (settleAll (startXmv q s))
/-- ATTN (R158). -/
def execAttn (q : CmdSel) (s : State) : Out := .next (settleAll (startAttn q s))
/-- OPTSTEP (R372). -/
def execOptstep (q : CmdSel) (s : State) : Out := .next (settleAll (startOpt q s))
/-- SHUNT (R368). -/
def execShunt (q : CmdSel) (s : State) : Out := .next (settleAll (shuntCommand q s))
/-- MGT (R378). -/
def execMgt (q : CmdSel) (s : State) : Out := .next (settleAll (startMgt q s))
/-- MGT_TIMEOUT (R378). -/
def execMgtTimeout (k : BitVec 12) (s : State) : Out := .next (settleAll (mgtTimeout k.toNat s))
/-- RELEASE (R371). -/
def execRelease (q : CmdSel) (s : State) : Out := .next (settleAll (startRelease q s))
/-- ATTACH_UPDATE (R401). -/
def execAttachUpdate (k : RingN) (s : State) : Out := .next (settleAll (attachUpdate k.val s))
/-- ATTACH_UPDATE_WRITE_DONE (R401). -/
def execAttachUpdateWriteDone (back : Option (List Byte)) (s : State) : Out := .next (settleAll (attachWritten back s))
/-- ATTACH_ATTEST (R399). -/
def execAttachAttest (k : RingN) (s : State) : Out := .next (settleAll (attachAttest k.val s))
/-- MANAGEMENT_ORDER (R380). -/
def execManagementOrder (ms : BitVec 4) (s : State) : Out := .next (settleAll (managementOrder ms s))
/-- CQ_HEAD_WRITE (R374). -/
def execCqHeadWrite (k : RingN) (v : BitVec 16) (s : State) : Out := .next (cqHeadWrite k.val v.toNat s)
/-- RING_ENABLE (R384). -/
def execRingEnable (k : RingN) (v : Bool) (s : State) : Out := .next (ringEnable k.val v s)
/-- RING_RESET (R381). -/
def execRingReset (k : RingN) (s : State) : Out := .next (settleAll (ringReset k.val s))
/-- IDLE_RESET (R381). -/
def execIdleReset (s : State) : Out := .next (settleAll (idleReset s))
/-- FUNCTION_RESET (R381). -/
def execFunctionReset (down : Bool) (s : State) : Out := .next (settleAll (functionReset down s))
/-- BOARD_RESET (R381). -/
def execBoardReset (s : State) : Out := .next (boardReset s)
/-- BAR2_ACCESS (R364). -/
def execBar2Access (q : Bar2) (s : State) : Out := bar2Access q s

end Sys2Proof.Machine
end

