-- ==== Sys2Proof/Machine/ExecLane.lean ====
section
/-! DEFINITION. Commands: the lane-row slot (R126, R127) and the events of the lane row. -/

namespace Sys2Proof.Machine

/-- LRNOP (R126). -/
def execLrnop (h : Hd) (s : State) : Out := .next (laneSlot h .lrnop s)
/-- LRSTEP (R127). -/
def execLrstep (h : Hd) (f : FStep) (s : State) : Out := .next (laneSlot h (.lrstep f) s)
/-- LRLOAD (R126). -/
def execLrload (h : Hd) (f : FLoad) (s : State) : Out := .next (laneSlot h (.lrload f) s)
/-- LRPREP (R126). -/
def execLrprep (h : Hd) (sa : BitVec 5) (s : State) : Out := .next (laneSlot h (.lrprep sa) s)
/-- LRDCFG (R126). -/
def execLrdcfg (h : Hd) (aa : BitVec 4) (s : State) : Out := .next (laneSlot h (.lrdcfg aa) s)
/-- LRCLOSE (R126). -/
def execLrclose (h : Hd) (park : Bool) (s : State) : Out := .next (laneSlot h (.lrclose park) s)
/-- LRDRAIN (R126). -/
def execLrdrain (h : Hd) (set : Bool) (s : State) : Out := .next (laneSlot h (.lrdrain set) s)
/-- LRSUSP (R126). -/
def execLrsusp (h : Hd) (aa : BitVec 4) (s : State) : Out := .next (laneSlot h (.lrsusp aa) s)
/-- LRREST (R126). -/
def execLrrest (h : Hd) (aa : BitVec 4) (s : State) : Out := .next (laneSlot h (.lrrest aa) s)
/-- LRSYNC (R126). -/
def execLrsync (h : Hd) (s : State) : Out := .next (laneSlot h .lrsync s)
/-- LR_QUEUE_DISPATCH (R78). -/
def execLrQueueDispatch (t : TileN) (s : State) : Out := .next (settle (queueDispatch t.val s))
/-- SHADOW_LOAD_START (R76). -/
def execShadowLoadStart (t : TileN) (s : State) : Out := .next (loadStart t.val s)
/-- SHADOW_LOAD_COMPLETE (R76). -/
def execShadowLoadComplete (t : TileN) (s : State) : Out := .next (settle (loadEnd t.val s))
/-- DRAIN_START (R91). -/
def execDrainStart (t : TileN) (s : State) : Out := .next (settle (drainGo t.val s))
/-- HISTORY_APPEND_WAIT_END (R72). -/
def execHistoryAppendWaitEnd (t : TileN) (s : State) : Out := .next (settle (historyGo t.val s))
/-- DRAIN_COMPLETE (R91). -/
def execDrainComplete (t : TileN) (s : State) : Out := .next (settle (drainComplete t.val s))
/-- DRAIN_STOP (R92). -/
def execDrainStop (t : TileN) (s : State) : Out := .next (settle (drainStop t.val s))
/-- TIL_LR_SUSPEND_SUSPEND (R95). -/
def execTilLrSuspendSuspend (t : TileN) (s : State) : Out := .next (settle (answering (lrSuspendWrite t.val) s))
/-- SUSPEND_RECORD_WRITTEN (R95). -/
def execSuspendRecordWritten (t : TileN) (s : State) : Out := .next (settle (suspendDone t.val s))
/-- TIL_LR_SUSPEND_RESTORE (R97). -/
def execTilLrSuspendRestore (t : TileN) (s : State) : Out := .next (settle (answering (lrRestoreWrite t.val) s))
/-- LANE_ROW_RESTORE_COMPLETE (R97). -/
def execLaneRowRestoreComplete (t : TileN) (s : State) : Out := .next (settle (rowRestored t.val s))
/-- BALLAST_TAPER (R99). -/
def execBallastTaper (t : TileN) (s : State) : Out := .next (ballastTaper t.val s)

end Sys2Proof.Machine
end

