-- ==== Sys2Proof/Machine/ExecLink.lean ====
section
/-! DEFINITION. Commands: the Ulusen ports (R241 to R257, R436). -/

namespace Sys2Proof.Machine

/-- PORT_ENABLE (R249). -/
def execPortEnable (p : PortN) (v : Bool) (s : State) : Out := .next (settleAll (answering (portEnable p.val v) s))
/-- PORT_RETRAIN (R257). -/
def execPortRetrain (p : PortN) (s : State) : Out := .next (answering (portRetrain p.val) s)
/-- CABLE_PRESENCE (R436). -/
def execCablePresence (p : PortN) (here : Bool) (s : State) : Out := .next (settleAll (cablePresence p.val here s))
/-- CABLE_IDENTITY_READ (R247). -/
def execCableIdentityRead (p : PortN) (d : List Byte) (s : State) : Out := .next (settleAll (cableRead p.val d s))
/-- LANE_TRAINED (R249). -/
def execLaneTrained (p : PortN) (good : BitVec 16) (nums : List (Fin 16)) (s : State) : Out := .next (settleAll (laneTrained p.val good.toNat (nums.map (·.val)) s))
/-- ALIGN_LOCK (R249). -/
def execAlignLock (p : PortN) (s : State) : Out := .next (settleAll (alignLock p.val s))
/-- VERIFY_REPORT (R250). -/
def execVerifyReport (p : PortN) (coord : BitVec 18) (role : BitVec 4) (letter : Bool) (good : BitVec 16) (degrade : Bool) (s : State) : Out := .next (settleAll (verifyReport p.val coord.toNat role.toNat letter good.toNat degrade s))
/-- PING_TIMER (R251). -/
def execPingTimer (p : PortN) (s : State) : Out := .next (pingTimer p.val s)
/-- TRAINING_TIMEOUT (R249). -/
def execTrainingTimeout (p : PortN) (s : State) : Out := .next (settleAll (trainingTimeout p.val s))
/-- CODEWORD_DECODE (R246). -/
def execCodewordDecode (p : PortN) (start : Bool) (syms : List (BitVec 10)) (s : State) : Out := .next (settleAll (codeword p.val start (syms.map (·.toNat)) s))
/-- FRAME_CELL (R243). -/
def execFrameCell (p : PortN) (s : State) : Out := .next (settleAll (frameCell p.val s))
/-- FLOW (R244). -/
def execFlow (p : PortN) (s : State) : Out := .next (settleAll (flowCell p.val s))
/-- MARK (R254). -/
def execMark (p : PortN) (s : State) : Out := .next (settleAll (markCell p.val s))
/-- PING (R251). -/
def execPing (p : PortN) (s : State) : Out := .next (pingCell p.val s)
/-- ECHO_CELL (R251). -/
def execEchoCell (p : PortN) (s : State) : Out := .next (settleAll (echoCell p.val s))
/-- TUNE (R252). -/
def execTune (p : PortN) (s : State) : Out := .next (tuneCell p.val s)
/-- TUNE_DONE (R244). -/
def execTuneDone (p : PortN) (s : State) : Out := .next (tuneDone p.val s)
/-- TUNE_INTERVAL (R252). -/
def execTuneInterval (p : PortN) (lane : Fin 16) (tap : Fin 5) (action : BitVec 2) (s : State) : Out := .next (tuneInterval p.val lane.val tap.val action.toNat s)
/-- NAP (R256). -/
def execNap (p : PortN) (s : State) : Out := .next (settleAll (napCell p.val s))
/-- NAP_ACK (R256). -/
def execNapAck (p : PortN) (s : State) : Out := .next (settleAll (napAck p.val s))
/-- NAP_IDLE_EXPIRY (R256). -/
def execNapIdleExpiry (p : PortN) (s : State) : Out := .next (napIdle p.val s)
/-- PORT_WAKE (R256). -/
def execPortWake (p : PortN) (s : State) : Out := .next (settleAll (portWake p.val s))
/-- REPLAY_HOLDOFF_EXPIRY (R246). -/
def execReplayHoldoffExpiry (p : PortN) (s : State) : Out := .next (replayHoldoff p.val s)
/-- LINK_LOST (R257). -/
def execLinkLost (p : PortN) (s : State) : Out := .next (settleAll (linkLost p.val s))
/-- FRAME_BOUNDARY (R241). -/
def execFrameBoundary (p : PortN) (n : Nat) (s : State) : Out := .next (settleAll (frameBoundary p.val n s))

end Sys2Proof.Machine
end

