-- ==== Sys2Proof/Machine/ExecMove.lean ====
section
/-! DEFINITION. Commands: the move/shunt slot (R131, R132, R218, R228). -/

namespace Sys2Proof.Machine

/-- VINS (R131). -/
def execVins (h : Hd) (d a : BitVec 5) (lane : BitVec 6) (s : State) : Out := .next (moveSlot h (.vins d a lane) s)
/-- VEXT (R131). -/
def execVext (h : Hd) (d a : BitVec 5) (lane : BitVec 6) (s : State) : Out := .next (moveSlot h (.vext d a lane) s)
/-- VSPLAT (R131). -/
def execVsplat (h : Hd) (d a : BitVec 5) (s : State) : Out := .next (moveSlot h (.vsplat d a) s)
/-- VMOV (R131). -/
def execVmov (h : Hd) (d a : BitVec 5) (s : State) : Out := .next (moveSlot h (.vmov d a) s)
/-- PMOVS (R131). -/
def execPmovs (h : Hd) (d : BitVec 3) (a : BitVec 5) (s : State) : Out := .next (moveSlot h (.pmovs d a) s)
/-- SMOVP (R131). -/
def execSmovp (h : Hd) (d : BitVec 5) (a : BitVec 3) (s : State) : Out := .next (moveSlot h (.smovp d a) s)
/-- SHST (R218). -/
def execShst (h : Hd) (ch : BitVec 7) (aa : BitVec 4) (evt : Bool) (bit : BitVec 6) (s : State) : Out := .next (moveSlot h (.shst ch aa evt bit) s)
/-- SHSTAT (R131). -/
def execShstat (h : Hd) (d : BitVec 5) (ch : BitVec 7) (s : State) : Out := .next (moveSlot h (.shstat d ch) s)
/-- SHSTOP (R228). -/
def execShstop (h : Hd) (ch : BitVec 7) (s : State) : Out := .next (moveSlot h (.shstop ch) s)
/-- FENCE (R132). -/
def execFence (h : Hd) (kind : BitVec 2) (s : State) : Out := .next (moveSlot h (.fence kind) s)
/-- SIG (R131). -/
def execSig (h : Hd) (a : BitVec 5) (bit : BitVec 6) (s : State) : Out := .next (moveSlot h (.sig a bit) s)
/-- SIGH (R131). -/
def execSigh (h : Hd) (code : BitVec 16) (s : State) : Out := .next (moveSlot h (.sigh code) s)

end Sys2Proof.Machine
end

