-- ==== Sys2Proof/Machine/ExecPowerControl.lean ====
section
/-! DEFINITION. Commands: power, islands and the supply (R406 to R413, R439 to R446). -/

namespace Sys2Proof.Machine

/-- POWER_TICK (R413). -/
def execPowerTick (x : Sensors) (s : State) : Out := .next (settleAll (powerTick x s))
/-- SUPPLY_DROOP (R411). -/
def execSupplyDroop (t : TileN) (s : State) : Out := .next (supplyDroop t.val s)
/-- DROOP_RECOVERY (R411). -/
def execDroopRecovery (t : TileN) (s : State) : Out := .next (droopEnd t.val s)
/-- ISLAND_SLEEP (R407). -/
def execIslandSleep (x : Island) (s : State) : Out := .next (islandSleep x s)
/-- ISLAND_WAKE (R407). -/
def execIslandWake (x : Island) (s : State) : Out := .next (islandWake x s)
/-- ISLAND_WAKE_COMPLETE (R406). -/
def execIslandWakeComplete (x : Island) (s : State) : Out := .next (islandAwake x s)
/-- INPUT_RISE (R439). -/
def execInputRise (s : State) : Out := .next (inputRise s)
/-- INPUT_LOSS (R439). -/
def execInputLoss (high : Bool) (s : State) : Out := .next (inputLoss high s)
/-- VIN_LOW_TIMER (R446). -/
def execVinLowTimer (s : State) : Out := .next (vinLow s)
/-- REFERENCE_LOSS (R440). -/
def execReferenceLoss (k : Fin 3) (s : State) : Out := .next (settleAll (referenceLoss k.val s))
/-- LEAK_DETECT (R442). -/
def execLeakDetect (s : State) : Out := .next (leakDetect s)
/-- MGMT_BUS_READ (R445). -/
def execMgmtBusRead (o : BusAt) (n : Byte) (s : State) : Out := .next (mgmtRead o.addr.toNat o.off.toNat n.toNat s)
/-- MGMT_BUS_WRITE (R445). -/
def execMgmtBusWrite (_o : BusAt) (_d : List Byte) (s : State) : Out := .next (mgmtWrite s)
/-- SOFT_START_COMPLETE (R439). -/
def execSoftStartComplete (s : State) : Out := .next (softStart s)
/-- OVERVOLTAGE_RELEASE (R439). -/
def execOvervoltageRelease (s : State) : Out := .next (overRelease s)

end Sys2Proof.Machine
end

