-- ==== Sys2Proof/Machine/ExecRegister.lean ====
section
/-! DEFINITION. Commands: REGISTER_WRITE and NOP. -/

namespace Sys2Proof.Machine

/-- REGISTER_WRITE (R6). -/
def execRegisterWrite (o : BitVec 26) (v : U64) (s : State) : Out := .next (settleAll (hostWriteReg o.toNat v.toNat s))
/-- NOP (R115). -/
def execNop (h : Hd) (k : Fin 8) (s : State) : Out := .next (anySlot h k (if k = 5 then .lrnop else .nop) s)

end Sys2Proof.Machine
end

