-- ==== Sys2Proof/Machine/ExecScalar.lean ====
section
/-! DEFINITION. Commands: the scalar slots (R109, R119, R120). -/

namespace Sys2Proof.Machine

/-- ADD (R119). -/
def execAdd (h : Hd) (f : FSR) (s : State) : Out := .next (scalarSlot h (.sr .add f) s)
/-- SUB (R119). -/
def execSub (h : Hd) (f : FSR) (s : State) : Out := .next (scalarSlot h (.sr .sub f) s)
/-- AND (R119). -/
def execAnd (h : Hd) (f : FSR) (s : State) : Out := .next (scalarSlot h (.sr .and f) s)
/-- OR (R119). -/
def execOr (h : Hd) (f : FSR) (s : State) : Out := .next (scalarSlot h (.sr .or f) s)
/-- XOR (R119). -/
def execXor (h : Hd) (f : FSR) (s : State) : Out := .next (scalarSlot h (.sr .xor f) s)
/-- SHL (R119). -/
def execShl (h : Hd) (f : FSR) (s : State) : Out := .next (scalarSlot h (.sr .shl f) s)
/-- SHR (R119). -/
def execShr (h : Hd) (f : FSR) (s : State) : Out := .next (scalarSlot h (.sr .shr f) s)
/-- SRA (R119). -/
def execSra (h : Hd) (f : FSR) (s : State) : Out := .next (scalarSlot h (.sr .sra f) s)
/-- MIN (R119). -/
def execMin (h : Hd) (f : FSR) (s : State) : Out := .next (scalarSlot h (.sr .min f) s)
/-- MAX (R119). -/
def execMax (h : Hd) (f : FSR) (s : State) : Out := .next (scalarSlot h (.sr .max f) s)
/-- MINU (R119). -/
def execMinu (h : Hd) (f : FSR) (s : State) : Out := .next (scalarSlot h (.sr .minu f) s)
/-- MAXU (R119). -/
def execMaxu (h : Hd) (f : FSR) (s : State) : Out := .next (scalarSlot h (.sr .maxu f) s)
/-- MUL (R119). -/
def execMul (h : Hd) (f : FSR) (s : State) : Out := .next (scalarSlot h (.sr .mul f) s)
/-- MULHS (R119). -/
def execMulhs (h : Hd) (f : FSR) (s : State) : Out := .next (scalarSlot h (.sr .mulhs f) s)
/-- MULHU (R119). -/
def execMulhu (h : Hd) (f : FSR) (s : State) : Out := .next (scalarSlot h (.sr .mulhu f) s)
/-- DIV (R120). -/
def execDiv (h : Hd) (f : FSR) (s : State) : Out := .next (secondSlot h (.sr .div f) s)
/-- DIVU (R120). -/
def execDivu (h : Hd) (f : FSR) (s : State) : Out := .next (secondSlot h (.sr .divu f) s)
/-- REM (R120). -/
def execRem (h : Hd) (f : FSR) (s : State) : Out := .next (secondSlot h (.sr .rem f) s)
/-- REMU (R120). -/
def execRemu (h : Hd) (f : FSR) (s : State) : Out := .next (secondSlot h (.sr .remu f) s)
/-- CLZ (R119). -/
def execClz (h : Hd) (f : FSR) (s : State) : Out := .next (scalarSlot h (.sr .clz f) s)
/-- CTZ (R119). -/
def execCtz (h : Hd) (f : FSR) (s : State) : Out := .next (scalarSlot h (.sr .ctz f) s)
/-- POPC (R119). -/
def execPopc (h : Hd) (f : FSR) (s : State) : Out := .next (scalarSlot h (.sr .popc f) s)
/-- ADDI (R119). -/
def execAddi (h : Hd) (f : FSI) (s : State) : Out := .next (scalarSlot h (.si .addi f) s)
/-- SUBI (R119). -/
def execSubi (h : Hd) (f : FSI) (s : State) : Out := .next (scalarSlot h (.si .subi f) s)
/-- ANDI (R119). -/
def execAndi (h : Hd) (f : FSI) (s : State) : Out := .next (scalarSlot h (.si .andi f) s)
/-- ORI (R119). -/
def execOri (h : Hd) (f : FSI) (s : State) : Out := .next (scalarSlot h (.si .ori f) s)
/-- XORI (R119). -/
def execXori (h : Hd) (f : FSI) (s : State) : Out := .next (scalarSlot h (.si .xori f) s)
/-- SHLI (R119). -/
def execShli (h : Hd) (f : FSI) (s : State) : Out := .next (scalarSlot h (.si .shli f) s)
/-- SHRI (R119). -/
def execShri (h : Hd) (f : FSI) (s : State) : Out := .next (scalarSlot h (.si .shri f) s)
/-- SRAI (R119). -/
def execSrai (h : Hd) (f : FSI) (s : State) : Out := .next (scalarSlot h (.si .srai f) s)
/-- MULI (R119). -/
def execMuli (h : Hd) (f : FSI) (s : State) : Out := .next (scalarSlot h (.si .muli f) s)
/-- LI (R119). -/
def execLi (h : Hd) (sd : BitVec 5) (imm : BitVec 47) (s : State) : Out := .next (scalarSlot h (.li sd imm) s)
/-- LIH (R119). -/
def execLih (h : Hd) (sd : BitVec 5) (imm : BitVec 17) (s : State) : Out := .next (scalarSlot h (.lih sd imm) s)
/-- CMPEQ (R119). -/
def execCmpeq (h : Hd) (f : FPR) (s : State) : Out := .next (scalarSlot h (.cmp .eq f) s)
/-- CMPNE (R119). -/
def execCmpne (h : Hd) (f : FPR) (s : State) : Out := .next (scalarSlot h (.cmp .ne f) s)
/-- CMPLT (R119). -/
def execCmplt (h : Hd) (f : FPR) (s : State) : Out := .next (scalarSlot h (.cmp .lt f) s)
/-- CMPLTU (R119). -/
def execCmpltu (h : Hd) (f : FPR) (s : State) : Out := .next (scalarSlot h (.cmp .ltu f) s)
/-- CMPLE (R119). -/
def execCmple (h : Hd) (f : FPR) (s : State) : Out := .next (scalarSlot h (.cmp .le f) s)
/-- CMPLEU (R119). -/
def execCmpleu (h : Hd) (f : FPR) (s : State) : Out := .next (scalarSlot h (.cmp .leu f) s)
/-- CMPEQI (R119). -/
def execCmpeqi (h : Hd) (f : FPI) (s : State) : Out := .next (scalarSlot h (.cmpi .eq f) s)
/-- CMPNEI (R119). -/
def execCmpnei (h : Hd) (f : FPI) (s : State) : Out := .next (scalarSlot h (.cmpi .ne f) s)
/-- CMPLTI (R119). -/
def execCmplti (h : Hd) (f : FPI) (s : State) : Out := .next (scalarSlot h (.cmpi .lt f) s)
/-- CMPLTUI (R119). -/
def execCmpltui (h : Hd) (f : FPI) (s : State) : Out := .next (scalarSlot h (.cmpi .ltu f) s)
/-- CMPLEI (R119). -/
def execCmplei (h : Hd) (f : FPI) (s : State) : Out := .next (scalarSlot h (.cmpi .le f) s)
/-- CMPLEUI (R119). -/
def execCmpleui (h : Hd) (f : FPI) (s : State) : Out := .next (scalarSlot h (.cmpi .leu f) s)
/-- PAND (R119). -/
def execPand (h : Hd) (f : FPP) (s : State) : Out := .next (scalarSlot h (.pp .pand f) s)
/-- POR (R119). -/
def execPor (h : Hd) (f : FPP) (s : State) : Out := .next (scalarSlot h (.pp .por f) s)
/-- PXOR (R119). -/
def execPxor (h : Hd) (f : FPP) (s : State) : Out := .next (scalarSlot h (.pp .pxor f) s)
/-- PANDN (R119). -/
def execPandn (h : Hd) (f : FPP) (s : State) : Out := .next (scalarSlot h (.pp .pandn f) s)
/-- MFSR (R109). -/
def execMfsr (h : Hd) (sd : BitVec 5) (num : BitVec 8) (s : State) : Out := .next (firstSlot h (.mfsr sd num) s)
/-- MTSR (R109). -/
def execMtsr (h : Hd) (sa : BitVec 5) (num : BitVec 8) (s : State) : Out := .next (firstSlot h (.mtsr sa num) s)

end Sys2Proof.Machine
end

