-- ==== Sys2Proof/Machine/ExecShuntChannel.lean ====
section
/-! DEFINITION. Commands: the shunting channels (R218 to R234). -/

namespace Sys2Proof.Machine

/-- SHN_START (R234). -/
def execShnStart (ch : ChanN) (s : State) : Out := .next (settle (answering (fun s => afterLock (regStart ch.val) (wakeShunt ch.val s)) s))
/-- SHN_START_CHAIN (R218). -/
def execShnStartChain (ch : ChanN) (s : State) : Out := .next (settle (answering (fun s => afterLock (chChainWrite ch.val) (wakeShunt ch.val s)) s))
/-- SHN_STOP (R228). -/
def execShnStop (ch : ChanN) (s : State) : Out := .next (settle (answering (fun s => chStop ch.val (wakeShunt ch.val s)) s))
/-- SHN_RESUME (R229). -/
def execShnResume (ch : ChanN) (s : State) : Out := .next (settle (answering (fun s => chResume ch.val (wakeShunt ch.val s)) s))
/-- SHN_CLEAR (R229). -/
def execShnClear (ch : ChanN) (s : State) : Out := .next (settle (answering (fun s => chClear ch.val (wakeShunt ch.val s)) s))
/-- SHN_DESCRIPTOR_BEGIN (R221). -/
def execShnDescriptorBegin (ch : ChanN) (s : State) : Out := .next (settleAll (chBegin ch.val s))
/-- SHN_DESCRIPTOR_WRITES_ACCEPTED (R231). -/
def execShnDescriptorWritesAccepted (ch : ChanN) (s : State) : Out := .next (settleAll (chAccepted ch.val s))
/-- SHN_READBACK_RETURN (R231). -/
def execShnReadbackReturn (ch : ChanN) (s : State) : Out := .next (settleAll (chReadback ch.val s))
/-- SHN_ERROR_STOP (R229). -/
def execShnErrorStop (ch : ChanN) (s : State) : Out := .next (settleAll (chErrorStop ch.val s))
/-- SHN_REMOTE_TIMEOUT (R229). -/
def execShnRemoteTimeout (ch : ChanN) (s : State) : Out := .next (settleAll (chTimeout ch.val s))

end Sys2Proof.Machine
end

