-- ==== Sys2Proof/Machine/ExecStation.lean ====
section
/-! DEFINITION. Commands: the memory stations and CXL ports (R186, R195 to R215). -/

namespace Sys2Proof.Machine

/-- STATION_ACCESS (R186). -/
def execStationAccess (q : StReq) (ups : List Upset) (retries : Nat) (exhausted : Bool) (s : State) : Out := .next (settleAll (stationReach q ups retries exhausted s))
/-- COW_PUSH_SEND (R205). -/
def execCowPushSend (n : StationN) (s : State) : Out := .next (settleAll (cowPushSend n.val s))
/-- COW_DRAIN_SECTOR (R207). -/
def execCowDrainSector (n : StationN) (k : Fin 8) (s : State) : Out := .next (settleAll (cowDrain n.val k.val s))
/-- COW_SWEEP (R207). -/
def execCowSweep (n : StationN) (k : Fin 8) (s : State) : Out := .next (settleAll (cowSweep n.val k.val s))
/-- SCRUB_PASS_START (R197). -/
def execScrubPassStart (n : StationN) (s : State) : Out := .next (scrubStart n.val s)
/-- SCRUB_KICK (R197). -/
def execScrubKick (n : StationN) (s : State) : Out := .next (answering (scrubKick n.val) s)
/-- SCRUB_CODEWORD (R197). -/
def execScrubCodeword (n : StationN) (ups : List Upset) (s : State) : Out := .next (scrubCodeword n.val ups s)
/-- GDDR7_REFRESH (R196). -/
def execGddr7Refresh (n : StationN) (d : Fin 4) (s : State) : Out := .next (refresh n.val d.val s)
/-- RETRAIN_PERIOD (R196). -/
def execRetrainPeriod (n : StationN) (s : State) : Out := .next (retrainPeriod n.val s)
/-- RETRAIN_REQ (R196). -/
def execRetrainReq (n : StationN) (s : State) : Out := .next (answering (retrainReq n.val) s)
/-- CONSUMED (R215). -/
def execConsumed (n : StationN) (s : State) : Out := .next (answering (consumed n.val) s)
/-- CXL_ACCESS (R211). -/
def execCxlAccess (q : StReq) (fault : Bool) (s : State) : Out := .next (settleAll (retired q (cxlAccess q fault (reach q s))))
/-- CXL_LINK_DOWN (R213). -/
def execCxlLinkDown (p : Fin 4) (lost : Nat) (s : State) : Out := .next (cxlLinkDown p.val lost s)
/-- DEVICE_STOPPED_RESPONDING (R215). -/
def execDeviceStoppedResponding (n : StationN) (d : Fin 4) (s : State) : Out := .next (deviceStopped n.val d.val s)

end Sys2Proof.Machine
end

