-- ==== Sys2Proof/Machine/ExecVectorUnit.lean ====
section
/-! DEFINITION. Commands: the vector slot (R128, R145 to R156). -/

namespace Sys2Proof.Machine

/-- VADD (R145). -/
def execVadd (h : Hd) (f : FV) (s : State) : Out := .next (vectorSlot h (.v .vadd f) s)
/-- VSUB (R145). -/
def execVsub (h : Hd) (f : FV) (s : State) : Out := .next (vectorSlot h (.v .vsub f) s)
/-- VMUL (R145). -/
def execVmul (h : Hd) (f : FV) (s : State) : Out := .next (vectorSlot h (.v .vmul f) s)
/-- VFMA (R145). -/
def execVfma (h : Hd) (f : FV) (s : State) : Out := .next (vectorSlot h (.v .vfma f) s)
/-- VMIN (R146). -/
def execVmin (h : Hd) (f : FV) (s : State) : Out := .next (vectorSlot h (.v .vmin f) s)
/-- VMAX (R146). -/
def execVmax (h : Hd) (f : FV) (s : State) : Out := .next (vectorSlot h (.v .vmax f) s)
/-- VABS (R146). -/
def execVabs (h : Hd) (f : FV) (s : State) : Out := .next (vectorSlot h (.v .vabs f) s)
/-- VNEG (R146). -/
def execVneg (h : Hd) (f : FV) (s : State) : Out := .next (vectorSlot h (.v .vneg f) s)
/-- VCMP (R146). -/
def execVcmp (h : Hd) (f : FV) (s : State) : Out := .next (vectorSlot h (.v .vcmp f) s)
/-- VSEL (R146). -/
def execVsel (h : Hd) (f : FV) (s : State) : Out := .next (vectorSlot h (.v .vsel f) s)
/-- VCVT (R147). -/
def execVcvt (h : Hd) (f : FV) (s : State) : Out := .next (vectorSlot h (.v .vcvt f) s)
/-- VUNPK (R147). -/
def execVunpk (h : Hd) (f : FV) (s : State) : Out := .next (vectorSlot h (.v .vunpk f) s)
/-- VEXP2 (R156). -/
def execVexp2 (h : Hd) (f : FV) (s : State) : Out := .next (vectorSlot h (.v .vexp2 f) s)
/-- VRCP (R150). -/
def execVrcp (h : Hd) (f : FV) (s : State) : Out := .next (vectorSlot h (.v .vrcp f) s)
/-- VRSQRT (R150). -/
def execVrsqrt (h : Hd) (f : FV) (s : State) : Out := .next (vectorSlot h (.v .vrsqrt f) s)
/-- VLOG2 (R150). -/
def execVlog2 (h : Hd) (f : FV) (s : State) : Out := .next (vectorSlot h (.v .vlog2 f) s)
/-- VSIGM (R150). -/
def execVsigm (h : Hd) (f : FV) (s : State) : Out := .next (vectorSlot h (.v .vsigm f) s)
/-- VACC (R151). -/
def execVacc (h : Hd) (f : FV) (s : State) : Out := .next (vectorSlot h (.v .vacc f) s)
/-- VACSQ (R151). -/
def execVacsq (h : Hd) (f : FV) (s : State) : Out := .next (vectorSlot h (.v .vacsq f) s)
/-- VACX (R151). -/
def execVacx (h : Hd) (f : FV) (s : State) : Out := .next (vectorSlot h (.v .vacx f) s)
/-- VWRD (R148). -/
def execVwrd (h : Hd) (f : FV) (s : State) : Out := .next (vectorSlot h (.v .vwrd f) s)
/-- VWCLR (R151). -/
def execVwclr (h : Hd) (f : FV) (s : State) : Out := .next (vectorSlot h (.v .vwclr f) s)
/-- VMOMENT (R152). -/
def execVmoment (h : Hd) (f : FV) (s : State) : Out := .next (vectorSlot h (.v .vmoment f) s)
/-- VRNG (R155). -/
def execVrng (h : Hd) (f : FV) (s : State) : Out := .next (vectorSlot h (.v .vrng f) s)
/-- VUPD (R149). -/
def execVupd (h : Hd) (f : FV) (s : State) : Out := .next (vectorSlot h (.v .vupd f) s)

end Sys2Proof.Machine
end

