-- ==== Sys2Proof/Machine/Dispatch.lean ====
section
/-! DEFINITION. The meaning of every command: one arm each. -/

namespace Sys2Proof.Machine

def exec (i : Instr) (s : State) : Host.Outcome State Fault Refusal :=
  match i with
  | .registerWrite o v => Sys2Proof.Machine.execRegisterWrite o v s
  | .nop h k => Sys2Proof.Machine.execNop h k s
  | .add h f => Sys2Proof.Machine.execAdd h f s
  | .sub h f => Sys2Proof.Machine.execSub h f s
  | .and h f => Sys2Proof.Machine.execAnd h f s
  | .or h f => Sys2Proof.Machine.execOr h f s
  | .xor h f => Sys2Proof.Machine.execXor h f s
  | .shl h f => Sys2Proof.Machine.execShl h f s
  | .shr h f => Sys2Proof.Machine.execShr h f s
  | .sra h f => Sys2Proof.Machine.execSra h f s
  | .min h f => Sys2Proof.Machine.execMin h f s
  | .max h f => Sys2Proof.Machine.execMax h f s
  | .minu h f => Sys2Proof.Machine.execMinu h f s
  | .maxu h f => Sys2Proof.Machine.execMaxu h f s
  | .mul h f => Sys2Proof.Machine.execMul h f s
  | .mulhs h f => Sys2Proof.Machine.execMulhs h f s
  | .mulhu h f => Sys2Proof.Machine.execMulhu h f s
  | .div h f => Sys2Proof.Machine.execDiv h f s
  | .divu h f => Sys2Proof.Machine.execDivu h f s
  | .rem h f => Sys2Proof.Machine.execRem h f s
  | .remu h f => Sys2Proof.Machine.execRemu h f s
  | .clz h f => Sys2Proof.Machine.execClz h f s
  | .ctz h f => Sys2Proof.Machine.execCtz h f s
  | .popc h f => Sys2Proof.Machine.execPopc h f s
  | .addi h f => Sys2Proof.Machine.execAddi h f s
  | .subi h f => Sys2Proof.Machine.execSubi h f s
  | .andi h f => Sys2Proof.Machine.execAndi h f s
  | .ori h f => Sys2Proof.Machine.execOri h f s
  | .xori h f => Sys2Proof.Machine.execXori h f s
  | .shli h f => Sys2Proof.Machine.execShli h f s
  | .shri h f => Sys2Proof.Machine.execShri h f s
  | .srai h f => Sys2Proof.Machine.execSrai h f s
  | .muli h f => Sys2Proof.Machine.execMuli h f s
  | .li h sd imm => Sys2Proof.Machine.execLi h sd imm s
  | .lih h sd imm => Sys2Proof.Machine.execLih h sd imm s
  | .cmpeq h f => Sys2Proof.Machine.execCmpeq h f s
  | .cmpne h f => Sys2Proof.Machine.execCmpne h f s
  | .cmplt h f => Sys2Proof.Machine.execCmplt h f s
  | .cmpltu h f => Sys2Proof.Machine.execCmpltu h f s
  | .cmple h f => Sys2Proof.Machine.execCmple h f s
  | .cmpleu h f => Sys2Proof.Machine.execCmpleu h f s
  | .cmpeqi h f => Sys2Proof.Machine.execCmpeqi h f s
  | .cmpnei h f => Sys2Proof.Machine.execCmpnei h f s
  | .cmplti h f => Sys2Proof.Machine.execCmplti h f s
  | .cmpltui h f => Sys2Proof.Machine.execCmpltui h f s
  | .cmplei h f => Sys2Proof.Machine.execCmplei h f s
  | .cmpleui h f => Sys2Proof.Machine.execCmpleui h f s
  | .pand h f => Sys2Proof.Machine.execPand h f s
  | .por h f => Sys2Proof.Machine.execPor h f s
  | .pxor h f => Sys2Proof.Machine.execPxor h f s
  | .pandn h f => Sys2Proof.Machine.execPandn h f s
  | .mfsr h sd num => Sys2Proof.Machine.execMfsr h sd num s
  | .mtsr h sa num => Sys2Proof.Machine.execMtsr h sa num s
  | .jmp h target => Sys2Proof.Machine.execJmp h target s
  | .call h target sd => Sys2Proof.Machine.execCall h target sd s
  | .jmpr h sa => Sys2Proof.Machine.execJmpr h sa s
  | .loop h fin sa => Sys2Proof.Machine.execLoop h fin sa s
  | .loopi h fin count => Sys2Proof.Machine.execLoopi h fin count s
  | .lpop h => Sys2Proof.Machine.execLpop h s
  | .wait h sa => Sys2Proof.Machine.execWait h sa s
  | .evclr h sa => Sys2Proof.Machine.execEvclr h sa s
  | .endProgram h code => Sys2Proof.Machine.execEndProgram h code s
  | .brk h code => Sys2Proof.Machine.execBrk h code s
  | .ldb h f => Sys2Proof.Machine.execLdb h f s
  | .ldbu h f => Sys2Proof.Machine.execLdbu h f s
  | .ldh h f => Sys2Proof.Machine.execLdh h f s
  | .ldhu h f => Sys2Proof.Machine.execLdhu h f s
  | .ldw h f => Sys2Proof.Machine.execLdw h f s
  | .ldwu h f => Sys2Proof.Machine.execLdwu h f s
  | .ldd h f => Sys2Proof.Machine.execLdd h f s
  | .stb h f => Sys2Proof.Machine.execStb h f s
  | .sth h f => Sys2Proof.Machine.execSth h f s
  | .stw h f => Sys2Proof.Machine.execStw h f s
  | .std h f => Sys2Proof.Machine.execStd h f s
  | .vld h f => Sys2Proof.Machine.execVld h f s
  | .vst h f => Sys2Proof.Machine.execVst h f s
  | .wld h f => Sys2Proof.Machine.execWld h f s
  | .wst h f => Sys2Proof.Machine.execWst h f s
  | .amoadd h sd aa sx => Sys2Proof.Machine.execAmoadd h sd aa sx s
  | .amoswap h sd aa sx => Sys2Proof.Machine.execAmoswap h sd aa sx s
  | .amomaxu h sd aa sx => Sys2Proof.Machine.execAmomaxu h sd aa sx s
  | .aaddi h ad aa imm => Sys2Proof.Machine.execAaddi h ad aa imm s
  | .aadd h ad aa sx => Sys2Proof.Machine.execAadd h ad aa sx s
  | .amovs h ad sx => Sys2Proof.Machine.execAmovs h ad sx s
  | .smova h sd aa => Sys2Proof.Machine.execSmova h sd aa s
  | .loadResponse t k => Sys2Proof.Machine.execLoadResponse t k s
  | .lrnop h => Sys2Proof.Machine.execLrnop h s
  | .lrstep h f => Sys2Proof.Machine.execLrstep h f s
  | .lrload h f => Sys2Proof.Machine.execLrload h f s
  | .lrprep h sa => Sys2Proof.Machine.execLrprep h sa s
  | .lrdcfg h aa => Sys2Proof.Machine.execLrdcfg h aa s
  | .lrclose h park => Sys2Proof.Machine.execLrclose h park s
  | .lrdrain h set => Sys2Proof.Machine.execLrdrain h set s
  | .lrsusp h aa => Sys2Proof.Machine.execLrsusp h aa s
  | .lrrest h aa => Sys2Proof.Machine.execLrrest h aa s
  | .lrsync h => Sys2Proof.Machine.execLrsync h s
  | .lrQueueDispatch t => Sys2Proof.Machine.execLrQueueDispatch t s
  | .shadowLoadStart t => Sys2Proof.Machine.execShadowLoadStart t s
  | .shadowLoadComplete t => Sys2Proof.Machine.execShadowLoadComplete t s
  | .drainStart t => Sys2Proof.Machine.execDrainStart t s
  | .historyAppendWaitEnd t => Sys2Proof.Machine.execHistoryAppendWaitEnd t s
  | .drainComplete t => Sys2Proof.Machine.execDrainComplete t s
  | .drainStop t => Sys2Proof.Machine.execDrainStop t s
  | .tilLrSuspendSuspend t => Sys2Proof.Machine.execTilLrSuspendSuspend t s
  | .suspendRecordWritten t => Sys2Proof.Machine.execSuspendRecordWritten t s
  | .tilLrSuspendRestore t => Sys2Proof.Machine.execTilLrSuspendRestore t s
  | .laneRowRestoreComplete t => Sys2Proof.Machine.execLaneRowRestoreComplete t s
  | .ballastTaper t => Sys2Proof.Machine.execBallastTaper t s
  | .vadd h f => Sys2Proof.Machine.execVadd h f s
  | .vsub h f => Sys2Proof.Machine.execVsub h f s
  | .vmul h f => Sys2Proof.Machine.execVmul h f s
  | .vfma h f => Sys2Proof.Machine.execVfma h f s
  | .vmin h f => Sys2Proof.Machine.execVmin h f s
  | .vmax h f => Sys2Proof.Machine.execVmax h f s
  | .vabs h f => Sys2Proof.Machine.execVabs h f s
  | .vneg h f => Sys2Proof.Machine.execVneg h f s
  | .vcmp h f => Sys2Proof.Machine.execVcmp h f s
  | .vsel h f => Sys2Proof.Machine.execVsel h f s
  | .vcvt h f => Sys2Proof.Machine.execVcvt h f s
  | .vunpk h f => Sys2Proof.Machine.execVunpk h f s
  | .vexp2 h f => Sys2Proof.Machine.execVexp2 h f s
  | .vrcp h f => Sys2Proof.Machine.execVrcp h f s
  | .vrsqrt h f => Sys2Proof.Machine.execVrsqrt h f s
  | .vlog2 h f => Sys2Proof.Machine.execVlog2 h f s
  | .vsigm h f => Sys2Proof.Machine.execVsigm h f s
  | .vacc h f => Sys2Proof.Machine.execVacc h f s
  | .vacsq h f => Sys2Proof.Machine.execVacsq h f s
  | .vacx h f => Sys2Proof.Machine.execVacx h f s
  | .vwrd h f => Sys2Proof.Machine.execVwrd h f s
  | .vwclr h f => Sys2Proof.Machine.execVwclr h f s
  | .vmoment h f => Sys2Proof.Machine.execVmoment h f s
  | .vrng h f => Sys2Proof.Machine.execVrng h f s
  | .vupd h f => Sys2Proof.Machine.execVupd h f s
  | .vins h d a lane => Sys2Proof.Machine.execVins h d a lane s
  | .vext h d a lane => Sys2Proof.Machine.execVext h d a lane s
  | .vsplat h d a => Sys2Proof.Machine.execVsplat h d a s
  | .vmov h d a => Sys2Proof.Machine.execVmov h d a s
  | .pmovs h d a => Sys2Proof.Machine.execPmovs h d a s
  | .smovp h d a => Sys2Proof.Machine.execSmovp h d a s
  | .shst h ch aa evt bit => Sys2Proof.Machine.execShst h ch aa evt bit s
  | .shstat h d ch => Sys2Proof.Machine.execShstat h d ch s
  | .shstop h ch => Sys2Proof.Machine.execShstop h ch s
  | .fence h kind => Sys2Proof.Machine.execFence h kind s
  | .sig h a bit => Sys2Proof.Machine.execSig h a bit s
  | .sigh h code => Sys2Proof.Machine.execSigh h code s
  | .sigDelivery k => Sys2Proof.Machine.execSigDelivery k s
  | .waitRelease t => Sys2Proof.Machine.execWaitRelease t s
  | .lrsyncRelease t => Sys2Proof.Machine.execLrsyncRelease t s
  | .fenceRelease t => Sys2Proof.Machine.execFenceRelease t s
  | .endComplete t => Sys2Proof.Machine.execEndComplete t s
  | .deferredException t => Sys2Proof.Machine.execDeferredException t s
  | .coreRun t => Sys2Proof.Machine.execCoreRun t s
  | .coreHalt t => Sys2Proof.Machine.execCoreHalt t s
  | .coreSave t => Sys2Proof.Machine.execCoreSave t s
  | .coreRestore t => Sys2Proof.Machine.execCoreRestore t s
  | .coreStep t => Sys2Proof.Machine.execCoreStep t s
  | .contextSaveComplete t => Sys2Proof.Machine.execContextSaveComplete t s
  | .contextRestoreComplete t => Sys2Proof.Machine.execContextRestoreComplete t s
  | .expressSlabStart u => Sys2Proof.Machine.execExpressSlabStart u s
  | .expressChunkRead u => Sys2Proof.Machine.execExpressChunkRead u s
  | .expressPartialArrival k => Sys2Proof.Machine.execExpressPartialArrival k s
  | .stationAccess q ups retries exhausted => Sys2Proof.Machine.execStationAccess q ups retries exhausted s
  | .cowPushSend n => Sys2Proof.Machine.execCowPushSend n s
  | .cowDrainSector n k => Sys2Proof.Machine.execCowDrainSector n k s
  | .cowSweep n k => Sys2Proof.Machine.execCowSweep n k s
  | .scrubPassStart n => Sys2Proof.Machine.execScrubPassStart n s
  | .scrubKick n => Sys2Proof.Machine.execScrubKick n s
  | .scrubCodeword n ups => Sys2Proof.Machine.execScrubCodeword n ups s
  | .gddr7Refresh n d => Sys2Proof.Machine.execGddr7Refresh n d s
  | .retrainPeriod n => Sys2Proof.Machine.execRetrainPeriod n s
  | .retrainReq n => Sys2Proof.Machine.execRetrainReq n s
  | .consumed n => Sys2Proof.Machine.execConsumed n s
  | .cxlAccess q fault => Sys2Proof.Machine.execCxlAccess q fault s
  | .cxlLinkDown p lost => Sys2Proof.Machine.execCxlLinkDown p lost s
  | .shnStart ch => Sys2Proof.Machine.execShnStart ch s
  | .shnStartChain ch => Sys2Proof.Machine.execShnStartChain ch s
  | .shnStop ch => Sys2Proof.Machine.execShnStop ch s
  | .shnResume ch => Sys2Proof.Machine.execShnResume ch s
  | .shnClear ch => Sys2Proof.Machine.execShnClear ch s
  | .shnDescriptorBegin ch => Sys2Proof.Machine.execShnDescriptorBegin ch s
  | .shnDescriptorWritesAccepted ch => Sys2Proof.Machine.execShnDescriptorWritesAccepted ch s
  | .shnReadbackReturn ch => Sys2Proof.Machine.execShnReadbackReturn ch s
  | .shnErrorStop ch => Sys2Proof.Machine.execShnErrorStop ch s
  | .shnRemoteTimeout ch => Sys2Proof.Machine.execShnRemoteTimeout ch s
  | .portEnable p v => Sys2Proof.Machine.execPortEnable p v s
  | .portRetrain p => Sys2Proof.Machine.execPortRetrain p s
  | .cablePresence p here => Sys2Proof.Machine.execCablePresence p here s
  | .cableIdentityRead p d => Sys2Proof.Machine.execCableIdentityRead p d s
  | .laneTrained p good nums => Sys2Proof.Machine.execLaneTrained p good nums s
  | .alignLock p => Sys2Proof.Machine.execAlignLock p s
  | .verifyReport p coord role letter good degrade => Sys2Proof.Machine.execVerifyReport p coord role letter good degrade s
  | .pingTimer p => Sys2Proof.Machine.execPingTimer p s
  | .trainingTimeout p => Sys2Proof.Machine.execTrainingTimeout p s
  | .codewordDecode p start syms => Sys2Proof.Machine.execCodewordDecode p start syms s
  | .frameCell p => Sys2Proof.Machine.execFrameCell p s
  | .flow p => Sys2Proof.Machine.execFlow p s
  | .mark p => Sys2Proof.Machine.execMark p s
  | .ping p => Sys2Proof.Machine.execPing p s
  | .echoCell p => Sys2Proof.Machine.execEchoCell p s
  | .tune p => Sys2Proof.Machine.execTune p s
  | .tuneDone p => Sys2Proof.Machine.execTuneDone p s
  | .tuneInterval p lane tap action => Sys2Proof.Machine.execTuneInterval p lane tap action s
  | .nap p => Sys2Proof.Machine.execNap p s
  | .napAck p => Sys2Proof.Machine.execNapAck p s
  | .napIdleExpiry p => Sys2Proof.Machine.execNapIdleExpiry p s
  | .portWake p => Sys2Proof.Machine.execPortWake p s
  | .replayHoldoffExpiry p => Sys2Proof.Machine.execReplayHoldoffExpiry p s
  | .linkLost p => Sys2Proof.Machine.execLinkLost p s
  | .packetReceive p => Sys2Proof.Machine.execPacketReceive p s
  | .packetRoute q v => Sys2Proof.Machine.execPacketRoute q v s
  | .escapeWaitExpiry q v => Sys2Proof.Machine.execEscapeWaitExpiry q v s
  | .wr => Sys2Proof.Machine.execWr s
  | .rd => Sys2Proof.Machine.execRd s
  | .amoaddPacket => Sys2Proof.Machine.execAmoaddPacket s
  | .amoswapPacket => Sys2Proof.Machine.execAmoswapPacket s
  | .amomaxuPacket => Sys2Proof.Machine.execAmomaxuPacket s
  | .acc => Sys2Proof.Machine.execAcc s
  | .accw => Sys2Proof.Machine.execAccw s
  | .mir => Sys2Proof.Machine.execMir s
  | .mgtPacket => Sys2Proof.Machine.execMgtPacket s
  | .mapreq => Sys2Proof.Machine.execMapreq s
  | .echo => Sys2Proof.Machine.execEcho s
  | .tail p => Sys2Proof.Machine.execTail p s
  | .time p => Sys2Proof.Machine.execTime p s
  | .wrack => Sys2Proof.Machine.execWrack s
  | .rdata => Sys2Proof.Machine.execRdata s
  | .mirack => Sys2Proof.Machine.execMirack s
  | .mgtack => Sys2Proof.Machine.execMgtack s
  | .tagReleaseTimer k => Sys2Proof.Machine.execTagReleaseTimer k s
  | .rateRecovery d => Sys2Proof.Machine.execRateRecovery d s
  | .congestionSample => Sys2Proof.Machine.execCongestionSample s
  | .mapLatch clear => Sys2Proof.Machine.execMapLatch clear s
  | .stampWrite v => Sys2Proof.Machine.execStampWrite v s
  | .timetableWrite d e v m => Sys2Proof.Machine.execTimetableWrite d e v m s
  | .coll q => Sys2Proof.Machine.execColl q s
  | .collectiveZeroingEnd k => Sys2Proof.Machine.execCollectiveZeroingEnd k s
  | .contributionSend k => Sys2Proof.Machine.execContributionSend k s
  | .reportReceive k => Sys2Proof.Machine.execReportReceive k s
  | .replayCommandComplete k => Sys2Proof.Machine.execReplayCommandComplete k s
  | .holdExpiry => Sys2Proof.Machine.execHoldExpiry s
  | .collectiveTimeout k => Sys2Proof.Machine.execCollectiveTimeout k s
  | .listTicketDone k => Sys2Proof.Machine.execListTicketDone k s
  | .rtimeWrite v => Sys2Proof.Machine.execRtimeWrite v s
  | .timeExchangeTimer => Sys2Proof.Machine.execTimeExchangeTimer s
  | .disciplineTimeout => Sys2Proof.Machine.execDisciplineTimeout s
  | .cutOrder id => Sys2Proof.Machine.execCutOrder id s
  | .cutPoint => Sys2Proof.Machine.execCutPoint s
  | .tailOrderTimeout p => Sys2Proof.Machine.execTailOrderTimeout p s
  | .logTimeout => Sys2Proof.Machine.execLogTimeout s
  | .snapshotPartConfirm k ok => Sys2Proof.Machine.execSnapshotPartConfirm k ok s
  | .cutAbandon => Sys2Proof.Machine.execCutAbandon s
  | .cutRestore => Sys2Proof.Machine.execCutRestore s
  | .resumeTimeReached => Sys2Proof.Machine.execResumeTimeReached s
  | .mirackTimeout k => Sys2Proof.Machine.execMirackTimeout k s
  | .resync => Sys2Proof.Machine.execResync s
  | .checkSlotFilled k => Sys2Proof.Machine.execCheckSlotFilled k s
  | .checkStart k => Sys2Proof.Machine.execCheckStart k s
  | .checkCompare k flips => Sys2Proof.Machine.execCheckCompare k flips s
  | .checkSlotTimeout k => Sys2Proof.Machine.execCheckSlotTimeout k s
  | .possessionTimer d => Sys2Proof.Machine.execPossessionTimer d s
  | .possessionStart d => Sys2Proof.Machine.execPossessionStart d s
  | .possessionTestEnd d pass stage trim droop => Sys2Proof.Machine.execPossessionTestEnd d pass stage trim droop s
  | .possessionReturn d => Sys2Proof.Machine.execPossessionReturn d s
  | .itgPossReq t force calOnly => Sys2Proof.Machine.execItgPossReq t force calOnly s
  | .tileFail t => Sys2Proof.Machine.execTileFail t s
  | .tileStopTimeout t => Sys2Proof.Machine.execTileStopTimeout t s
  | .replayDone => Sys2Proof.Machine.execReplayDone s
  | .ringTailWrite k v => Sys2Proof.Machine.execRingTailWrite k v s
  | .commandFetch k entry => Sys2Proof.Machine.execCommandFetch k entry s
  | .run q => Sys2Proof.Machine.execRun q s
  | .xvload q => Sys2Proof.Machine.execXvload q s
  | .xmv q => Sys2Proof.Machine.execXmv q s
  | .attn q => Sys2Proof.Machine.execAttn q s
  | .optstep q => Sys2Proof.Machine.execOptstep q s
  | .shunt q => Sys2Proof.Machine.execShunt q s
  | .mgt q => Sys2Proof.Machine.execMgt q s
  | .mgtTimeout k => Sys2Proof.Machine.execMgtTimeout k s
  | .release q => Sys2Proof.Machine.execRelease q s
  | .attachUpdate k => Sys2Proof.Machine.execAttachUpdate k s
  | .attachUpdateWriteDone back => Sys2Proof.Machine.execAttachUpdateWriteDone back s
  | .attachAttest k => Sys2Proof.Machine.execAttachAttest k s
  | .managementOrder ms => Sys2Proof.Machine.execManagementOrder ms s
  | .cqHeadWrite k v => Sys2Proof.Machine.execCqHeadWrite k v s
  | .ringEnable k v => Sys2Proof.Machine.execRingEnable k v s
  | .ringReset k => Sys2Proof.Machine.execRingReset k s
  | .idleReset => Sys2Proof.Machine.execIdleReset s
  | .functionReset down => Sys2Proof.Machine.execFunctionReset down s
  | .boardReset => Sys2Proof.Machine.execBoardReset s
  | .bar2Access q => Sys2Proof.Machine.execBar2Access q s
  | .bootStart => Sys2Proof.Machine.execBootStart s
  | .pcieLinkUp => Sys2Proof.Machine.execPcieLinkUp s
  | .bootImageReadDone err => Sys2Proof.Machine.execBootImageReadDone err s
  | .bootTileTestDone bad cal => Sys2Proof.Machine.execBootTileTestDone bad cal s
  | .bootTrainingDone x => Sys2Proof.Machine.execBootTrainingDone x s
  | .recoveryGo d => Sys2Proof.Machine.execRecoveryGo d s
  | .recoveryDone => Sys2Proof.Machine.execRecoveryDone s
  | .powerTick x => Sys2Proof.Machine.execPowerTick x s
  | .supplyDroop t => Sys2Proof.Machine.execSupplyDroop t s
  | .droopRecovery t => Sys2Proof.Machine.execDroopRecovery t s
  | .islandSleep x => Sys2Proof.Machine.execIslandSleep x s
  | .islandWake x => Sys2Proof.Machine.execIslandWake x s
  | .islandWakeComplete x => Sys2Proof.Machine.execIslandWakeComplete x s
  | .inputRise => Sys2Proof.Machine.execInputRise s
  | .inputLoss high => Sys2Proof.Machine.execInputLoss high s
  | .vinLowTimer => Sys2Proof.Machine.execVinLowTimer s
  | .referenceLoss k => Sys2Proof.Machine.execReferenceLoss k s
  | .leakDetect => Sys2Proof.Machine.execLeakDetect s
  | .mgmtBusRead o n => Sys2Proof.Machine.execMgmtBusRead o n s
  | .mgmtBusWrite o d => Sys2Proof.Machine.execMgmtBusWrite o d s
  | .freezeAll => Sys2Proof.Machine.execFreezeAll s
  | .thawAll => Sys2Proof.Machine.execThawAll s
  | .boxFreezeWrite n v => Sys2Proof.Machine.execBoxFreezeWrite n v s
  | .traceEnable d v => Sys2Proof.Machine.execTraceEnable d v s
  | .frameBoundary p n => Sys2Proof.Machine.execFrameBoundary p n s
  | .softStartComplete => Sys2Proof.Machine.execSoftStartComplete s
  | .overvoltageRelease => Sys2Proof.Machine.execOvervoltageRelease s
  | .firmwareStartTimeout => Sys2Proof.Machine.execFirmwareStartTimeout s
  | .deviceStoppedResponding n d => Sys2Proof.Machine.execDeviceStoppedResponding n d s

end Sys2Proof.Machine
end

