-- ==== Sys2Proof/Safety.lean ====
section
/-! DEFINITION. What a sound state and a safe run are, and the words that claims about the module are stated in: a tile ready to issue, what a slot instruction leaves alone, a module with nothing in progress. -/

namespace Sys2Proof

open Machine

/-! ### Sound states -/

/-- Between commands no report of a unit waits to be acted on. -/
abbrev Reported (s : State) : Prop := s.notices = []

/-- The register files of a core in canonical form. -/
abbrev coreWf (c : Core) : Bool :=
  Map.wf z64 c.s && Map.wf z64 c.a && Map.wf (fun _ => 0#2048) c.v && Map.wf z64 c.p && Map.wf zw c.w && Map.wf zb c.wtag
  && Map.wf (fun _ => ({} : RowSt)) c.wst

/-- The stationary and scale registers of a lane row in canonical form. -/
abbrev laneWf (l : LaneRow) : Bool := Map.wf zb l.st0 && Map.wf zb l.st1 && Map.wf zb l.sc0 && Map.wf zb l.sc1

/-- The sums an express command collects, in canonical form. -/
abbrev xcmdWf (x : Option XCmd) : Bool := (x.map fun c => Map.wf zw c.words && Map.wf zb c.tags).getD true

/-- The tables of the power controller and of the integrity logic in canonical form. -/
abbrev railWf (s : State) : Bool :=
  Map.wf (fun _ => 0) s.power.calm && Map.wf (fun _ => 0) s.power.top && Map.wf (fun _ => false) s.power.heat && Map.wf (fun _ => 0) s.power.isl
  && Map.wf (fun _ => false) s.power.droop && Map.wf (fun _ => 0) s.power.skips
  && Map.wf (fun _ => ({} : Poss)) s.itg.poss && Map.wf (fun _ => 0) s.itg.last && Map.wf (fun _ => none) s.itg.spare

/-- The sparse tables of the state in canonical form. -/
abbrev tablesWf (s : State) : Bool :=
  Map.wf (fun _ => 0) s.flds && Map.wf (fun _ => ({} : TileSt)) s.tiles && s.tiles.all (fun e => coreWf e.2.core && laneWf e.2.lr)
  && Map.wf (fun _ => 0#128) s.boxes && Map.wf (fun _ => ({} : StationSt)) s.stations && Map.wf (fun _ => ({} : Port)) s.ports
  && Map.wf (fun _ => ({} : Machine.Shunt)) s.shunts && Map.wf (fun _ => ({} : Machine.Coll)) s.colls && Map.wf (fun _ => none) s.tags
  && Map.wf (fun _ => none) s.xcmds && s.xcmds.all (fun e => xcmdWf e.2) && Map.wf (fun _ => ({} : XUnit)) s.xunits
  && s.xunits.all (fun e => Map.wf zw e.2.words) && Map.wf (fun _ => ({} : CheckSlot)) s.checks && Map.wf (fun _ => 0) s.router.bins
  && Map.wf (fun _ => 0) s.host.seqs && Map.wf (fun _ => []) s.host.cqq && Map.wf (fun _ => 0) s.expVec && Map.wf (fun _ => 0) s.expK && railWf s

/-- A sound state: nothing waits to be acted on inside a command, and device memory and the sparse tables are in their canonical form. -/
abbrev Sound (s : State) : Prop := Reported s ∧ Memory.wf s.mem = true ∧ tablesWf s = true

/-- A run of `n` steps stays clear of faults and refusals. -/
def SafeRun (n : Nat) (s : State) : Prop := ∃ t, core.run n s = .next t

/-- Nothing is left for a command's end to go on with: no report waits, no cut is paused, no mirror is copied again, no command waits to be repeated, no possession is asked for or about to be forced, no express command that a restore starts again waits for its slot. -/
abbrev NoneWaits (s : State) : Prop :=
  s.notices = [] ∧ s.cut.saving = [] ∧ s.cut.walk = [] ∧ s.itg.reqs = [] ∧ (∀ c ∈ s.host.cmds, c.phase ≠ 2)
  ∧ (∀ e ∈ s.itg.poss, e.2.st = 1 → e.2.forced = false) ∧ s.cut.xpend = []

/-- Nothing waits, and no cut drains or keeps its log. -/
abbrev Quiet (s : State) : Prop :=
  NoneWaits s ∧ rd CUT_STATUS_log_open 0 s = 0 ∧ rd CUT_STATUS_state 0 s ≠ 2 ∧ rd CUT_STATUS_state 0 s ≠ 3

/-- The manifest of a cut that drains is not due: it has begun, parts before it are not yet confirmed, or images have not left their stations (R327, R328). -/
abbrev ManifestRests (s : State) : Prop := 170 ∈ s.cut.begun ∨ s.cut.parts ≠ [170] ∨ imagesDone s = false

/-- A cut drains whose log has gone out and that has no write left to send; nothing else waits. -/
abbrev Draining (s : State) : Prop :=
  NoneWaits s ∧ rd CUT_STATUS_log_open 0 s = 0 ∧ rd CUT_STATUS_state 0 s = 3 ∧ rd CUT_STATUS_sweeping 0 s = 0 ∧ 169 ∈ s.cut.begun ∧ s.cut.toSend = []

/-- Nothing waits, and no cut goes on of itself: none drains, or one does whose manifest is not due. -/
abbrev CutStill (s : State) : Prop := Quiet s ∨ (Draining s ∧ ManifestRests s)

/-- The writes to the host that begin the manifest of a cut whose record area the host holds (R328). -/
def manifestWrites (s : State) : List HostWr := (cutBytes (snRec s.cut.snap) (manifest s)).map fun e => { addr := e.1, data := e.2 }

/-- A sound state with nothing in progress that a command's end would go on with. -/
abbrev Calm (s : State) : Prop := Sound s ∧ Quiet s

/-- No command of the rings has tile `t` among its ranks. -/
abbrev Unserved (t : Nat) (s : State) : Prop := ∀ c ∈ s.host.cmds, ∀ r ∈ c.ranks, r.tile ≠ t

/-- No island that holds memory sleeps or wakes (R406): no station, yard half, engine half or CXL port, and no tile. -/
abbrev Awake (s : State) : Prop := s.power.isl = [] ∧ ∀ t, t < 168 → rd PWR_TILE_state t s = 0

/-- No station-master core is traced, so that its accesses leave no record (R424). -/
abbrev MastersUntraced (s : State) : Prop := ∀ k, k < 4 → smTracing k s = false

/-- No sector is marked or poisoned, no store holds an error, no record is armed, no mirror runs, and what holds memory is awake: a write changes the bytes written and nothing else. -/
abbrev PlainMem (s : State) : Prop :=
  s.chk = [] ∧ s.cxlPoison = [] ∧ s.storeErr = [] ∧ (∀ n, n < 28 → rd MST_STATUS_armed n s = 0) ∧ rd CUT_CONTROL_mirror_en 0 s = 0 ∧ Awake s

/-! ### Slot instructions -/

/-- A running tile `t` that holds no long word and has no exception to take, at an index of its program buffer, with slot `x` well formed in it and no register that `x` names awaited (R114 to R117, R135); it is neither traced nor single-stepped. -/
abbrev Ready (t : Nat) (x : SlotIn) (s : State) : Prop :=
  Sound s ∧ x.wf = true ∧ coreState t s = 1 ∧ (Machine.core t s).hold = none ∧ pendingDefer t s = none ∧ nextIx t s ≤ 2047
  ∧ interlocked (Machine.core t s) [x] = false ∧ (Machine.core t s).stepping = false ∧ traced t s = false

/-- The state of a field of the register table. -/
def fieldAt (k : Nat) (s : State) : Nat := Map.get (fun _ => 0) s.flds k

/-- Command `i` is slot `x` of a tile ready for it, and takes effect there (R115). -/
abbrev Fires (i : Instr) (t : Nat) (x : SlotIn) (s : State) : Prop := slotOf i = some (t, x) ∧ Ready t x s ∧ slotTakes (Machine.core t s) x = true

/-- From `s` to `u`, the core of tile `t` writes at most scalar registers `ss`, address registers `as`, predicates `ps`, vectors `vs` and Leroth rows `ws`. -/
def RegsKept (t : Nat) (ss : List (BitVec 5)) (as : List (BitVec 4)) (ps : List (BitVec 3)) (vs : List (BitVec 5)) (ws : List Nat) (s u : State) : Prop :=
  (∀ i, i ∉ ss → (Machine.core t u).sg i = (Machine.core t s).sg i)
  ∧ (∀ i, i ∉ as → (Machine.core t u).ag i = (Machine.core t s).ag i)
  ∧ (∀ i, i ∉ ps → (Machine.core t u).pr i = (Machine.core t s).pr i)
  ∧ (∀ i, i ∉ vs → (Machine.core t u).vg i = (Machine.core t s).vg i)
  ∧ (∀ w, w ∉ ws → w < 4 → (Machine.core t u).rowSt w = (Machine.core t s).rowSt w
      ∧ ∀ j, j < 64 → (Machine.core t u).rowW w j = (Machine.core t s).rowW w j ∧ (Machine.core t u).rowT w j = (Machine.core t s).rowT w j)

/-- Every register field but those of keys `ks`, and the next index and state of tile `t`, reads as before: every status, cause, counter and control field of the module. -/
def FieldsKept (t : Nat) (ks : List Nat) (s u : State) : Prop :=
  ∀ k, k ∉ ks → k ≠ TIL_CORE_STATUS_next_index.key t → k ≠ TIL_CORE_STATUS_state.key t → fieldAt k u = fieldAt k s

/-- Every other tile is as it was. -/
def TilesKept (t : Nat) (s u : State) : Prop := ∀ r, r ≠ t → tile r u = tile r s

/-- Every byte of device memory reads as before. -/
def MemKept (s u : State) : Prop := ∀ a, byteAt a u = byteAt a s

/-- The register files, `ks` and the bookkeeping of the core apart, nothing in the module changes: not its lane row, its accesses, another tile, another field, a byte of memory, or anything else that the state holds. -/
def SlotKept (t : Nat) (ss : List (BitVec 5)) (as : List (BitVec 4)) (ps : List (BitVec 3)) (vs : List (BitVec 5)) (ws ks : List Nat) (s u : State) : Prop :=
  RegsKept t ss as ps vs ws s u ∧ lrow t u = lrow t s ∧ (Machine.core t u).outst = (Machine.core t s).outst
  ∧ TilesKept t s u ∧ FieldsKept t ks s u ∧ MemKept s u ∧ { u with flds := s.flds, tiles := s.tiles } = s

/-- A report for the slot at `a`, from another module where `other`, may be written there (R266). -/
abbrev SlotOpen (a : Nat) (other : Bool) (s : State) : Prop :=
  other = true → mapped a 8 s = true ∧ protOk 3 a 8 false true s = true ∧ progLocked a 8 s = false ∧ wpHits 4 a 8 false true s = [] ∧ anyDown a 8 s = false

/-- An access of class `cls` and watchpoint source `src` is permitted, hits no watchpoint, and meets no unit that is down. -/
abbrev MayAccess (cls src a len : Nat) (r w : Bool) (s : State) : Prop :=
  mapped a len s = true ∧ protOk cls a len r w s = true ∧ (w && progLocked a len s) = false ∧ wpHits src a len r w s = [] ∧ anyDown a len s = false

/-- The access of a slot passes the checks of R112, and no watchpoint names its bytes. -/
abbrev Permitted (t ea len align : Nat) (r w : Bool) (s : State) : Prop :=
  ea % align = 0 ∧ ea < 2 ^ 48 ∧ mapped ea len s = true ∧ protOk (tileClass t s) ea len r w s = true ∧ (w && progLocked ea len s) = false
  ∧ wpHits 0 ea len r w s = []

/-- The long word has issued and the program goes on with the word that follows, or with the start of a loop that ends here (R114, R122). -/
def Advanced (t : Nat) (s u : State) : Prop :=
  coreState t u = 1 ∧ nextIx t u = min (loopEnds (nextIx t s) (Machine.core t s).loops).1 65535
  ∧ (Machine.core t u).loops = (loopEnds (nextIx t s) (Machine.core t s).loops).2

/-- What tile `t` looks like at an exception (R135, R136): stopped, with its cause, and its next index in EPC; no register of its core and no byte of memory has changed. -/
def Stopped (t code slot : Nat) (deferred : Bool) (s u : State) : Prop :=
  coreState t u = 3 ∧ rd TIL_CS_CAUSE_code t u = code ∧ rd TIL_CS_CAUSE_slot t u = slot ∧ rd TIL_CS_CAUSE_valid t u = 1
  ∧ on TIL_CS_CAUSE_deferred t u = deferred ∧ rd TIL_CS_EPC_val t u = nextIx t s
  ∧ (∀ i, (Machine.core t u).sg i = (Machine.core t s).sg i) ∧ (∀ i, (Machine.core t u).ag i = (Machine.core t s).ag i)
  ∧ (∀ i, (Machine.core t u).pr i = (Machine.core t s).pr i) ∧ (∀ i, (Machine.core t u).vg i = (Machine.core t s).vg i)
  ∧ (∀ w, w < 4 → (Machine.core t u).rowSt w = (Machine.core t s).rowSt w
      ∧ ∀ j, j < 64 → (Machine.core t u).rowW w j = (Machine.core t s).rowW w j ∧ (Machine.core t u).rowT w j = (Machine.core t s).rowT w j)
  ∧ (∀ a, byteAt a u = byteAt a s)

/-- Nothing beside tile `t` follows an exception there: it serves no command, and its lane row is suspended already. -/
abbrev StopsAlone (t : Nat) (s : State) : Prop :=
  Quiet s ∧ on TIL_LR_STATUS_suspended t s = true ∧ (lrow t s).suspBusy = none ∧ Unserved t s

/-! ### What a command leaves alone -/

/-- From `s` to `u` only the register fields of keys `ks` change, and nothing else of the module. -/
def OnlyFields (ks : List Nat) (s u : State) : Prop := { u with flds := s.flds } = s ∧ ∀ k, k ∉ ks → fieldAt k u = fieldAt k s

/-- From `s` to `u` only tile `t` and the register fields of keys `ks` change. -/
def OnlyTile (t : Nat) (ks : List Nat) (s u : State) : Prop :=
  { u with flds := s.flds, tiles := s.tiles } = s ∧ TilesKept t s u ∧ ∀ k, k ∉ ks → fieldAt k u = fieldAt k s

/-- Every field is as reset leaves it, but for the leak that is kept where one was found (R446). -/
def FieldsLost (leak : Bool) (u : State) : Prop :=
  (leak = false → u.flds = []) ∧ (leak = true → rd PWR_COOLANT_leak 0 u = 1 ∧ ∀ k, k ≠ PWR_COOLANT_leak.key 0 → fieldAt k u = 0)

/-- Every field but those of keys `ks` reads as before. -/
def OtherFields (ks : List Nat) (s u : State) : Prop := ∀ k, k ∉ ks → fieldAt k u = fieldAt k s

/-- Counter `f` at index `i` has gone on by `n`, modulo its width (R105). -/
def Counts (f : Fld) (i n : Nat) (s u : State) : Prop := rd f i u = (rd f i s + n) % 2 ^ f.w

/-- From `s` to `u` the bytes at `a` become `d`, and every other byte of device memory reads as before. -/
def Stored (a : Nat) (d : List Byte) (s u : State) : Prop :=
  ∀ x, byteAt x u = if a ≤ x ∧ x < a + d.length then d.getD (x - a) 0#8 else byteAt x s

/-- The byte at `y`, `old` before, after writes made in order. -/
def lastWrite (ws : List (Nat × List Byte)) (y : Nat) (old : Byte) : Byte :=
  ws.foldl (fun b w => if w.1 ≤ y ∧ y < w.1 + w.2.length then w.2.getD (y - w.1) 0#8 else b) old

/-- From `s` to `u` the writes `ws` are made in order, and every other byte of device memory reads as before. -/
def Writes (ws : List (Nat × List Byte)) (s u : State) : Prop := ∀ y, byteAt y u = lastWrite ws y (byteAt y s)

/-- From `s` to `u` only station `n` and the register fields of keys `ks` change. -/
def OnlyStation (n : Nat) (ks : List Nat) (s u : State) : Prop :=
  { u with flds := s.flds, stations := s.stations } = s ∧ (∀ m, m ≠ n → station m u = station m s) ∧ OtherFields ks s u

/-- A register whose fields take what is written, or keep it, with no effect beside: no field acts (WO), and none has a rule of its own elsewhere (R248, R260, R275, R312, R335, R363, R366, R374, R426). -/
def plainReg (r : Reg) : Bool :=
  (r.flds.all fun f => f.acc != .WO) && !([RTR_TT_CTL, RTR_TT_REDIR, RTR_CONTROL, ULP_FC_CAP, CUT_RTIME, CUT_RESUME_TIME, CUT_RT_CONFIG, HST_RING_TAIL, HST_CQ_HEAD,
    DBG_TRACE_CTL, DBG_BOX_HEAD, MSIX_DATA, BTC_REC_ADDR, BTC_REC_LEN].any fun x => x.id == r.id)

/-- The blocks other than HST, BTC and MSX answer: boot is not in recovery (R396). -/
abbrev Answers (s : State) : Prop := stage s ≠ 7

/-- BAR0 offset `o` answers a host write (R363, R379, R396). -/
abbrev Bar0Takes (o : Nat) (s : State) : Prop := s.boot.pcie = true ∧ Answers s ∧ ordersOnly o = false

/-- Port `p` is no link to the twin and not the one time comes from, so that its changes of state concern itself alone (R315, R332). -/
abbrev OwnPort (p : Nat) (s : State) : Prop := rd ULP_ROLE_role p s ≠ 7 ∧ (rd CUT_RT_CONFIG_parent 0 s ≠ p ∨ isRoot s = true)

/-- From `s` to `u` no other port, no tile and no byte of memory changes. -/
def PortAlone (p : Nat) (s u : State) : Prop := (∀ q, q ≠ p → port q u = port q s) ∧ u.tiles = s.tiles ∧ u.mem = s.mem

/-- From `s` to `u` only port `p` and the register fields of keys `ks` change. -/
def OnlyPort (p : Nat) (ks : List Nat) (s u : State) : Prop :=
  { u with flds := s.flds, ports := s.ports } = s ∧ (∀ q, q ≠ p → port q u = port q s) ∧ OtherFields ks s u

/-- Tile `t` holds the long word with slot `x` alone, which is to be tried again: no exception waits, no register is awaited, and it is neither traced nor single-stepped. -/
abbrev Held (t : Nat) (x : SlotIn) (s : State) : Prop :=
  Sound s ∧ x.wf = true ∧ (coreState t s = 1 ∨ coreState t s = 2) ∧ (Machine.core t s).hold = some [x] ∧ slotTakes (Machine.core t s) x = true
  ∧ pendingDefer t s = none ∧ nextIx t s ≤ 2047 ∧ interlocked (Machine.core t s) [x] = false ∧ (Machine.core t s).stepping = false ∧ traced t s = false

/-- From `s` to `u` one packet is injected: the response of type `typ` to request `p`, with its status and data (R265, R276, R278). -/
def Answered (p : Pkt) (typ status : Nat) (d : List Byte) (s u : State) : Prop :=
  ∃ r, u.injq = s.injq ++ [r] ∧ r.from_ = 16 ∧ r.pkt.typ = typ ∧ r.pkt.vc = 1 ∧ r.pkt.tt = rd RTR_CONTROL_stamp 0 s ∧ r.pkt.dst = p.src
    ∧ r.pkt.src = ownCoord s ∧ r.pkt.tag = p.tag ∧ r.pkt.ae = p.ca ∧ r.pkt.addr % 256 = status ∧ r.pkt.payload = d

/-- The completion rings of the core of ring `k` have room, no entry waits for one, and the module is bus master (R374, R381). -/
abbrev CqOpen (k : Nat) (s : State) : Prop := cqWaiting (k % 4) s = [] ∧ cqHeld (k % 4) s = false ∧ s.boot.masterOff = false

/-- Command `c` is the only one of its identifier, without a waybill and in no wrong pass, its completion ring has room, and the core of its ring is not traced (R424). -/
abbrev CanEnd (c : Cmd) (s : State) : Prop :=
  c ∈ s.host.cmds ∧ (s.host.cmds.map (·.id)).Nodup ∧ c.phase ≠ 3 ∧ c.tainted = false ∧ c.coll = none ∧ c.waybill = 0 ∧ CqOpen c.ring s ∧ smTracing (c.ring % 4) s = false

/-- Command `c` is the one that tile `t` serves. -/
abbrev Serves (c : Cmd) (t : Nat) (s : State) : Prop := (s.host.cmds.find? fun c => c.phase == 1 && c.ranks.any fun r => r.tile == t) = some c

/-- From `s` to `u` the next thing the host is sent is the completion entry of command `c`, at the tail of its ring, with its status, code, rank and tile, its identifier and its argument (R374). -/
def Entered (c : Cmd) (status code rank tl arg : Nat) (s u : State) : Prop :=
  ∃ w l, u.hostOut = s.hostOut ++ w :: l
    ∧ w.addr = rd HST_CQ_BASE_base c.ring s * 4096 + 32 * rd HST_CQ_TAIL_tail c.ring s
    ∧ w.data.length = 32 ∧ recNat w.data 0 1 = status ∧ recNat w.data 2 2 = code ∧ recNat w.data 4 1 = rank ∧ recNat w.data 5 2 % 512 = tl
    ∧ recNat w.data 8 8 = c.name ∧ recNat w.data 24 8 = arg

/-- From `s` to `u` command `c` leaves the module, and the next thing the host is sent is its completion entry, with its status and its argument. -/
def Completes (c : Cmd) (status arg : Nat) (s u : State) : Prop :=
  (∀ x ∈ u.host.cmds, x.id ≠ c.id) ∧ ∃ code rank tl, Entered c status code rank tl arg s u

/-! ### Families of slot instructions -/

/-- The command of a scalar register form. -/
def srInstr (o : SrOp) (h : Hd) (f : FSR) : Instr :=
  match o with
  | .add => .add h f | .sub => .sub h f | .and => .and h f | .or => .or h f | .xor => .xor h f | .shl => .shl h f | .shr => .shr h f
  | .sra => .sra h f | .min => .min h f | .max => .max h f | .minu => .minu h f | .maxu => .maxu h f | .mul => .mul h f
  | .mulhs => .mulhs h f | .mulhu => .mulhu h f | .div => .div h f | .divu => .divu h f | .rem => .rem h f | .remu => .remu h f
  | .clz => .clz h f | .ctz => .ctz h f | .popc => .popc h f

/-- The command of a scalar immediate form. -/
def siInstr (o : SiOp) (h : Hd) (f : FSI) : Instr :=
  match o with
  | .addi => .addi h f | .subi => .subi h f | .andi => .andi h f | .ori => .ori h f | .xori => .xori h f | .shli => .shli h f
  | .shri => .shri h f | .srai => .srai h f | .muli => .muli h f

/-- The command of a compare of two registers. -/
def cmpInstr (o : CmpOp) (h : Hd) (f : FPR) : Instr :=
  match o with
  | .eq => .cmpeq h f | .ne => .cmpne h f | .lt => .cmplt h f | .ltu => .cmpltu h f | .le => .cmple h f | .leu => .cmpleu h f

/-- The command of a compare with an immediate. -/
def cmpiInstr (o : CmpOp) (h : Hd) (f : FPI) : Instr :=
  match o with
  | .eq => .cmpeqi h f | .ne => .cmpnei h f | .lt => .cmplti h f | .ltu => .cmpltui h f | .le => .cmplei h f | .leu => .cmpleui h f

/-- The command of a predicate operation. -/
def ppInstr (o : PpOp) (h : Hd) (f : FPP) : Instr :=
  match o with
  | .pand => .pand h f | .por => .por h f | .pxor => .pxor h f | .pandn => .pandn h f

/-- The command of a scalar load. -/
def ldInstr (o : LdOp) (h : Hd) (f : FAM) : Instr :=
  match o with
  | .ldb => .ldb h f | .ldbu => .ldbu h f | .ldh => .ldh h f | .ldhu => .ldhu h f | .ldw => .ldw h f | .ldwu => .ldwu h f | .ldd => .ldd h f

/-- The command of a scalar store. -/
def stInstr (o : StOp) (h : Hd) (f : FAM) : Instr :=
  match o with
  | .stb => .stb h f | .sth => .sth h f | .stw => .stw h f | .std => .std h f

/-- The command of an atomic. -/
def amoInstr (o : AmoOp) (h : Hd) (sd : BitVec 5) (aa : BitVec 4) (sx : BitVec 5) : Instr :=
  match o with
  | .add => .amoadd h sd aa sx | .swap => .amoswap h sd aa sx | .maxu => .amomaxu h sd aa sx

/-- The command of a vector instruction. -/
def vInstr (o : VOp) (h : Hd) (f : FV) : Instr :=
  match o with
  | .vadd => .vadd h f | .vsub => .vsub h f | .vmul => .vmul h f | .vfma => .vfma h f | .vmin => .vmin h f | .vmax => .vmax h f
  | .vabs => .vabs h f | .vneg => .vneg h f | .vcmp => .vcmp h f | .vsel => .vsel h f | .vcvt => .vcvt h f | .vunpk => .vunpk h f
  | .vexp2 => .vexp2 h f | .vrcp => .vrcp h f | .vrsqrt => .vrsqrt h f | .vlog2 => .vlog2 h f | .vsigm => .vsigm h f | .vacc => .vacc h f
  | .vacsq => .vacsq h f | .vacx => .vacx h f | .vwrd => .vwrd h f | .vwclr => .vwclr h f | .vmoment => .vmoment h f | .vrng => .vrng h f
  | .vupd => .vupd h f

/-! ### What the manual says of scalar results (R119, R120) -/

/-- The value R119 and R120 give a register form. -/
def srSays (o : SrOp) (a b : U64) : U64 :=
  match o with
  | .add => a + b
  | .sub => a - b
  | .and => a &&& b
  | .or => a ||| b
  | .xor => a ^^^ b
  | .shl => a <<< (b.toNat % 64)
  | .shr => a >>> (b.toNat % 64)
  | .sra => a.sshiftRight (b.toNat % 64)
  | .min => if a.slt b then a else b
  | .max => if a.slt b then b else a
  | .minu => if a < b then a else b
  | .maxu => if a < b then b else a
  | .mul => a * b
  | .mulhs => (a.signExtend 128 * b.signExtend 128).extractLsb' 64 64
  | .mulhu => (a.setWidth 128 * b.setWidth 128).extractLsb' 64 64
  | .div => if b = 0#64 then BitVec.allOnes 64 else a.sdiv b
  | .divu => if b = 0#64 then BitVec.allOnes 64 else a / b
  | .rem => if b = 0#64 then a else a.srem b
  | .remu => if b = 0#64 then a else a % b
  | .clz => BitVec.ofNat 64 ((List.range 64).takeWhile fun i => !a.getLsbD (63 - i)).length
  | .ctz => BitVec.ofNat 64 ((List.range 64).takeWhile fun i => !a.getLsbD i).length
  | .popc => BitVec.ofNat 64 ((List.range 64).countP fun i => a.getLsbD i)

/-- Whether a register form sets sov (R120): its signed result differs from the exact one. -/
def srOverflows (o : SrOp) (a b : U64) : Bool :=
  match o with
  | .add => a.saddOverflow b
  | .sub => a.ssubOverflow b
  | .mul => a.smulOverflow b
  | .div => a == BitVec.intMin 64 && b == BitVec.allOnes 64
  | _ => false

/-- What special register `n` of tile `t` holds (R109, R110, R142, R405). -/
def specialSays (t n : Nat) (s : State) : Nat :=
  match n with
  | 0 => rd TIL_CS_STATUS_sov t s + 2 * rd TIL_CS_STATUS_dzero t s + 4 * rd TIL_CS_STATUS_sig_lost t s + 8 * rd TIL_CS_STATUS_sh_busy t s
  | 1 => rd TIL_CS_CAUSE_code t s + 2 ^ 8 * rd TIL_CS_CAUSE_slot t s + 2 ^ 11 * rd TIL_CS_CAUSE_deferred t s + 2 ^ 12 * rd TIL_CS_CAUSE_valid t s
      + 2 ^ 13 * rd TIL_CS_CAUSE_lr_suspended t s
  | 2 => rd TIL_CS_EPC_val t s
  | 3 => rd TIL_CS_EADDR_val t s
  | 4 => rd TIL_CS_LR_EPC_val t s
  | 5 => t % 2 ^ 8 + 2 ^ 8 * rd TIL_CS_TILE_ID_rank t s
  | 6 => 0x210000000000 + t * 0x400000
  | 7 => rd TIL_CS_EVT_val t s
  | 8 => (s.cycle - Map.get (fun _ => 0) s.power.skips t - (Machine.core t s).cycle0) % 2 ^ 64
  | 9 => now s
  | 10 => rd TIL_CS_VSEED_val t s
  | 11 => rd TIL_CS_VTID_val t s
  | 12 => rd TIL_CS_VFLAGS_val t s
  | 13 => rd TIL_CS_SHN_GRANT_LO_val t s
  | 14 => rd TIL_CS_SHN_GRANT_HI_val t s
  | 15 => rd TIL_CS_CMDARG_val t s
  | _ => 0

/-- Whether a register form sets dzero (R120). -/
def srDivides (o : SrOp) : Bool := o == .div || o == .divu || o == .rem || o == .remu

/-- What a compare tests (R119). -/
def cmpSays (o : CmpOp) (a b : U64) : Bool :=
  match o with
  | .eq => decide (a = b)
  | .ne => decide (a ≠ b)
  | .lt => a.slt b
  | .ltu => a.ult b
  | .le => a.sle b
  | .leu => a.ule b

/-! ### Collectives (R39, R294, R297) -/

/-- The sum at local index `i` of a collective with descriptor `d`, its word and its tag, once elements `ys` are added from local index `i0` on; `whole` where they came as whole words, of which one out of range is not added (R13, R35, R294). -/
def sumAfter (d : List Byte) (whole : Bool) (ys : List (Int × Byte)) (i0 i : Nat) (s : State) : Int × Byte :=
  let old := (BitVec.ofNat 576 (ofLe (cells (accWord d i) 72 s))).toInt
  let tag := byteAt (accTag d i) s
  if i0 ≤ i ∧ i < i0 + ys.length then
    let y := ys.getD (i - i0) (0, 0#8)
    if whole && !inRange y.1 then (old, tag ||| y.2 ||| tOvf ||| (if y.1 < 0 then tNinf else tPinf)) else ((toWord (old + y.1)).toInt, tag ||| y.2)
  else (old, tag)

/-- The words and tags of `n` owned elements from local index `i` on lie in the GDDR7 tier (R211), are mapped, and in units that have not failed. -/
abbrev SumsOpen (d : List Byte) (i n : Nat) (s : State) : Prop :=
  (∀ m, m < n → mapped (accWord d (i + m)) 72 s = true ∧ anyDown (accWord d (i + m)) 72 s = false
    ∧ mapped (accTag d (i + m)) 1 s = true ∧ anyDown (accTag d (i + m)) 1 s = false ∧ whereOf (accWord d (i + m)) s = .gddr ∧ whereOf (accTag d (i + m)) s = .gddr)
  ∧ mapped (accTag d i) n s = true ∧ anyDown (accTag d i) n s = false

/-- A sum leaves the window of its block (R39). -/
abbrev outOfWindow (e : FloorEnt) (w : Int) : Bool := (placeWindow w e.floor (if e.wide then 64 else 32)).isNone

/-- The command of the collective under key `k` is `c`, which can end, and the collective leaves its summary word alone behind: no interrupt, no event of a tile, nothing more to send. -/
abbrev CollEnds (k : Nat) (c : Cmd) (s : State) : Prop :=
  k < 256 ∧ (∃ id, (coll k s).cmd = some id ∧ cmdOf id s = some c) ∧ CanEnd c s ∧ gIrq (coll k s).desc = false ∧ gSig (coll k s).desc = false
  ∧ (coll k s).wq = [] ∧ (coll k s).due = [] ∧ mapped (gSummary (coll k s).desc) 8 s = true ∧ anyDown (gSummary (coll k s).desc) 8 s = false

/-- From `s` to `u` the collective under key `k` completes with code `code` and status byte `st`: its cid is free, its summary word is R304's, and its command completes (R299). -/
def CollEnded (k : Nat) (c : Cmd) (code : Nat) (st : Byte) (s u : State) : Prop :=
  let d := (coll k s).desc
  let refuse := hasTag st (tNan ||| tPinf ||| tNinf) || (hasTag st tWov && hasTag st tOvf)
  (coll k u).phase = 0 ∧ rd COL_CID_last_code k u = code ∧ rd COL_CID_code_valid k u = 1
  ∧ recNat (cells (gSummary d) 8 u) 0 8 = st.toNat + (if refuse then 2 ^ 8 else 0) + gMode d * 2 ^ 10 + code * 2 ^ 12
  ∧ Completes c code 0 s u

/-! ### What a shunting channel moves (R57, R222 to R227) -/

/-- `n` bytes whose bit `x` is `f x`, bit 0 of a byte its least significant one. -/
def bitRow (n : Nat) (f : Nat → Bool) : List Byte :=
  (List.range n).map fun i => BitVec.ofNat 8 (((List.range 8).map fun x => if f (8 * i + x) then 2 ^ x else 0).sum)

/-- The value of element (`r`, `k`) that a TRSC reads, with its tag: source rows `src`, scale bytes `sc`. -/
def trscTerm (d : SDesc) (src sc : Nat → List Byte) (r k : Nat) : Int × Byte :=
  let t := plainTerm (scaleDec ((sc r).getD (k / 32) 0#8).toNat (decodeEl (ctlFmt d.conv) (elemOf d.ebits (src r) k))) 0
  (t.val, t.tag)

/-- The scale byte a TRSC gives group `g` of 32 rows of column `k`. -/
def trscScale (d : SDesc) (src sc : Nat → List Byte) (k g : Nat) : Nat :=
  blockScale (ctlFmt d.conv) ((List.range 32).map fun i => trscTerm d src sc (32 * g + i) k)

/-- The code a TRSC writes for source element (`r`, `k`): converted under the scale of its group, a NaN where that scale is 255. -/
def trscCode (d : SDesc) (src sc : Nat → List Byte) (r k : Nat) : Nat :=
  let e := trscTerm d src sc r k
  let x := trscScale d src sc k (r / 32)
  (convEl (ctlFmt d.conv) (if x = 255 then 0 else scaleK x) (ctlRM d.conv) (ctlSat d.conv) 0 e.1 (if x = 255 then e.2 ||| tNan else e.2)).enc

/-- Row `r` of what a descriptor writes, from the rows of its source, and for a TRSC their scale bytes: COPY, ILV, DILV, BPACK, BUNPK, the three swaps, HSWAP32, TRSP and TRSC. -/
def movedRow (d : SDesc) (src sc : Nat → List Byte) (r : Nat) : List Byte :=
  let w := d.ebits
  let n := w / 8
  let at_ := fun (p i : Nat) => (src p).getD i 0#8
  let turn := fun (m : Nat) => (List.range d.count).map fun i => at_ r (i / m * m + (m - 1 - i % m))
  match d.xform with
  | 0 => src r
  | 1 => (List.range d.count).map fun i => at_ (i / n % d.factor) (i / n / d.factor * n + i % n)
  | 2 => (List.range (d.count / d.factor)).map fun i => at_ 0 ((i / n * d.factor + r) * n + i % n)
  | 3 => bitRow d.count fun x => (elemOf w (src r) (64 * (x / (64 * w)) + x % 64)).testBit (x / 64 % w)
  | 4 => bitRow d.count fun x => let j := 64 * w * (x / w / 64) + 64 * (x % w) + x / w % 64
                                 (at_ r (j / 8)).getLsbD (j % 8)
  | 5 => turn 2
  | 6 => turn 4
  | 7 => turn 8
  | 8 => (List.range d.count).map fun i => at_ r (i / 4 * 4 + (i + 2) % 4)
  | 9 => bitRow (d.rows * w / 8) fun x => (elemOf w (src (x / w)) r).testBit (x % w)
  | _ => bitRow (d.rows * w / 8) fun x => (trscCode d src sc (x / w) r).testBit (x % w)

/-- The row `r` of a source and of its scale bytes. -/
def srcRow (d : SDesc) (s : State) (r : Nat) : List Byte := cells (d.src + r * d.sp) d.srcShape.2 s
def scaleRow (d : SDesc) (s : State) (r : Nat) : List Byte := cells (d.sscale + r * (d.cols / 32)) (d.cols / 32) s

/-- What a descriptor writes, in order: its rows, those of a TRSC each behind its scale bytes. -/
def moved (d : SDesc) (s : State) : List (Nat × List Byte) :=
  (List.range d.dstShape.1).flatMap fun r =>
    (if d.xform = 10 then [(d.dscale + r * (d.rows / 32), (List.range (d.rows / 32)).map fun g => BitVec.ofNat 8 (trscScale d (srcRow d s) (scaleRow d s) r g))] else [])
      ++ [(d.dst + r * d.dp, movedRow d (srcRow d s) (scaleRow d s) r)]

/-- Every source row of a descriptor, and the scale bytes of a TRSC, may be read. -/
abbrev SourceOpen (d : SDesc) (s : State) : Prop :=
  (∀ r, r < d.srcShape.1 → MayAccess 5 2 (d.src + r * d.sp) d.srcShape.2 true false s)
  ∧ (d.xform = 10 → MayAccess 5 2 d.sscale (d.rows * (d.cols / 32)) true false s)

/-! ### What a slab writes (R57, R172) -/

/-- The byte at `y`, `old` before, once element `i` of an output of format `fmt` at `base` is written as `enc`; a 4-bit element leaves the other half of its byte. -/
def putEl (fmt base i enc y : Nat) (old : Byte) : Byte :=
  if fmt ≠ 8 ∧ fmtBits fmt = 4 then (if y = base + i / 2 then BitVec.ofNat 8 (if i % 2 = 0 then old.toNat / 16 * 16 + enc % 16 else old.toNat % 16 + enc % 16 * 16) else old)
  else
    let w := if fmt = 8 then 72 else fmtBits fmt / 8
    if base + i * w ≤ y ∧ y < base + i * w + w then (leBytes enc w).getD (y - (base + i * w)) 0#8 else old

/-- The rows of slab `b` that unit `t` collects (R168). -/
def slabMine (d : List Byte) (t b : Nat) : List Nat := (slabRows d b).filter fun r => collector d r == t

/-- The element written for row `r` of vector `v`, from the collected words and tags, under scale exponent `k`. -/
def slabEl (d : List Byte) (k : Int) (word : Nat → Nat → L576) (tag : Nat → Nat → Byte) (r v : Nat) : OutEl :=
  outEl (xConv d) k (if ctlRM (xConv d) == .sr then rng32 (xSeed d) (xTid d) ((xElem d + v * xRows d + r) % 2 ^ 64) 1 else 0) 0 0 64 0 (wordInt (word r v)) (tag r v)

/-- The status byte of vector `v`, `old` before: the tags of its elements with it. -/
def slabStat (d : List Byte) (t b : Nat) (el : Nat → Nat → OutEl) (old : Byte) (v : Nat) : Byte := (slabMine d t b).foldl (fun a r => a ||| (el r v).tag) old

/-- The byte at `y`, `old` before, once unit `t` has written elements `el` of slab `b`, an L576 one with its tag byte, and behind them the status bytes `stat`. -/
def slabByte (d : List Byte) (t b : Nat) (el : Nat → Nat → OutEl) (stat : Nat → Byte) (y : Nat) (old : Byte) : Byte :=
  let fmt := ctlFmt (xConv d)
  let vs := List.range (xVecs d)
  let els := (slabMine d t b).foldl (fun o r => vs.foldl (fun o v =>
    let o := putEl fmt (xOut d + v * xOutPitch d) r (el r v).enc y o
    if fmt = 8 ∧ y = xTag d + v * xRows d + r then (el r v).tag else o) o) old
  vs.foldl (fun o v => if y = xStat d + 16 * b + v then stat v else o) els

/-- The places that unit `t` writes for slab `b`, with their lengths. -/
def slabPlaces (d : List Byte) (t b : Nat) : List (Nat × Nat) :=
  let fmt := ctlFmt (xConv d)
  (slabMine d t b).flatMap (fun r => (List.range (xVecs d)).flatMap fun v =>
    if fmt = 8 then [(xOut d + v * xOutPitch d + 72 * r, 72), (xTag d + v * xRows d + r, 1)]
    else if fmtBits fmt = 4 then [(xOut d + v * xOutPitch d + r / 2, 1)] else [(xOut d + v * xOutPitch d + r * (fmtBits fmt / 8), fmtBits fmt / 8)])
    ++ (List.range (xVecs d)).map fun v => (xStat d + 16 * b + v, 1)

/-! ### The lane row (R28, R30, R34, R77, R80 to R82) -/

/-- The addends of a step in lane `j` (R77): of stationary register `r` and the shared operand `op` with its scale bytes `sc`, under descriptor `d`. -/
def stepTerms (l : LaneRow) (d r : Nat) (op sc : List Byte) (pb : Nat) (neg : Bool) (floor j : Nat) : List Term :=
  (List.range (kOf (pSf d))).map fun e =>
    stepTerm (pSf d) (pOf d) (operand (pSf d) (Map.getList zb (laneReg r l) (256 * j) 256) (Map.getList zb (laneScl r l) (8 * j) 8) (pSs d) e)
      (operand (pOf d) op sc (pOs d) e) (lanePa r l) pb neg floor

/-- What addends add to a word. -/
def termsSum (ts : List Term) : L576 := toWord (ts.map Term.val).sum

/-- What addends add to a tag. -/
def termsTag (ts : List Term) : Byte := ts.foldl (fun a x => a ||| x.tag) 0#8

/-- The short accumulators of lane `j`. -/
def lanShorts (l : LaneRow) (j : Nat) : List Short := Map.getList (fun _ => ({} : Short)) l.shorts (8 * j) 8

/-- What entry (`set`, `i`, `j`) of the active set stands for: its word and, where the group is of its index, its lane's short accumulators (R82). -/
def rowValue (l : LaneRow) (set i j : Nat) : L576 :=
  (entry l set i j).1 + (if l.groupValid && l.groupIndex == i then toWord (shortsSum (lanShorts l j)) else 0#576)

/-- The group of short accumulators is as steps leave it: fewer than eight steps in it, no band in two slots of a lane, each accumulator within what its steps can add (R30, R81); a group that is not valid is empty. -/
def GroupSound (l : LaneRow) : Prop :=
  l.groupSteps < 8 ∧ l.groupIndex < 32 ∧ ∀ j, j < 64 →
    (l.groupValid = false → ∀ h ∈ lanShorts l j, h.valid = false)
    ∧ (((lanShorts l j).filter (·.valid)).map (·.band)).Nodup
    ∧ ∀ h ∈ lanShorts l j, h.valid = true → h.v.toInt.natAbs ≤ l.groupSteps * 2 ^ 37

/-- The lane-row exception that waits (R107). -/
def rowExc (code idx : Nat) (addr : Option Nat) : Defer := { code := code, slot := 5, addr := addr, lrEpc := some idx }

/-! ### The vector lanes (R128, R129, R145 to R150) -/

/-- The tag bits of lanes `ls` are ORed into VFLAGS of tile `t`. -/
def TagsRaised (t : Nat) (ls : List Nat) (tag : Nat → Byte) (s u : State) : Prop :=
  rd TIL_CS_VFLAGS_val t u = (rd TIL_CS_VFLAGS_val t s ||| (ls.foldl (fun b j => b ||| tag j) 0#8).toNat) % 2 ^ 8

/-- The value of an active lane of a vector instruction with one fp32 result: operands a, b, c of the lane, the core and the state before. -/
def laneSays (t : Nat) (o : VOp) (f : FV) (s : State) (j : Nat) : Option Nat :=
  let c := Machine.core t s
  let a := vlane (c.vg f.va) j
  let b := vlane (c.vg f.vb) j
  match o with
  | .vadd => some (f32Add a b)
  | .vsub => some (f32Sub a b)
  | .vmul => some (f32Mul a b)
  | .vfma => some (f32Fma a b (vlane (c.vg f.vc) j))
  | .vmin => some (f32Min a b)
  | .vmax => some (f32Max a b)
  | .vabs => some (if a % 2 ^ 31 > 0x7F800000 then 0x7FC00000 else a % 2 ^ 31)
  | .vneg => some (if a % 2 ^ 31 > 0x7F800000 then 0x7FC00000 else (a + 2 ^ 31) % 2 ^ 32)
  | .vsel => some (if (c.pr (f.imm.setWidth 3)).getLsbD j then a else b)
  | .vrcp => some (f32Rcp a)
  | .vrsqrt => some (f32Rsqrt a)
  | .vlog2 => some (f32Log2 a)
  | .vsigm => some (f32Sigm a)
  | .vexp2 => some (f32Exp2Att a).enc
  | .vrng => some (rng32 (rd TIL_CS_VSEED_val t s) (rd TIL_CS_VTID_val t s) ((c.sg f.vb).toNat + j) f.imm.toNat)
  | _ => none

end Sys2Proof
end

