-- ==== Sys2Proof/Certificates/Slice0/Obligations.lean ====
section
/-! DEFINITION. The statements about the model for the provers: what the manual's numbered rules say each family of commands does, where it completes, and what it leaves as it was. -/

open Sys2Proof Sys2Proof.Machine

/-! ### The machine as a whole -/

/-- A step takes the command at the front of the queue and answers what that command does with the rest of the queue waiting. On an empty queue one cycle of the main clock passes, and before boot has begun nothing changes: that an empty queue lets a cycle pass is the model's choice (log entry 2). -/
def Obligations.StepRunsFrontCommand : Prop :=
  (∀ (c : Instr) (s : State), step { s with pending := c :: s.pending } = exec c s) ∧
  (∀ s : State, s.pending = [] → step s = .next (tick s) ∧ (stage s = 0 → tick s = s))

/-- Every step that answers a next state leaves no unit's report waiting: what stops, ends, fails or is saved inside a command is acted on before that command ends (R320, R353, R372). -/
def Obligations.StepLeavesNoReportWaiting : Prop :=  ∀ s t : State, Reported s → step s = .next t → Reported t

/-- Every step keeps device memory in its canonical form. -/
def Obligations.StepKeepsMemoryCanonical : Prop :=  ∀ s t : State, Memory.wf s.mem = true → step s = .next t → Memory.wf t.mem = true

/-- Every step keeps the sparse tables of the state in their canonical form. -/
def Obligations.StepKeepsTablesCanonical : Prop :=  ∀ s t : State, tablesWf s = true → step s = .next t → tablesWf t = true

/-- The machine right after reset is sound, with an empty queue and nothing in progress; no byte of memory is listed, every tile, station and port is in its first state, and every register field holds the value of its Reset column (R9), among them the identity, the thermal limit, the hold cap and the vector map. -/
def Obligations.ResetIsSound : Prop :=
  Sound State.reset ∧ Quiet State.reset ∧ State.reset.pending = [] ∧ State.reset.mem = [] ∧ stage State.reset = 0
  ∧ (∀ f i, rd f i State.reset = f.rst0 i)
  ∧ (∀ t, coreState t State.reset = 0 ∧ tile t State.reset = {}) ∧ (∀ n, station n State.reset = {}) ∧ (∀ p, port p State.reset = {} ∧ portState p State.reset = 0)
  ∧ rd BTC_ID_device 0 State.reset = 9 ∧ rd BTC_ID_stepping 0 State.reset = 0xB0 ∧ rd PWR_THERMAL_trip_c 0 State.reset = 115 ∧ rd PWR_STATUS_hold_cap 0 State.reset = 192
  ∧ rd ITG_STATUS_poss_west 0 State.reset = 0xFF ∧ rd ITG_STATUS_poss_east 0 State.reset = 0xFF
  ∧ (∀ v, rd MSIX_DATA_mask v State.reset = 1 ∧ rd HST_VEC_MAP_vector v State.reset = v)

/-- Decoding the word of a well-formed slot instruction gives that instruction back, with every field at every value its encoding admits (R115, R118, R121, R124, R126, R128, R131). -/
def Obligations.SlotWordRoundTrip : Prop := ∀ x : SlotIn, x.wf = true → decodeSlot x.k x.word = some x

/-- No command is refused, and none faults but a BAR2 access that crosses its window (R364). -/
def Obligations.OnlyCrossingBar2AccessFaults : Prop :=
  ∀ (c : Instr) (s : State),
    (∃ t, exec c s = .next t) ∨
    (∃ q, c = .bar2Access q ∧ exec c s = .fault .bar2WindowCrossed ∧
      (match q with
       | .read o n => o + n > s.bar2Size
       | .write o d _ => o + d.length > s.bar2Size
       | _ => False))

/-! ### Scalar slots (R109, R116, R119, R120) -/

/-- The scalar register forms: sd takes the value of R119 and R120 (s0 stays 0), sov and dzero are set where R120 says so and otherwise keep their values, and nothing else changes. The scalar immediate forms: as the register forms, with the sign-extended immediate in place of s[sb]. LI writes the sign-extended 47-bit immediate; LIH writes bits 63 to 47 and keeps bits 46 to 0. No flag changes. -/
def Obligations.ScalarResults : Prop :=
  (∀ (o : SrOp) (h : Hd) (f : FSR) (x : SlotIn) (s : State), Fires (srInstr o h f) h.t.val x s →
      let t := h.t.val
      let a := (Machine.core t s).sg f.sa
      let b := (Machine.core t s).sg f.sb
      ∃ u, exec (srInstr o h f) s = .next u
        ∧ (Machine.core t u).sg f.sd = (if f.sd = 0#5 then 0#64 else srSays o a b)
        ∧ rd TIL_CS_STATUS_sov t u = (if srOverflows o a b then 1 else rd TIL_CS_STATUS_sov t s)
        ∧ rd TIL_CS_STATUS_dzero t u = (if srDivides o && b == 0#64 then 1 else rd TIL_CS_STATUS_dzero t s)
        ∧ Advanced t s u
        ∧ SlotKept t [f.sd] [] [] [] [] [TIL_CS_STATUS_sov.key t, TIL_CS_STATUS_dzero.key t] s u) ∧
  (∀ (o : SiOp) (h : Hd) (f : FSI) (x : SlotIn) (s : State), Fires (siInstr o h f) h.t.val x s →
      let t := h.t.val
      let a := (Machine.core t s).sg f.sa
      let b := f.imm.signExtend 64
      ∃ u, exec (siInstr o h f) s = .next u
        ∧ (Machine.core t u).sg f.sd = (if f.sd = 0#5 then 0#64 else srSays (siBase o) a b)
        ∧ rd TIL_CS_STATUS_sov t u = (if srOverflows (siBase o) a b then 1 else rd TIL_CS_STATUS_sov t s)
        ∧ Advanced t s u
        ∧ SlotKept t [f.sd] [] [] [] [] [TIL_CS_STATUS_sov.key t] s u) ∧
  ((∀ (h : Hd) (sd : BitVec 5) (imm : BitVec 47) (x : SlotIn) (s : State), Fires (.li h sd imm) h.t.val x s →
      ∃ u, exec (.li h sd imm) s = .next u
        ∧ (Machine.core h.t.val u).sg sd = (if sd = 0#5 then 0#64 else imm.signExtend 64)
        ∧ Advanced h.t.val s u ∧ SlotKept h.t.val [sd] [] [] [] [] [] s u) ∧
    (∀ (h : Hd) (sd : BitVec 5) (imm : BitVec 17) (x : SlotIn) (s : State), Fires (.lih h sd imm) h.t.val x s →
      ∃ u, exec (.lih h sd imm) s = .next u
        ∧ (Machine.core h.t.val u).sg sd = (if sd = 0#5 then 0#64 else imm ++ ((Machine.core h.t.val s).sg sd).extractLsb' 0 47)
        ∧ Advanced h.t.val s u ∧ SlotKept h.t.val [sd] [] [] [] [] [] s u))

/-- Compares write all ones or all zeros to p[pd], predicate operations their bitwise result; p0 discards the write and reads as all ones. MFSR reads each of the sixteen special registers; MTSR writes the four that R109 lets software write, and no other field. MTSR to one of the other twelve raises the permission exception, and a number above 15 illegal-instruction: on a tile that serves no command, with its lane row suspended already. -/
def Obligations.CompareAndSpecialRegisterResults : Prop :=
  ((∀ (o : CmpOp) (h : Hd) (f : FPR) (x : SlotIn) (s : State), Fires (cmpInstr o h f) h.t.val x s →
      let c := Machine.core h.t.val s
      ∃ u, exec (cmpInstr o h f) s = .next u
        ∧ (Machine.core h.t.val u).pr f.pd = (if f.pd = 0#3 ∨ cmpSays o (c.sg f.sa) (c.sg f.sb) = true then BitVec.allOnes 64 else 0#64)
        ∧ Advanced h.t.val s u ∧ SlotKept h.t.val [] [] [f.pd] [] [] [] s u) ∧
    (∀ (o : CmpOp) (h : Hd) (f : FPI) (x : SlotIn) (s : State), Fires (cmpiInstr o h f) h.t.val x s →
      let c := Machine.core h.t.val s
      ∃ u, exec (cmpiInstr o h f) s = .next u
        ∧ (Machine.core h.t.val u).pr f.pd = (if f.pd = 0#3 ∨ cmpSays o (c.sg f.sa) (f.imm.signExtend 64) = true then BitVec.allOnes 64 else 0#64)
        ∧ Advanced h.t.val s u ∧ SlotKept h.t.val [] [] [f.pd] [] [] [] s u) ∧
    (∀ (o : PpOp) (h : Hd) (f : FPP) (x : SlotIn) (s : State), Fires (ppInstr o h f) h.t.val x s →
      let c := Machine.core h.t.val s
      ∃ u, exec (ppInstr o h f) s = .next u
        ∧ (Machine.core h.t.val u).pr f.pd = (if f.pd = 0#3 then BitVec.allOnes 64 else match o with
            | .pand => c.pr f.pa &&& c.pr f.pb
            | .por => c.pr f.pa ||| c.pr f.pb
            | .pxor => c.pr f.pa ^^^ c.pr f.pb
            | .pandn => c.pr f.pa &&& ~~~(c.pr f.pb))
        ∧ Advanced h.t.val s u ∧ SlotKept h.t.val [] [] [f.pd] [] [] [] s u)) ∧
  ((∀ (h : Hd) (sd : BitVec 5) (n : BitVec 8) (x : SlotIn) (s : State), Fires (.mfsr h sd n) h.t.val x s → n.toNat < 16 →
      let t := h.t.val
      ∃ u, exec (.mfsr h sd n) s = .next u
        ∧ (Machine.core t u).sg sd = (if sd = 0#5 then 0#64 else BitVec.ofNat 64 (specialSays t n.toNat s))
        ∧ Advanced t s u ∧ SlotKept t [sd] [] [] [] [] [] s u) ∧
    (∀ (h : Hd) (sa : BitVec 5) (n : BitVec 8) (x : SlotIn) (s : State), Fires (.mtsr h sa n) h.t.val x s →
        n = 0#8 ∨ n = 10#8 ∨ n = 11#8 ∨ n = 12#8 →
      let t := h.t.val
      let v := ((Machine.core t s).sg sa).toNat
      ∃ u, exec (.mtsr h sa n) s = .next u
        ∧ (n = 0#8 → rd TIL_CS_STATUS_sov t u = v % 2 ∧ rd TIL_CS_STATUS_dzero t u = v / 2 % 2 ∧ rd TIL_CS_STATUS_sig_lost t u = v / 4 % 2
            ∧ rd TIL_CS_STATUS_sh_busy t u = v / 8 % 2)
        ∧ (n = 10#8 → rd TIL_CS_VSEED_val t u = v)
        ∧ (n = 11#8 → rd TIL_CS_VTID_val t u = v % 2 ^ 32)
        ∧ (n = 12#8 → rd TIL_CS_VFLAGS_val t u = v % 2 ^ 8)
        ∧ Advanced t s u
        ∧ SlotKept t [] [] [] [] []
            (if n = 0#8 then [TIL_CS_STATUS_sov.key t, TIL_CS_STATUS_dzero.key t, TIL_CS_STATUS_sig_lost.key t, TIL_CS_STATUS_sh_busy.key t]
             else if n = 10#8 then [TIL_CS_VSEED_val.key t] else if n = 11#8 then [TIL_CS_VTID_val.key t] else [TIL_CS_VFLAGS_val.key t]) s u) ∧
    (∀ (h : Hd) (r : BitVec 5) (n : BitVec 8) (x : SlotIn) (s : State), StopsAlone h.t.val s →
      let t := h.t.val
      (Fires (.mtsr h r n) t x s → n.toNat < 16 → n ∉ [0#8, 10#8, 11#8, 12#8] → ∃ u, exec (.mtsr h r n) s = .next u ∧ Stopped t 0xA 0 false s u ∧ TilesKept t s u) ∧
      (Fires (.mtsr h r n) t x s → 16 ≤ n.toNat → ∃ u, exec (.mtsr h r n) s = .next u ∧ Stopped t 1 0 false s u ∧ TilesKept t s u) ∧
      (Fires (.mfsr h r n) t x s → 16 ≤ n.toNat → ∃ u, exec (.mfsr h r n) s = .next u ∧ Stopped t 1 0 false s u ∧ TilesKept t s u)))

/-! ### Control slots (R121 to R123, R133) -/

/-- JMP, CALL and JMPR set the next index (CALL also the return index in sd, s0 staying 0); LOOP and LOOPI push a loop or, with a count of 0, go past its end; LPOP discards the innermost loop. A JMP, CALL or JMPR whose target is above 2,047 stops the core with address-error in slot 2; a loop whose end is not behind it, a fifth nested loop, and LPOP with no loop stop it as decoding faults of slot 2; and whatever stands at an index above 2,047, the fetch itself stops it with address-error in slot 2. An index that would pass 65,535 stays there (log entry 15), and a fifth loop faults whatever its count (log entry 93). The tile that stops serves no command, and its lane row is suspended already. -/
def Obligations.BranchTargets : Prop :=
  ∀ (h : Hd) (x : SlotIn) (s : State),
    let t := h.t.val
    let c := Machine.core t s
    let idx := nextIx t s
    (∀ a : BitVec 16, Fires (.jmp h a) t x s → a.toNat ≤ 2047 →
      ∃ u, exec (.jmp h a) s = .next u ∧ nextIx t u = a.toNat ∧ (Machine.core t u).loops = c.loops ∧ coreState t u = 1 ∧ SlotKept t [] [] [] [] [] [] s u) ∧
    (∀ (a : BitVec 16) (sd : BitVec 5), Fires (.call h a sd) t x s → a.toNat ≤ 2047 →
      ∃ u, exec (.call h a sd) s = .next u ∧ nextIx t u = a.toNat ∧ (Machine.core t u).loops = c.loops ∧ coreState t u = 1
        ∧ (Machine.core t u).sg sd = (if sd = 0#5 then 0#64 else BitVec.ofNat 64 (idx + 1)) ∧ SlotKept t [sd] [] [] [] [] [] s u) ∧
    (∀ sa : BitVec 5, Fires (.jmpr h sa) t x s → (c.sg sa).toNat % 65536 ≤ 2047 →
      ∃ u, exec (.jmpr h sa) s = .next u ∧ nextIx t u = (c.sg sa).toNat % 65536 ∧ (Machine.core t u).loops = c.loops ∧ coreState t u = 1
        ∧ SlotKept t [] [] [] [] [] [] s u) ∧
    (∀ (e : BitVec 16) (sa : BitVec 5), Fires (.loop h e sa) t x s → idx < e.toNat → c.loops.length < 4 →
      ∃ u, exec (.loop h e sa) s = .next u ∧ coreState t u = 1 ∧ SlotKept t [] [] [] [] [] [] s u
        ∧ (let n := (c.sg sa).toNat % 2 ^ 32
           if n = 0 then nextIx t u = min (e.toNat + 1) 65535 ∧ (Machine.core t u).loops = c.loops
           else (nextIx t u, (Machine.core t u).loops) = (idx + 1, { start := idx + 1, fin := e.toNat, count := n } :: c.loops))) ∧
    (∀ (e : BitVec 16) (n : BitVec 19), Fires (.loopi h e n) t x s → idx < e.toNat → c.loops.length < 4 →
      ∃ u, exec (.loopi h e n) s = .next u ∧ coreState t u = 1 ∧ SlotKept t [] [] [] [] [] [] s u
        ∧ (if n = 0#19 then nextIx t u = min (e.toNat + 1) 65535 ∧ (Machine.core t u).loops = c.loops
           else (nextIx t u, (Machine.core t u).loops) = (idx + 1, { start := idx + 1, fin := e.toNat, count := n.toNat } :: c.loops))) ∧
    (∀ (l : Loop) (ls : List Loop), Fires (.lpop h) t x s → c.loops = l :: ls →
      ∃ u, exec (.lpop h) s = .next u ∧ coreState t u = 1 ∧ SlotKept t [] [] [] [] [] [] s u
        ∧ nextIx t u = min (loopEnds idx ls).1 65535 ∧ (Machine.core t u).loops = (loopEnds idx ls).2) ∧
    (StopsAlone t s →
      (∀ i : Instr, Fires i t x s →
          (match x.op with
           | .jmp a => 2047 < a.toNat
           | .call a _ => 2047 < a.toNat
           | .jmpr sa => 2047 < (c.sg sa).toNat % 65536
           | _ => False) →
        ∃ u, exec i s = .next u ∧ Stopped t 3 2 false s u ∧ TilesKept t s u) ∧
      (∀ i : Instr, Fires i t x s →
          (match x.op with
           | .loop e _ => e.toNat ≤ idx ∨ 4 ≤ c.loops.length
           | .loopi e _ => e.toNat ≤ idx ∨ 4 ≤ c.loops.length
           | .lpop => c.loops = []
           | _ => False) →
        ∃ u, exec i s = .next u ∧ Stopped t 1 2 false s u ∧ TilesKept t s u) ∧
      (∀ i : Instr, slotOf i = some (t, x) → Sound s → coreState t s = 1 → c.hold = none → pendingDefer t s = none → 2047 < idx → idx ≤ 65535 →
        ∃ u, exec i s = .next u ∧ Stopped t 3 2 false s u ∧ TilesKept t s u))

/-- WAIT goes on when a selected event bit is set and otherwise holds the core in state 2; with no bit selected it stops the core with illegal-operand in slot 2, and on a tile that serves no command nothing follows. EVCLR clears the selected bits; NOP and LRNOP only advance. LRSYNC and FENCE go on at once when what they wait for has finished, and change nothing else; else the core is held, in state 2 at LRSYNC and in state 1 at FENCE. END holds the core in state 2 until its work is done; END_COMPLETE then leaves the core idle with its loops released. On a tile that serves no command nothing else changes; of a command of one rank and no schedule it is the end, and the command's completion entry holds END's code, rank 0 and the tile. -/
def Obligations.WaitsSyncsAndEnds : Prop :=
  ((∀ (h : Hd) (sa : BitVec 5) (x : SlotIn) (s : State), Fires (.wait h sa) h.t.val x s → (Machine.core h.t.val s).sg sa ≠ 0#64 →
      ∃ u, exec (.wait h sa) s = .next u
        ∧ (if rd TIL_CS_EVT_val h.t.val s &&& ((Machine.core h.t.val s).sg sa).toNat = 0
           then coreState h.t.val u = 2 ∧ nextIx h.t.val u = nextIx h.t.val s
           else Advanced h.t.val s u)
        ∧ SlotKept h.t.val [] [] [] [] [] [] s u) ∧
    (∀ (h : Hd) (sa : BitVec 5) (x : SlotIn) (s : State), Fires (.wait h sa) h.t.val x s → (Machine.core h.t.val s).sg sa = 0#64 → Quiet s →
        Unserved h.t.val s →
      ∃ u, exec (.wait h sa) s = .next u ∧ Stopped h.t.val 2 2 false s u ∧ TilesKept h.t.val s u) ∧
    (∀ (h : Hd) (sa : BitVec 5) (x : SlotIn) (s : State), Fires (.evclr h sa) h.t.val x s →
      ∃ u, exec (.evclr h sa) s = .next u
        ∧ (∀ k, k < 64 → (rd TIL_CS_EVT_val h.t.val u).testBit k = ((rd TIL_CS_EVT_val h.t.val s).testBit k && !((Machine.core h.t.val s).sg sa).getLsbD k))
        ∧ Advanced h.t.val s u ∧ SlotKept h.t.val [] [] [] [] [] [TIL_CS_EVT_val.key h.t.val] s u) ∧
    (∀ (h : Hd) (k : Fin 8) (x : SlotIn) (s : State), Fires (.nop h k) h.t.val x s →
      ∃ u, exec (.nop h k) s = .next u ∧ Advanced h.t.val s u ∧ SlotKept h.t.val [] [] [] [] [] [] s u) ∧
    (∀ (h : Hd) (x : SlotIn) (s : State), Fires (.lrnop h) h.t.val x s →
      ∃ u, exec (.lrnop h) s = .next u ∧ Advanced h.t.val s u ∧ SlotKept h.t.val [] [] [] [] [] [] s u)) ∧
  ((∀ (h : Hd) (x : SlotIn) (s : State), Fires (.lrsync h) h.t.val x s →
      ∃ u, exec (.lrsync h) s = .next u ∧ SlotKept h.t.val [] [] [] [] [] [] s u
        ∧ (if lrSuspended h.t.val s = false ∧ rowQuiet h.t.val s = true then Advanced h.t.val s u
           else coreState h.t.val u = 2 ∧ nextIx h.t.val u = nextIx h.t.val s ∧ (Machine.core h.t.val u).hold = some [x])) ∧
    (∀ (h : Hd) (kind : BitVec 2) (x : SlotIn) (s : State), Fires (.fence h kind) h.t.val x s →
      ∃ u, exec (.fence h kind) s = .next u ∧ SlotKept h.t.val [] [] [] [] [] [] s u
        ∧ (if (kind = 1#2 ∨ (Machine.core h.t.val s).outst = []) ∧ (kind = 0#2 ∨ drainsAhead h.t.val s = false) then Advanced h.t.val s u
           else coreState h.t.val u = 1 ∧ nextIx h.t.val u = nextIx h.t.val s ∧ (Machine.core h.t.val u).hold = some [x]))) ∧
  ((∀ (h : Hd) (code : BitVec 16) (x : SlotIn) (s : State), Fires (.endProgram h code) h.t.val x s →
      ∃ u, exec (.endProgram h code) s = .next u ∧ coreState h.t.val u = 2 ∧ nextIx h.t.val u = nextIx h.t.val s
        ∧ (Machine.core h.t.val u).hold = some [x] ∧ SlotKept h.t.val [] [] [] [] [] [] s u) ∧
    (∀ (t : TileN) (code : BitVec 16) (x : SlotIn) (s : State), Sound s → Quiet s → x.k = 2 → x.op = .fin code → x.wf = true →
        coreState t.val s = 2 → (Machine.core t.val s).hold = some [x] → (Machine.core t.val s).takes x.pg x.pn = true → nextIx t.val s ≤ 2047 →
        pendingDefer t.val s = none → endBlocked t.val s = false → rowQuiet t.val s = true → (Machine.core t.val s).outst = [] →
        lrSuspended t.val s = false → traced t.val s = false →
      (Unserved t.val s →
        ∃ u, exec (.endComplete t) s = .next u ∧ coreState t.val u = 0 ∧ (Machine.core t.val u).loops = [] ∧ (Machine.core t.val u).hold = none
          ∧ RegsKept t.val [] [] [] [] [] s u ∧ TilesKept t.val s u ∧ FieldsKept t.val [] s u ∧ MemKept s u) ∧
      (∀ (c : Cmd) (r : Rank), CanEnd c s → Serves c t.val s → c.ranks = [r] → c.schedAddr = 0 →
        ∃ u, exec (.endComplete t) s = .next u ∧ coreState t.val u = 0 ∧ (Machine.core t.val u).loops = [] ∧ (Machine.core t.val u).hold = none
          ∧ (∀ x ∈ u.host.cmds, x.id ≠ c.id) ∧ Entered c 0 code.toNat 0 t.val 0 s u ∧ TilesKept t.val s u ∧ MemKept s u)))

/-- A guard that is false: the slot changes nothing but the place in the program (R115), whatever its operands. Every slot but the vector slot and VST, whose guard is a lane mask. A lane-row slot advances so while its lane row is suspended too (log entry 87, the model's choice). -/
def Obligations.FalseGuardOnlyAdvances : Prop :=
  ∀ (i : Instr) (t : Nat) (x : SlotIn) (s : State), slotOf i = some (t, x) → Ready t x s → slotTakes (Machine.core t s) x = false →
    ∃ u, exec i s = .next u ∧ Advanced t s u ∧ SlotKept t [] [] [] [] [] [] s u

/-! ### Exceptions (R112, R115, R134 to R136) -/

/-- BRK and a slot that R115 does not admit stop the core: the cause, the slot and EPC are recorded, and no register, Leroth row or byte of memory changes. On a tile that serves no command, with its lane row suspended already. A load or store at an address that is not a multiple of its size, or with a bit above 47 set, raises the address exception, and EADDR holds the address. DEFERRED_EXCEPTION: a core that issues, is held or is idle takes the exception that waits, its own before its lane row's: it stops, and cause, address and lane-row index are recorded; that an idle core takes it too is the model's choice (log entry 53). On a tile that serves a command, an exception ends the command with status 9, the raw cause, the rank and its tile, and EADDR as its argument; its tiles stay held, and the cores of its other ranks halt. That the code is the low half of CAUSE and the argument EADDR is log entry 29. -/
def Obligations.ExceptionsStop : Prop :=
  ((∀ (h : Hd) (code : BitVec 16) (x : SlotIn) (s : State), Fires (.brk h code) h.t.val x s → Quiet s →
      (Unserved h.t.val s →
        ∃ u, exec (.brk h code) s = .next u ∧ Stopped h.t.val 0xB 2 false s u ∧ TilesKept h.t.val s u) ∧
      (∀ c : Cmd, CanEnd c s → Serves c h.t.val s → (∀ r ∈ c.ranks, r.tile < 168) →
        let t := h.t.val
        ∃ u, exec (.brk h code) s = .next u ∧ Stopped t 0xB 2 false s u
          ∧ Entered c 9 (regRaw TIL_CS_CAUSE t u % 65536) ((c.ranks.findIdx fun r => r.tile == t) % 256) t (rd TIL_CS_EADDR_val t s) s u
          ∧ ({ c with phase := 3 } : Cmd) ∈ u.host.cmds ∧ (∀ x ∈ u.host.cmds, x.id = c.id → x.phase = 3)
          ∧ (∀ r ∈ c.ranks, r.tile ≠ t → underPoss r.tile s = false → coreState r.tile s = 1 ∨ coreState r.tile s = 2 → coreState r.tile u = 3))) ∧
    (∀ (i : Instr) (t : Nat) (x : SlotIn) (s : State), slotOf i = some (t, x) → x.wf = false → x.k < 8 → Sound s → coreState t s = 1 →
        (Machine.core t s).hold = none → pendingDefer t s = none → nextIx t s ≤ 2047 → traced t s = false → StopsAlone t s →
      ∃ u, exec i s = .next u ∧ Stopped t 1 x.k false s u ∧ TilesKept t s u)) ∧
  (∀ (i : Instr) (t : Nat) (x : SlotIn) (a : Acc') (s : State), Fires i t x s → accOf (Machine.core t s) x.op = some a →
        (a.ea.toNat % a.align ≠ 0 ∨ 2 ^ 48 ≤ a.ea.toNat) → StopsAlone t s →
      ∃ u, exec i s = .next u ∧ Stopped t 3 x.k false s u ∧ rd TIL_CS_EADDR_val t u = a.ea.toNat % 2 ^ 48 ∧ TilesKept t s u) ∧
  (∀ (n : TileN) (d : Defer) (s : State),
      let t := n.val
      Calm s → coreState t s ≤ 2 → pendingDefer t s = some d → d.code < 256 → d.slot < 8 → nextIx t s ≤ 65535 → StopsAlone t s →
      ∃ u, exec (.deferredException n) s = .next u ∧ Stopped t d.code d.slot true s u ∧ TilesKept t s u
        ∧ (∀ a, d.addr = some a → rd TIL_CS_EADDR_val t u = a % 2 ^ 48) ∧ (∀ a, d.lrEpc = some a → rd TIL_CS_LR_EPC_val t u = a % 65536)
        ∧ (if (Machine.core t s).defer.isSome then (Machine.core t u).defer = none ∧ (lrow t u).exc = (lrow t s).exc
           else (Machine.core t u).defer = none ∧ (lrow t u).exc = none))

/-! ### Address slots (R113, R124, R125) -/

/-- AADDI, AADD and AMOVS write an address register, SMOVA a scalar register. VINS, VEXT, VSPLAT, VMOV, PMOVS and SMOVP move values between register files; s0 and p0 keep theirs. -/
def Obligations.AddressAndMoveResults : Prop :=
  (∀ (h : Hd) (x : SlotIn) (s : State),
      let t := h.t.val
      let c := Machine.core t s
      (∀ (ad aa : BitVec 4) (imm : BitVec 38), Fires (.aaddi h ad aa imm) t x s →
        ∃ u, exec (.aaddi h ad aa imm) s = .next u ∧ (Machine.core t u).ag ad = c.ag aa + imm.signExtend 64 ∧ Advanced t s u ∧ SlotKept t [] [ad] [] [] [] [] s u) ∧
      (∀ (ad aa : BitVec 4) (sx : BitVec 5), Fires (.aadd h ad aa sx) t x s →
        ∃ u, exec (.aadd h ad aa sx) s = .next u ∧ (Machine.core t u).ag ad = c.ag aa + c.sg sx ∧ Advanced t s u ∧ SlotKept t [] [ad] [] [] [] [] s u) ∧
      (∀ (ad : BitVec 4) (sx : BitVec 5), Fires (.amovs h ad sx) t x s →
        ∃ u, exec (.amovs h ad sx) s = .next u ∧ (Machine.core t u).ag ad = c.sg sx ∧ Advanced t s u ∧ SlotKept t [] [ad] [] [] [] [] s u) ∧
      (∀ (sd : BitVec 5) (aa : BitVec 4), Fires (.smova h sd aa) t x s →
        ∃ u, exec (.smova h sd aa) s = .next u ∧ (Machine.core t u).sg sd = (if sd = 0#5 then 0#64 else c.ag aa) ∧ Advanced t s u
          ∧ SlotKept t [sd] [] [] [] [] [] s u)) ∧
  (∀ (h : Hd) (x : SlotIn) (s : State),
      let t := h.t.val
      let c := Machine.core t s
      let low := fun (a : BitVec 5) => (c.sg a).toNat % 2 ^ 32
      (∀ (d a : BitVec 5) (l : BitVec 6), Fires (.vins h d a l) t x s →
        ∃ u, exec (.vins h d a l) s = .next u ∧ Advanced t s u ∧ SlotKept t [] [] [] [d] [] [] s u
          ∧ ∀ j, j < 64 → vlane ((Machine.core t u).vg d) j = (if j = l.toNat then low a else vlane (c.vg d) j)) ∧
      (∀ (d a : BitVec 5) (l : BitVec 6), Fires (.vext h d a l) t x s →
        ∃ u, exec (.vext h d a l) s = .next u ∧ Advanced t s u ∧ SlotKept t [d] [] [] [] [] [] s u
          ∧ (Machine.core t u).sg d = (if d = 0#5 then 0#64 else BitVec.ofNat 64 (vlane (c.vg a) l.toNat))) ∧
      (∀ (d a : BitVec 5), Fires (.vsplat h d a) t x s →
        ∃ u, exec (.vsplat h d a) s = .next u ∧ Advanced t s u ∧ SlotKept t [] [] [] [d] [] [] s u
          ∧ ∀ j, j < 64 → vlane ((Machine.core t u).vg d) j = low a) ∧
      (∀ (d a : BitVec 5), Fires (.vmov h d a) t x s →
        ∃ u, exec (.vmov h d a) s = .next u ∧ Advanced t s u ∧ SlotKept t [] [] [] [d] [] [] s u ∧ (Machine.core t u).vg d = c.vg a) ∧
      (∀ (d : BitVec 3) (a : BitVec 5), Fires (.pmovs h d a) t x s →
        ∃ u, exec (.pmovs h d a) s = .next u ∧ Advanced t s u ∧ SlotKept t [] [] [d] [] [] [] s u
          ∧ (Machine.core t u).pr d = (if d = 0#3 then BitVec.allOnes 64 else c.sg a)) ∧
      (∀ (d : BitVec 5) (a : BitVec 3), Fires (.smovp h d a) t x s →
        ∃ u, exec (.smovp h d a) s = .next u ∧ Advanced t s u ∧ SlotKept t [d] [] [] [] [] [] s u
          ∧ (Machine.core t u).sg d = (if d = 0#5 then 0#64 else c.pr a)))

/-- A load, vector load or row load from the tile's own stores writes its register with the bytes at the address R124 gives, updates aa where its mode says so, and leaves every byte of memory. -/
def Obligations.OwnStoreLoads : Prop :=
  ∀ (h : Hd) (f : FAM) (x : SlotIn) (s : State),
    let t := h.t.val
    let c := Machine.core t s
    let upd := fun (u : State) => (Machine.core t u).ag f.aa = (amUpdate c f).getD (c.ag f.aa)
    let as := if (amUpdate c f).isSome then [f.aa] else []
    (∀ o : LdOp, Fires (ldInstr o h f) t x s →
      let ea := (amEa c f (Nat.log2 (ldSize o))).toNat
      Permitted t ea (ldSize o) (ldSize o) true false s → ownStore t ea s = true → s.storeErr = [] →
      ∃ u, exec (ldInstr o h f) s = .next u ∧ (Machine.core t u).sg f.r = (if f.r = 0#5 then 0#64 else ldValue o (cells ea (ldSize o) s))
        ∧ upd u ∧ Advanced t s u ∧ SlotKept t [f.r] as [] [] [] [] s u) ∧
    (Fires (.vld h f) t x s →
      let ea := (amEa c f 8).toNat
      Permitted t ea 256 256 true false s → ownStore t ea s = true → s.storeErr = [] →
      ∃ u, exec (.vld h f) s = .next u ∧ (∀ j, j < 64 → vlane ((Machine.core t u).vg f.r) j = ofLe (cells (ea + 4 * j) 4 s))
        ∧ upd u ∧ Advanced t s u ∧ SlotKept t [] as [] [f.r] [] [] s u) ∧
    (Fires (.wld h f) t x s →
      let ea := (amEa c f 6).toNat
      let w := f.r.toNat % 4
      Permitted t ea 4672 64 true false s → ownStore t ea s = true → s.storeErr = [] →
      ∃ u, exec (.wld h f) s = .next u
        ∧ (∀ j, j < 64 → (Machine.core t u).rowW w j = BitVec.ofNat 576 (ofLe (cells (ea + 72 * j) 72 s)) ∧ (Machine.core t u).rowT w j = byteAt (ea + 4608 + j) s)
        ∧ (Machine.core t u).rowSt w = {} ∧ upd u ∧ Advanced t s u ∧ SlotKept t [] as [] [] [w] [] s u)

/-- A store, vector store or row store to the tile's own stores changes exactly the bytes at the address R124 gives (a vector store those of its active lanes), updates aa where its mode says so, and leaves every other register and field. -/
def Obligations.OwnStoreStores : Prop :=
  ∀ (h : Hd) (f : FAM) (x : SlotIn) (s : State),
    let t := h.t.val
    let c := Machine.core t s
    let as := if (amUpdate c f).isSome then [f.aa] else []
    let kept := fun (u : State) => (Machine.core t u).ag f.aa = (amUpdate c f).getD (c.ag f.aa) ∧ Advanced t s u ∧ RegsKept t [] as [] [] [] s u
      ∧ lrow t u = lrow t s ∧ (Machine.core t u).outst = c.outst ∧ TilesKept t s u ∧ FieldsKept t [] s u
    (∀ o : StOp, Fires (stInstr o h f) t x s →
      let ea := (amEa c f (Nat.log2 (stSize o))).toNat
      Permitted t ea (stSize o) (stSize o) false true s → ownStore t ea s = true → s.storeErr = [] →
      ∃ u, exec (stInstr o h f) s = .next u ∧ kept u
        ∧ ∀ a, byteAt a u = (if ea ≤ a ∧ a < ea + stSize o then (c.sg f.r).extractLsb' (8 * (a - ea)) 8 else byteAt a s)) ∧
    (Fires (.vst h f) t x s →
      let ea := (amEa c f 8).toNat
      Permitted t ea 256 256 false true s → ownStore t ea s = true → s.storeErr = [] →
      ∃ u, exec (.vst h f) s = .next u ∧ kept u
        ∧ ∀ a, byteAt a u = (if ea ≤ a ∧ a < ea + 256 ∧ c.active h.pg h.pn ((a - ea) / 4) = true then (c.vg f.r).extractLsb' (8 * (a - ea)) 8 else byteAt a s)) ∧
    (Fires (.wst h f) t x s →
      let ea := (amEa c f 6).toNat
      let w := f.r.toNat % 4
      Permitted t ea 4672 64 false true s → ownStore t ea s = true → s.storeErr = [] →
      ∃ u, exec (.wst h f) s = .next u ∧ kept u
        ∧ ∀ a, byteAt a u = (if ea ≤ a ∧ a < ea + 4608 then ((c.rowW w ((a - ea) / 72)).extractLsb' (8 * ((a - ea) % 72)) 8)
                             else if ea + 4608 ≤ a ∧ a < ea + 4672 then c.rowT w (a - ea - 4608) else byteAt a s))

/-- Every other load, store and atomic issues and waits among the core's outstanding accesses, at the address R124 gives and in issue order (R113); no byte of memory changes yet and no register but an updated aa. A store for a CXL port that is down is answered as it issues (R213). LOAD_RESPONSE: data that has come back to a core which holds no long word is written to the load's register; an uncorrectable datum writes no register and waits as the deferred memory error of R135, but for a store, whose answer raises nothing in the core; of two that meet there the later stands (log entry 67). -/
def Obligations.RemoteAccessesIssueAndReturn : Prop :=
  (∀ (h : Hd) (f : FAM) (x : SlotIn) (s : State),
      let t := h.t.val
      let c := Machine.core t s
      let as := if (amUpdate c f).isSome then [f.aa] else []
      let kept := fun (u : State) => (Machine.core t u).ag f.aa = (amUpdate c f).getD (c.ag f.aa) ∧ Advanced t s u ∧ RegsKept t [] as [] [] [] s u
        ∧ lrow t u = lrow t s ∧ TilesKept t s u ∧ FieldsKept t [] s u ∧ MemKept s u
      let waits := fun (u : State) (ea len : Nat) (op : AccOp) => (Machine.core t u).outst = c.outst ++ [{ slot := x.k, addr := ea, len := len, op := op, done := issuedDone ea op s }]
      (∀ o : LdOp, Fires (ldInstr o h f) t x s →
        let ea := (amEa c f (Nat.log2 (ldSize o))).toNat
        Permitted t ea (ldSize o) (ldSize o) true false s → ownStore t ea s = false →
        ∃ u, exec (ldInstr o h f) s = .next u ∧ kept u ∧ waits u ea (ldSize o) (.load o f.r)) ∧
      (∀ o : StOp, Fires (stInstr o h f) t x s →
        let ea := (amEa c f (Nat.log2 (stSize o))).toNat
        Permitted t ea (stSize o) (stSize o) false true s → ownStore t ea s = false →
        ∃ u, exec (stInstr o h f) s = .next u ∧ kept u ∧ waits u ea (stSize o) (.store (spread ea (leBytes (c.sg f.r).toNat (stSize o))))) ∧
      (Fires (.vld h f) t x s → let ea := (amEa c f 8).toNat
        Permitted t ea 256 256 true false s → ownStore t ea s = false → ∃ u, exec (.vld h f) s = .next u ∧ kept u ∧ waits u ea 256 (.vload f.r)) ∧
      (Fires (.vst h f) t x s → let ea := (amEa c f 8).toNat
        Permitted t ea 256 256 false true s → ownStore t ea s = false → ∃ u, exec (.vst h f) s = .next u ∧ kept u ∧ waits u ea 256 (.store (vstBytes c x f ea))) ∧
      (Fires (.wld h f) t x s → let ea := (amEa c f 6).toNat
        Permitted t ea 4672 64 true false s → ownStore t ea s = false → ∃ u, exec (.wld h f) s = .next u ∧ kept u ∧ waits u ea 4672 (.wload (f.r.setWidth 2))) ∧
      (Fires (.wst h f) t x s → let ea := (amEa c f 6).toNat
        Permitted t ea 4672 64 false true s → ownStore t ea s = false →
        ∃ u, exec (.wst h f) s = .next u ∧ kept u ∧ waits u ea 4672 (.store (spread ea (rowStore c (f.r.toNat % 4))))) ∧
      (∀ (o : AmoOp) (sd : BitVec 5) (sx : BitVec 5), Fires (amoInstr o h sd f.aa sx) t x s →
        let ea := (c.ag f.aa).toNat
        Permitted t ea 8 8 true true s → amoPlace ea s = true → f.mode = 0#2 →
        ∃ u, exec (amoInstr o h sd f.aa sx) s = .next u ∧ kept u ∧ waits u ea 8 (.amo o sd (c.sg sx)))) ∧
  (∀ (t : TileN) (k : Nat) (a : Access) (d : List Byte) (bad : Bool) (s : State), Sound s → (Machine.core t.val s).hold = none →
        (Machine.core t.val s).outst[k]? = some a → a.done = some (d, bad) →
      ∃ u, exec (.loadResponse t k) s = .next u ∧ (Machine.core t.val u).outst = (Machine.core t.val s).outst.eraseIdx k
        ∧ TilesKept t.val s u ∧ MemKept s u ∧ lrow t.val u = lrow t.val s ∧ u.flds = s.flds
        ∧ (if bad then (Machine.core t.val u).defer = (match a.op with
               | .store _ => (Machine.core t.val s).defer
               | _ => some { code := 5, slot := a.slot, addr := some a.addr, lrEpc := none }) ∧ RegsKept t.val [] [] [] [] [] s u
           else (Machine.core t.val u).defer = (Machine.core t.val s).defer ∧ (match a.op with
             | .load o sd => (Machine.core t.val u).sg sd = (if sd = 0#5 then 0#64 else ldValue o d) ∧ RegsKept t.val [sd] [] [] [] [] s u
             | .amo _ sd _ => (Machine.core t.val u).sg sd = (if sd = 0#5 then 0#64 else BitVec.ofNat 64 (ofLe d)) ∧ RegsKept t.val [sd] [] [] [] [] s u
             | .vload vd => (Machine.core t.val u).vg vd = BitVec.ofNat 2048 (ofLe d) ∧ RegsKept t.val [] [] [] [vd] [] s u
             | .wload w => (∀ j, j < 64 → (Machine.core t.val u).rowW w.toNat j = BitVec.ofNat 576 (ofLe ((d.drop (72 * j)).take 72))
                 ∧ (Machine.core t.val u).rowT w.toNat j = d.getD (4608 + j) 0#8)
                 ∧ (Machine.core t.val u).rowSt w.toNat = {} ∧ RegsKept t.val [] [] [] [] [w.toNat] s u
             | .store _ => RegsKept t.val [] [] [] [] [] s u)))

/-! ### The lane-row slot (R126, R127, R137) -/

/-- LRLOAD, LRDCFG, LRCLOSE, LRDRAIN, LRSUSP, LRREST and LRPREP join the lane row's queue with the registers they name captured, when the queue holds fewer than eight and the row is not suspended; nothing else of the lane row or the core changes but the core's pending format of LRPREP. LRREST joins a suspended row's queue too. LRSTEP joins the queue with both address registers captured; inc then adds the sign-extended stride to aa and sinc the scale bytes of the operand format to ac. Where both name one register the manual states no result: it takes a free value (log entry 13). -/
def Obligations.LaneInstructionsEnqueue : Prop :=
  (∀ (i : Instr) (t : Nat) (x : SlotIn) (s : State), Fires i t x s → (lrow t s).queue.length < 8 →
        (match x.op with
         | .lrload _ | .lrdcfg _ | .lrclose _ | .lrdrain _ | .lrsusp _ | .lrprep _ => !lrSuspended t s
         | .lrrest _ => true
         | _ => false) = true →
      ∃ u, exec i s = .next u ∧ Advanced t s u ∧ RegsKept t [] [] [] [] [] s u ∧ TilesKept t s u ∧ FieldsKept t [] s u ∧ MemKept s u
        ∧ lrow t u = { lrow t s with queue := (lrow t s).queue ++ [{ slot := x.word.toNat, c0 := (captured (Machine.core t s) x.op).1, c1 := (captured (Machine.core t s) x.op).2, idx := nextIx t s }] }
        ∧ (Machine.core t u).ofmtPend = (match x.op with
            | .lrprep sa => ((Machine.core t s).sg sa).toNat / 16 % 16
            | _ => (Machine.core t s).ofmtPend)) ∧
  (∀ (h : Hd) (f : FStep) (x : SlotIn) (s : State), Fires (.lrstep h f) h.t.val x s → (lrow h.t.val s).queue.length < 8 → lrSuspended h.t.val s = false →
      let t := h.t.val
      let c := Machine.core t s
      let fmt := if f.first then c.ofmtPend else c.ofmtCur
      ∃ u, exec (.lrstep h f) s = .next u ∧ Advanced t s u ∧ (Machine.core t u).ofmtCur = fmt
        ∧ lrow t u = { lrow t s with queue := (lrow t s).queue ++ [{ slot := x.word.toNat, c0 := c.ag f.aa, c1 := c.ag f.ac, idx := nextIx t s }] }
        ∧ (f.aa ≠ f.ac → (Machine.core t u).ag f.aa = (if f.inc then c.ag f.aa + f.stride.signExtend 64 else c.ag f.aa)
            ∧ (Machine.core t u).ag f.ac = (if f.sinc then c.ag f.ac + BitVec.ofNat 64 (scaleStep fmt) else c.ag f.ac))
        ∧ (f.aa = f.ac → f.inc = false → (Machine.core t u).ag f.ac = (if f.sinc then c.ag f.ac + BitVec.ofNat 64 (scaleStep fmt) else c.ag f.ac))
        ∧ (f.aa = f.ac → f.sinc = false → (Machine.core t u).ag f.aa = (if f.inc then c.ag f.aa + f.stride.signExtend 64 else c.ag f.aa))
        ∧ RegsKept t [] ((if f.inc then [f.aa] else []) ++ (if f.sinc then [f.ac] else [])) [] [] [] s u ∧ TilesKept t s u ∧ FieldsKept t [] s u ∧ MemKept s u)

/-! ### The vector slot (R115, R128 to R130, R145 to R156) -/

/-- The lane-by-lane instructions: every active lane of vd takes its result, every other lane keeps its value, and of the flags only VFLAGS may change, and only by VEXP2, which ORs the tags of its active lanes into it. VCMP writes the bits of the active lanes of p[pd] and keeps the others; p0 stays all ones. VCVT writes the slice of each active lane, VUNPK the lane, and VWRD the converted row word of each active lane; all three OR the tags of their active lanes into VFLAGS. Their operand checks of R130 pass. -/
def Obligations.VectorLaneResults : Prop :=
  (∀ (o : VOp) (h : Hd) (f : FV) (x : SlotIn) (s : State), Fires (vInstr o h f) h.t.val x s →
        o ∈ [.vadd, .vsub, .vmul, .vfma, .vmin, .vmax, .vabs, .vneg, .vsel, .vexp2, .vrcp, .vrsqrt, .vlog2, .vsigm, .vrng] →
      let t := h.t.val
      ∃ u, exec (vInstr o h f) s = .next u ∧ Advanced t s u
        ∧ (∀ j, j < 64 → some (vlane ((Machine.core t u).vg f.vd) j)
            = (if (Machine.core t s).active h.pg h.pn j then (laneSays t o f s j).map (· % 2 ^ 32) else some (vlane ((Machine.core t s).vg f.vd) j)))
        ∧ (o = .vexp2 → TagsRaised t ((Machine.core t s).lanes h.pg h.pn) (fun j => (f32Exp2Att (vlane ((Machine.core t s).vg f.va) j)).tag) s u)
        ∧ SlotKept t [] [] [] [f.vd] [] (if o = .vexp2 then [TIL_CS_VFLAGS_val.key t] else []) s u) ∧
  (∀ (h : Hd) (f : FV) (x : SlotIn) (s : State),
      let t := h.t.val
      let c := Machine.core t s
      let act := fun (j : Nat) => c.active h.pg h.pn j
      let ctl := f.ctl.toNat
      let w := fmtBits (ctlFmt ctl)
      let lo := 64 * w * (f.imm.toNat % 4)
      let cvt := fun (j : Nat) => cvtEl ctl (vdraw t s (ctlMode ctl) (c.sg f.vb).toNat j 1) (vlane (c.vg f.va) j)
      let unpk := fun (j : Nat) => unpkEl (ctlFmt ctl) (bits (c.vg f.va).toNat (lo + w * j) w)
      let word := fun (j : Nat) => rowConv ctl (vdraw t s (ctlMode ctl) (c.sg f.vb).toNat j 1) (wordInt (c.rowW (f.va.toNat % 4) j)) (c.rowT (f.va.toNat % 4) j)
      (Fires (.vcmp h f) t x s →
        ∃ u, exec (.vcmp h f) s = .next u ∧ Advanced t s u
          ∧ (∀ j, j < 64 → ((Machine.core t u).pr (f.vd.setWidth 3)).getLsbD j
              = (if f.vd.setWidth 3 = 0#3 then true else if act j then f32Cmp (f.imm.toNat % 4) (vlane (c.vg f.va) j) (vlane (c.vg f.vb) j)
                 else (c.pr (f.vd.setWidth 3)).getLsbD j))
          ∧ SlotKept t [] [] [f.vd.setWidth 3] [] [] [] s u) ∧
      (Fires (.vcvt h f) t x s → vecCheck c .vcvt f (c.lanes h.pg h.pn).length = none →
        ∃ u, exec (.vcvt h f) s = .next u ∧ Advanced t s u
          ∧ (∀ j, j < 64 → ((Machine.core t u).vg f.vd).extractLsb' (lo + w * j) w
              = (if act j then BitVec.ofNat w (cvt j).enc else (c.vg f.vd).extractLsb' (lo + w * j) w))
          ∧ (∀ b, b < lo ∨ lo + 64 * w ≤ b → ((Machine.core t u).vg f.vd).getLsbD b = (c.vg f.vd).getLsbD b)
          ∧ TagsRaised t (c.lanes h.pg h.pn) (fun j => (cvt j).tag) s u
          ∧ SlotKept t [] [] [] [f.vd] [] [TIL_CS_VFLAGS_val.key t] s u) ∧
      (Fires (.vunpk h f) t x s → vecCheck c .vunpk f (c.lanes h.pg h.pn).length = none →
        ∃ u, exec (.vunpk h f) s = .next u ∧ Advanced t s u
          ∧ (∀ j, j < 64 → vlane ((Machine.core t u).vg f.vd) j
              = (if act j then (unpk j).enc % 2 ^ 32 else vlane (c.vg f.vd) j))
          ∧ TagsRaised t (c.lanes h.pg h.pn) (fun j => (unpk j).tag) s u
          ∧ SlotKept t [] [] [] [f.vd] [] [TIL_CS_VFLAGS_val.key t] s u) ∧
      (Fires (.vwrd h f) t x s → vecCheck c .vwrd f (c.lanes h.pg h.pn).length = none →
        ∃ u, exec (.vwrd h f) s = .next u ∧ Advanced t s u
          ∧ (∀ j, j < 64 → vlane ((Machine.core t u).vg f.vd) j = (if act j then (word j).enc % 2 ^ 32 else vlane (c.vg f.vd) j))
          ∧ TagsRaised t (c.lanes h.pg h.pn) (fun j => (word j).tag) s u
          ∧ SlotKept t [] [] [] [f.vd] [] [TIL_CS_VFLAGS_val.key t] s u))

/-- VACC and VACSQ add one exact term to each active lane's word of row w, VACX all active lanes' terms to one word, when the checks of R130 pass: the row's floor is set on first use and its count raised. VWCLR zeroes the row and its state. VMOMENT writes mean and variance of each active lane to vd and vd + 1, VUPD the new weight and residual; every other lane, register and flag but VFLAGS keeps its value. Their operand checks of R130 pass. -/
def Obligations.VectorRowAndPairResults : Prop :=
  (∀ (h : Hd) (f : FV) (x : SlotIn) (s : State),
      let t := h.t.val
      let c := Machine.core t s
      let n := (c.lanes h.pg h.pn).length
      let w := f.vd.toNat % 4
      let floor := f.ctl.toNat % 1024
      let counted := fun (u : State) (k : Nat) => (Machine.core t u).rowSt w = { floor := floor, set := true, count := (c.rowSt w).count + k }
      let term := fun (j : Nat) => plainTerm (decodeEl 1 (vlane (c.vg f.va) j)) floor
      (Fires (.vacc h f) t x s → vecCheck c .vacc f n = none →
        ∃ u, exec (.vacc h f) s = .next u ∧ Advanced t s u ∧ counted u 1 ∧ SlotKept t [] [] [] [] [w] [] s u
          ∧ ∀ j, j < 64 → ((Machine.core t u).rowW w j, (Machine.core t u).rowT w j)
              = (if c.active h.pg h.pn j then addTerm (c.rowW w j) (c.rowT w j) (term j) else (c.rowW w j, c.rowT w j))) ∧
      (Fires (.vacsq h f) t x s → vecCheck c .vacsq f n = none →
        ∃ u, exec (.vacsq h f) s = .next u ∧ Advanced t s u ∧ counted u 1 ∧ SlotKept t [] [] [] [] [w] [] s u
          ∧ ∀ j, j < 64 → ((Machine.core t u).rowW w j, (Machine.core t u).rowT w j)
              = (if c.active h.pg h.pn j then addTerm (c.rowW w j) (c.rowT w j) (squareTerm (decodeEl 1 (vlane (c.vg f.va) j)) floor) else (c.rowW w j, c.rowT w j))) ∧
      (Fires (.vacx h f) t x s → vecCheck c .vacx f n = none →
        ∃ u, exec (.vacx h f) s = .next u ∧ Advanced t s u ∧ counted u n ∧ SlotKept t [] [] [] [] [w] [] s u
          ∧ ∀ j, j < 64 → ((Machine.core t u).rowW w j, (Machine.core t u).rowT w j)
              = (if j = f.imm.toNat % 64 then ((c.lanes h.pg h.pn).map term).foldl (fun a y => addTerm a.1 a.2 y) (c.rowW w j, c.rowT w j) else (c.rowW w j, c.rowT w j))) ∧
      (Fires (.vwclr h f) t x s →
        ∃ u, exec (.vwclr h f) s = .next u ∧ Advanced t s u ∧ (Machine.core t u).rowSt w = {} ∧ SlotKept t [] [] [] [] [w] [] s u
          ∧ ∀ j, j < 64 → (Machine.core t u).rowW w j = 0#576 ∧ (Machine.core t u).rowT w j = 0#8)) ∧
  (∀ (h : Hd) (f : FV) (x : SlotIn) (s : State),
      let t := h.t.val
      let c := Machine.core t s
      let lanes := fun (u : State) (g : Nat → Nat × Nat × Byte) =>
        (∀ j, j < 64 → vlane ((Machine.core t u).vg f.vd) j = (if c.active h.pg h.pn j then (g j).1 % 2 ^ 32 else vlane (c.vg f.vd) j)
          ∧ vlane ((Machine.core t u).vg (f.vd + 1#5)) j = (if c.active h.pg h.pn j then (g j).2.1 % 2 ^ 32 else vlane (c.vg (f.vd + 1#5)) j))
        ∧ TagsRaised t (c.lanes h.pg h.pn) (fun j => (g j).2.2) s u
      (Fires (.vmoment h f) t x s → f.vd ≠ 31#5 →
        ∃ u, exec (.vmoment h f) s = .next u ∧ Advanced t s u ∧ SlotKept t [] [] [] [f.vd, f.vd + 1#5] [] [TIL_CS_VFLAGS_val.key t] s u
          ∧ lanes u fun j => moment (wordInt (c.rowW (f.va.toNat % 4) j)) (c.rowT (f.va.toNat % 4) j)
              (wordInt (c.rowW (f.vb.toNat % 4) j)) (c.rowT (f.vb.toNat % 4) j) (c.sg f.vc).toNat) ∧
      (Fires (.vupd h f) t x s → vecCheck c .vupd f (c.lanes h.pg h.pn).length = none →
        ∃ u, exec (.vupd h f) s = .next u ∧ Advanced t s u ∧ SlotKept t [] [] [] [f.vd, f.vd + 1#5] [] [TIL_CS_VFLAGS_val.key t] s u
          ∧ lanes u fun j => updEl (ctlFmt f.ctl.toNat) (f.imm.toNat % 16) (ctlMode f.ctl.toNat) (ctlSat f.ctl.toNat)
              (vdraw t s (ctlMode f.ctl.toNat) (c.sg (BitVec.ofNat 5 (f.imm.toNat / 16))).toNat j 1)
              (vlane (c.vg f.va) j) (vlane (c.vg f.vb) j) (vlane (c.vg f.vc) j)))

/-- Every vector instruction completes: in the long word of a tile ready for it, its guard true and its operand checks of R130 passed, it runs and the program goes on with the next long word. It writes no register but its destinations, which are vd, vd and vd + 1 for VMOMENT and VUPD, p[pd] for VCMP and row w for the row instructions, and VFLAGS; everything else in the module is as before. -/
def Obligations.VectorFormsComplete : Prop :=
  ∀ (o : VOp) (h : Hd) (f : FV) (x : SlotIn) (s : State),
    let t := h.t.val
    let c := Machine.core t s
    let rows := o = .vacc ∨ o = .vacsq ∨ o = .vacx ∨ o = .vwclr
    let pairs := o = .vmoment ∨ o = .vupd
    Fires (vInstr o h f) t x s → vecCheck c o f (c.lanes h.pg h.pn).length = none →
      ∃ u, exec (vInstr o h f) s = .next u ∧ Advanced t s u
        ∧ SlotKept t [] [] (if o = .vcmp then [f.vd.setWidth 3] else []) (if rows ∨ o = .vcmp then [] else if pairs then [f.vd, f.vd + 1#5] else [f.vd])
            (if rows then [f.vd.toNat % 4] else []) [TIL_CS_VFLAGS_val.key t] s u

/-! ### Signals and the shunting slots (R131, R218, R228, R374) -/

/-- SIG sends a signal, which SIG_DELIVERY then delivers: an enabled, possessed or suspect tile takes its event bit; one to any other tile is discarded and sets sig_lost at its sender. A spare in a possession is no enabled tile before that possession ends (log entry 88), and a signal of a siding tile reaches no tile outside the siding (log entry 78). SIGH writes a program event on the completion ring of the command that the tile serves, and none where it serves none. SHST starts a granted channel that is idle at the 48-bit address of aa, the tile its starter, and sets sh_busy alone where it is not; SHSTAT reads the channel's status word; SHSTOP turns a running channel to stopping. An event bit above 47 stops the core with illegal-operand, and a channel not granted with privilege, in slot 7; of the two the event bit first (log entry 87). -/
def Obligations.SignalsAndShuntSlots : Prop :=
  ((∀ (h : Hd) (a : BitVec 5) (b : BitVec 6) (x : SlotIn) (s : State), Fires (.sig h a b) h.t.val x s →
      let t := h.t.val
      (b.toNat ≤ 47 → ∃ u, exec (.sig h a b) s = .next u ∧ Advanced t s u ∧ RegsKept t [] [] [] [] [] s u ∧ TilesKept t s u ∧ FieldsKept t [] s u
        ∧ { u with flds := s.flds, tiles := s.tiles, signals := s.signals } = s
        ∧ u.signals = s.signals ++ [{ src := t, dst := ((Machine.core t s).sg a).toNat % 256, bit := b.toNat }]) ∧
      (47 < b.toNat → Quiet s → Unserved t s → ∃ u, exec (.sig h a b) s = .next u ∧ Stopped t 2 7 false s u ∧ u.signals = s.signals ∧ TilesKept t s u)) ∧
    (∀ (k : Nat) (g : Signal) (s : State), Sound s → s.signals[k]? = some g → rd PWR_TILE_state g.dst s = 0 → g.bit < 64 →
      let siding := fun t => rd ITG_TILE_CTRL_siding t s ≠ 0
      let takes := g.dst < 168 ∧ (ctrl g.dst s = 0 ∨ ctrl g.dst s = 3 ∨ (ctrl g.dst s = 2 ∧ (poss (dieOfTile g.dst) s).prev ≠ 1)) ∧ (siding g.src → siding g.dst)
      ∃ u, exec (.sigDelivery k) s = .next u ∧ u.signals = s.signals.eraseIdx k ∧ { u with flds := s.flds, signals := s.signals } = s
        ∧ (takes → (∀ j, j < 64 → (rd TIL_CS_EVT_val g.dst u).testBit j = (decide (j = g.bit) || (rd TIL_CS_EVT_val g.dst s).testBit j))
             ∧ OtherFields [TIL_CS_EVT_val.key g.dst] s u)
        ∧ (¬ takes → rd TIL_CS_STATUS_sig_lost g.src u = 1 ∧ OtherFields [TIL_CS_STATUS_sig_lost.key g.src] s u)) ∧
    (∀ (h : Hd) (code : BitVec 16) (x : SlotIn) (s : State), Fires (.sigh h code) h.t.val x s → Quiet s →
      let t := h.t.val
      (Unserved t s → ∃ u, exec (.sigh h code) s = .next u ∧ Advanced t s u ∧ SlotKept t [] [] [] [] [] [] s u) ∧
      (∀ c : Cmd, Serves c t s → CqOpen c.ring s →
        let rank := c.ranks.findIdx fun r => r.tile == t
        let tail := rd HST_CQ_TAIL_tail c.ring s
        let phase := if Map.get (fun _ => 0) s.host.pass c.ring % 2 = 0 then 1 else 0
        ∃ u, exec (.sigh h code) s = .next u ∧ Advanced t s u ∧ RegsKept t [] [] [] [] [] s u ∧ TilesKept t s u ∧ MemKept s u
          ∧ rd HST_CQ_TAIL_tail c.ring u = (tail + 1) % cqSize c.ring s
          ∧ (u.hostOut.drop s.hostOut.length).head? = some { addr := rd HST_CQ_BASE_base c.ring s * 4096 + 32 * tail, data := leBytes (2 ^ 9 + code.toNat * 2 ^ 16 + (rank % 256) * 2 ^ 32 + t * 2 ^ 40 + phase * 2 ^ 8) 8 ++ leBytes c.name 8 ++ leBytes (now s) 8 ++ leBytes 0 8 }))) ∧
  (∀ (h : Hd) (ch : BitVec 7) (x : SlotIn) (s : State),
      let t := h.t.val
      let c := Machine.core t s
      let n := ch.toNat
      (∀ (aa : BitVec 4) (evt : Bool) (b : BitVec 6), Fires (.shst h ch aa evt b) t x s →
        (granted t n s = true → (evt = true → b.toNat ≤ 47) → c.outst = [] →
          ∃ u, exec (.shst h ch aa evt b) s = .next u ∧ Advanced t s u ∧ RegsKept t [] [] [] [] [] s u ∧ TilesKept t s u ∧ MemKept s u
            ∧ (if chState n s = 0 then chState n u = 1 ∧ rd SHN_CH_CUR_cur n u = (c.ag aa).toNat % 2 ^ 48 ∧ rd SHN_CH_STATUS_flags n u = 0
                 ∧ rd SHN_CH_STATUS_tile_started n u = 1 ∧ rd SHN_CH_STATUS_starter n u = t
                 ∧ Machine.shunt n u = { starter := some t, evt := if evt then some b.toNat else none, siding := tileClass t s == 1 }
                 ∧ (∀ k, k ≠ n → Machine.shunt k u = Machine.shunt k s)
                 ∧ FieldsKept t [SHN_CH_STATUS_state.key n, SHN_CH_CUR_cur.key n, SHN_CH_STATUS_flags.key n, SHN_CH_STATUS_tile_started.key n,
                     SHN_CH_STATUS_starter.key n, SHN_CH_STATUS_starter_hi.key n] s u
               else rd TIL_CS_STATUS_sh_busy t u = 1 ∧ u.shunts = s.shunts ∧ FieldsKept t [TIL_CS_STATUS_sh_busy.key t] s u)) ∧
        (evt = true → 47 < b.toNat → Quiet s → Unserved t s →
          ∃ u, exec (.shst h ch aa evt b) s = .next u ∧ Stopped t 2 7 false s u ∧ u.shunts = s.shunts ∧ TilesKept t s u) ∧
        (granted t n s = false → (evt = true → b.toNat ≤ 47) → StopsAlone t s →
          ∃ u, exec (.shst h ch aa evt b) s = .next u ∧ Stopped t 0xA 7 false s u ∧ u.shunts = s.shunts ∧ TilesKept t s u)) ∧
      (∀ d : BitVec 5, Fires (.shstat h d ch) t x s →
        (granted t n s = true →
          ∃ u, exec (.shstat h d ch) s = .next u ∧ Advanced t s u ∧ SlotKept t [d] [] [] [] [] [] s u
            ∧ (Machine.core t u).sg d = (if d = 0#5 then 0#64 else BitVec.ofNat 64 (regRaw SHN_CH_STATUS n s))) ∧
        (granted t n s = false → StopsAlone t s → ∃ u, exec (.shstat h d ch) s = .next u ∧ Stopped t 0xA 7 false s u ∧ TilesKept t s u)) ∧
      (Fires (.shstop h ch) t x s →
        (granted t n s = true →
          ∃ u, exec (.shstop h ch) s = .next u ∧ Advanced t s u ∧ SlotKept t [] [] [] [] [] [SHN_CH_STATUS_state.key n] s u
            ∧ chState n u = (if chState n s = 1 then 2 else chState n s)) ∧
        (granted t n s = false → StopsAlone t s → ∃ u, exec (.shstop h ch) s = .next u ∧ Stopped t 0xA 7 false s u ∧ chState n u = chState n s ∧ TilesKept t s u)))

/-! ### Holds, deferred exceptions and control of a core (R133, R135, R138 to R143) -/

/-- WAIT_RELEASE, LRSYNC_RELEASE and FENCE_RELEASE: a long word held by its WAIT, LRSYNC or FENCE goes on once what it waits for has come, and is held again if not. -/
def Obligations.HeldWordsRelease : Prop :=
  ∀ (n : TileN) (x : SlotIn) (s : State), Held n.val x s →
    let t := n.val
    let done := fun (u : State) => Advanced t s u ∧ (Machine.core t u).hold = none
    let again := fun (v : Nat) (u : State) => coreState t u = v ∧ nextIx t u = nextIx t s ∧ (Machine.core t u).hold = some [x]
    (∀ sa : BitVec 5, x.op = .wait sa → (Machine.core t s).sg sa ≠ 0#64 →
      ∃ u, exec (.waitRelease n) s = .next u ∧ SlotKept t [] [] [] [] [] [] s u
        ∧ (if rd TIL_CS_EVT_val t s &&& ((Machine.core t s).sg sa).toNat = 0 then again 2 u else done u)) ∧
    (x.op = .lrsync →
      ∃ u, exec (.lrsyncRelease n) s = .next u ∧ SlotKept t [] [] [] [] [] [] s u
        ∧ (if lrSuspended t s = false ∧ rowQuiet t s = true then done u else again 2 u)) ∧
    (∀ k : BitVec 2, x.op = .fence k →
      ∃ u, exec (.fenceRelease n) s = .next u ∧ SlotKept t [] [] [] [] [] [] s u
        ∧ (if (k = 1#2 ∨ (Machine.core t s).outst = []) ∧ (k = 0#2 ∨ drainsAhead t s = false) then done u else again 1 u))

/-- Run starts an idle core at START and a stopped one at EPC, its cause no longer valid; halt stops it with its next index in EPC; save stops it, takes its lane row with it and is under way; restore begins on an idle or saved core whose lane row is empty, else faults with code 3, recorded too where the core is neither idle nor saved. The tile is awake. Step fetches the long word at EPC of a stopped core and issues it alone: one whose slots are all NOP leaves the core stopped at the index that follows, with nothing else changed. A failed tile takes no control write: each is ignored and recorded. Before boot lock neither run nor step has an effect (log entry 83). Boot is not in recovery. -/
def Obligations.CoreControlWrites : Prop :=
  (∀ (n : TileN) (s : State),
      let t := n.val
      let c := Machine.core t s
      Sound s → Answers s → rd PWR_TILE_state t s = 0 → failedTile t s = false →
      (bootLocked s = false → exec (.coreRun n) s = .next s ∧ exec (.coreStep n) s = .next s) ∧
      (bootLocked s = true → coreState t s = 0 ∨ coreState t s = 3 →
        ∃ u, exec (.coreRun n) s = .next u ∧ coreState t u = 1 ∧ (Machine.core t u).hold = none ∧ rd TIL_CS_CAUSE_valid t u = 0
          ∧ nextIx t u = min (if coreState t s = 0 then rd TIL_CORE_START_start t s else rd TIL_CS_EPC_val t s) 65535
          ∧ SlotKept t [] [] [] [] [] [TIL_CS_CAUSE_valid.key t] s u) ∧
      (coreState t s = 1 ∨ coreState t s = 2 →
        ∃ u, exec (.coreHalt n) s = .next u ∧ coreState t u = 3 ∧ (Machine.core t u).hold = none ∧ rd TIL_CS_EPC_val t u = nextIx t s % 65536
          ∧ nextIx t u = nextIx t s ∧ SlotKept t [] [] [] [] [] [TIL_CS_EPC_val.key t] s u) ∧
      (coreState t s = 1 ∨ coreState t s = 2 ∨ coreState t s = 3 → recCheck t (saveAddr t s) s = 0 → lrSuspended t s = false → (lrow t s).restBusy = none →
        ∃ u, exec (.coreSave n) s = .next u ∧ coreState t u = 4 ∧ rd TIL_CS_EPC_val t u = nextIx t s % 65536
          ∧ (Machine.core t u).recAddr = some (ctxAddr t s) ∧ (Machine.core t u).saveLr = some (saveAddr t s) ∧ (Machine.core t u).replay = c.replay ++ (lrow t s).queue
          ∧ lrow t u = { lrow t s with queue := [], suspBusy := some (saveAddr t s) }
          ∧ RegsKept t [] [] [] [] [] s u ∧ (Machine.core t u).outst = c.outst ∧ OnlyTile t [TIL_CORE_STATUS_state.key t, TIL_CS_EPC_val.key t] s u) ∧
      (restorable t s = true →
        ∃ u, exec (.coreRestore n) s = .next u ∧ coreState t u = 6 ∧ (Machine.core t u).recAddr = some (ctxAddr t s) ∧ SlotKept t [] [] [] [] [] [] s u) ∧
      (restorable t s = false →
        ∃ u, exec (.coreRestore n) s = .next u ∧ rd TIL_CORE_STATUS_ctx_fault t u = 3 ∧ rd TIL_CORE_STATUS_ctx_fault_valid t u = 1
          ∧ OnlyFields [TIL_CORE_STATUS_ctx_fault.key t, TIL_CORE_STATUS_ctx_fault_valid.key t] (if coreState t s = 0 ∨ coreState t s = 5 then s else ctlIgnored t s) u)) ∧
  (∀ (n : TileN) (i : Instr) (s : State), Sound s → Answers s → rd PWR_TILE_state n.val s = 0 → failedTile n.val s = true →
      i ∈ [.coreRun n, .coreHalt n, .coreSave n, .coreRestore n, .coreStep n] → exec i s = .next (event n.val 0x02 0 (TIL_CORE_CONTROL.off n.val 0) s)) ∧
  (∀ (n : TileN) (s : State),
      let t := n.val
      let epc := rd TIL_CS_EPC_val t s
      let c := Machine.core t s
      Sound s → Answers s → rd PWR_TILE_state t s = 0 → failedTile t s = false → bootLocked s = true → coreState t s = 3 → epc ≤ 2047 → s.storeErr = [] → pendingDefer t s = none → traced t s = false →
        (∀ k, k < 8 → ∃ x, decodeSlot k (BitVec.ofNat 64 (ofLe (cells (winAddr t (0x200000 + 64 * epc) + 8 * k) 8 s))) = some x ∧ x.wf = true ∧ x.k = k
          ∧ (x.op = .nop ∨ x.op = .lrnop)) →
      ∃ u, exec (.coreStep n) s = .next u ∧ coreState t u = 3 ∧ rd TIL_CS_EPC_val t u = min (loopEnds epc c.loops).1 65535
        ∧ (Machine.core t u).loops = (loopEnds epc c.loops).2
        ∧ SlotKept t [] [] [] [] [] [TIL_CS_EPC_val.key t] s u)

/-- CONTEXT_SAVE_COMPLETE writes the record of R139, header and body, at the address the save captured, and the core is saved; a deferred exception that waits is taken first, at the boundary at which the save stopped the core (R135, log entry 87). CONTEXT_RESTORE_COMPLETE gives a core and its lane row all that their records hold (R97, R139, R140): scalar, address, predicate and vector registers, the Leroth rows with tags and row state, the status flags, seed, tensor identifier, VFLAGS and event bits, the loops, and the lane row's registers, sets and status, with the recorded replay entries in its queue; it leaves the core stopped at the recorded index. A record that is incomplete, or holds a replay entry that is no lane-row instruction, is refused with ctx_fault 1, and one whose lane-row record is misplaced with 2 (R140); the core is then in the state it had. No possession or cut waits for the tile. -/
def Obligations.ContextSavedAndRestored : Prop :=
  ∀ (n : TileN) (a : Nat) (s : State),
    let t := n.val
    let c := Machine.core t s
    let cls := tileClass t s
    Calm s → PlainMem s → (∀ d, (poss d s).st = 0) → c.ctl = 0 → c.recAddr = some a → a % 512 = 0 → mapped a 0x6D40 s = true → anyDown a 0x6D40 s = false →
    (coreState t s = 4 → (lrow t s).suspBusy = none → (lrow t s).suspHeld = false → (lrow t s).restBusy = none → c.outst = [] → protOk cls a 0x6D40 false true s = true →
      progLocked a 0x6D40 s = false → pendingDefer t s = none →
      ∃ u, exec (.contextSaveComplete n) s = .next u ∧ coreState t u = 5 ∧ tile t u = tile t s ∧ Stored a (ctxHeader t s ++ ctxBody t s) s u
        ∧ TilesKept t s u ∧ OtherFields [TIL_CORE_STATUS_state.key t] s u) ∧
    (∀ d : Defer, coreState t s = 4 → on TIL_LR_STATUS_suspended t s = true → (lrow t s).suspBusy = none → (lrow t s).suspHeld = false → (lrow t s).restBusy = none → c.outst = [] →
        protOk cls a 0x6D40 false true s = true → progLocked a 0x6D40 s = false → pendingDefer t s = some d → d.code < 256 → d.slot < 8 → Unserved t s →
      ∃ u, exec (.contextSaveComplete n) s = .next u ∧ coreState t u = 5 ∧ rd TIL_CS_CAUSE_code t u = d.code ∧ rd TIL_CS_CAUSE_slot t u = d.slot ∧ rd TIL_CS_CAUSE_valid t u = 1
        ∧ on TIL_CS_CAUSE_deferred t u = true ∧ rd TIL_CS_EPC_val t u = nextIx t s % 65536 ∧ RegsKept t [] [] [] [] [] s u ∧ TilesKept t s u
        ∧ ofLe (cells a 8 u) = ofLe (ctxHeader t s) ∧ ∀ x, x < a ∨ a + 0x6D40 ≤ x → byteAt x u = byteAt x s) ∧
    (let rec8 := fun (o : Nat) => ofLe (cells (a + o) 8 s)
     let la := rec8 8
     let lr := cells la 0x52600 s
     let loops := bits (rec8 0) 48 3
     let replays := bits (rec8 0) 52 4
     let replay := (List.range replays).map fun k => ({ slot := rec8 (0x300 + 32 * k), c0 := BitVec.ofNat 64 (rec8 (0x308 + 32 * k)), c1 := BitVec.ofNat 64 (rec8 (0x310 + 32 * k)), idx := rec8 (0x318 + 32 * k) % 2 ^ 16 } : Cap)
     let entryOk := fun (k : Nat) => ∃ x, decodeSlot 5 (BitVec.ofNat 64 (rec8 (0x300 + 32 * k))) = some x ∧ enqueued x.op = true
     let st := recNat lr 0x20 8
     let refused := fun (code : Nat) => ∃ u, exec (.contextRestoreComplete n) s = .next u ∧ coreState t u = c.back ∧ rd TIL_CORE_STATUS_ctx_fault t u = code
       ∧ rd TIL_CORE_STATUS_ctx_fault_valid t u = 1 ∧ RegsKept t [] [] [] [] [] s u ∧ lrow t u = lrow t s ∧ TilesKept t s u ∧ MemKept s u
     coreState t s = 6 → (lrow t s).suspHeld = false → s.cut.restored = false → protOk cls a 0x6D40 true false s = true → c.back = 0 ∨ c.back = 5 →
      (bits (rec8 0) 16 8 ≠ 1 → refused 1) ∧
      (bits (rec8 0) 16 8 = 1 → replays ≤ 8 → loops ≤ 4 → (∃ k, k < replays ∧ ¬ entryOk k) → refused 1) ∧
      (bits (rec8 0) 16 8 = 1 → replays ≤ 8 → loops ≤ 4 → (∀ k, k < replays → entryOk k) → la % 512 ≠ 0 ∨ 2 ^ 48 ≤ la → refused 2) ∧
      (bits (rec8 0) 16 8 = 1 → replays ≤ 8 → loops ≤ 4 → (∀ k, k < replays → entryOk k) →
      la % 512 = 0 → la < 2 ^ 48 → mapped la 0x52600 s = true → anyDown la 0x52600 s = false → protOk cls la 0x52600 true false s = true →
      bits (recNat lr 0 8) 16 8 = 1 → rowEmpty t s = true →
      ∃ u, exec (.contextRestoreComplete n) s = .next u ∧ coreState t u = 3 ∧ nextIx t u = bits (rec8 0) 32 16 ∧ rd TIL_CS_EPC_val t u = bits (rec8 0) 32 16
        ∧ (∀ i : BitVec 5, (Machine.core t u).sg i = (if i = 0#5 then 0#64 else BitVec.ofNat 64 (rec8 (0x100 + 8 * i.toNat))))
        ∧ (∀ i : BitVec 4, (Machine.core t u).ag i = BitVec.ofNat 64 (rec8 (0x200 + 8 * i.toNat)))
        ∧ (∀ i : BitVec 3, (Machine.core t u).pr i = (if i = 0#3 then BitVec.allOnes 64 else BitVec.ofNat 64 (rec8 (0x80 + 8 * i.toNat))))
        ∧ (∀ i : BitVec 5, (Machine.core t u).vg i = BitVec.ofNat 2048 (ofLe (cells (a + 0x400 + 256 * i.toNat) 256 s)))
        ∧ (∀ w j, w < 4 → j < 64 → (Machine.core t u).rowW w j = BitVec.ofNat 576 (ofLe (cells (a + 0x2400 + 72 * (64 * w + j)) 72 s))
             ∧ (Machine.core t u).rowT w j = byteAt (a + 0x6C00 + 64 * w + j) s)
        ∧ (∀ w, w < 4 → (Machine.core t u).rowSt w = { floor := bits (rec8 (0x6D00 + 16 * w)) 0 10, set := bit (rec8 (0x6D00 + 16 * w)) 15, count := rec8 (0x6D08 + 16 * w) })
        ∧ rd TIL_CS_STATUS_sov t u = bits (rec8 0x10) 0 1 ∧ rd TIL_CS_STATUS_dzero t u = bits (rec8 0x10) 1 1
        ∧ rd TIL_CS_STATUS_sig_lost t u = bits (rec8 0x10) 2 1 ∧ rd TIL_CS_STATUS_sh_busy t u = bits (rec8 0x10) 3 1
        ∧ rd TIL_CS_VSEED_val t u = rec8 0x18 ∧ rd TIL_CS_VTID_val t u = bits (rec8 0x20) 0 32 ∧ rd TIL_CS_VFLAGS_val t u = bits (rec8 0x20) 32 8 ∧ rd TIL_CS_EVT_val t u = rec8 0x28
        ∧ (Machine.core t u).loops = (List.range loops).map (fun k => { start := bits (rec8 (0x40 + 16 * k)) 0 16, fin := bits (rec8 (0x40 + 16 * k)) 16 16, count := bits (rec8 (0x40 + 16 * k)) 32 32 })
        ∧ (Machine.core t u).replay = [] ∧ (Machine.core t u).hold = none ∧ (Machine.core t u).outst = [] ∧ pendingDefer t u = (lrow t s).exc
        ∧ (Machine.core t u).ofmtCur = bits (recNat lr 0x28 8) 4 4 ∧ (Machine.core t u).ofmtPend = bits (recNat lr 0x30 8) 4 4
        ∧ lrow t u = { rowOf lr (lrow t s) with queue := replay ++ (lrow t s).queue, suspAddr := none, restBusy := none, restIdx := none }
        ∧ rd TIL_LR_STATUS_pass_tag t u = bits st 0 4 ∧ rd TIL_LR_STATUS_pass_open t u = bits st 4 1 ∧ rd TIL_LR_STATUS_pending_valid t u = bits st 5 1
        ∧ rd TIL_LR_STATUS_shadow_valid t u = bits st 6 1 ∧ rd TIL_LR_STATUS_set0_parked t u = bits st 7 1 ∧ rd TIL_LR_STATUS_set1_parked t u = bits st 8 1
        ∧ rd TIL_LR_STATUS_suspended t u = 0
        ∧ TilesKept t s u ∧ MemKept s u))

/-! ### The lane row (R75 to R99, R104, R127, R137) -/

/-- LR_QUEUE_DISPATCH, no core holding a long word. A step of the open pass within the limits of R87 and R107 adds, in every lane, the exact sum of its truncated addends to its entry and their tag bits to its tag, whatever the bands and promotions between; every other entry stands for what it did; it counts kOf elements in its set, one step in its pass, and fixes the floor of its block. A step with first opens the pending pass: its descriptor becomes current, its set starts from zero with overwrite, its register swaps unless kept, and its tag advances. LRPREP makes its descriptor pending, LRLOAD the outstanding load, LRDCFG the drain descriptor; LRCLOSE closes the pass and parks or drains its set, LRDRAIN orders a drain of a parked set and waits for a set that drains; LRSUSP begins a suspension and LRREST a restore. What R107 lists raises its exception, for the program index of the instruction, and has no other effect; but for a refused record (R97, R104, R448) its fault code is recorded too, and a refusal by protection is counted (R201). A load begins to write the shadow registers, and at its end they hold the stored tile of the operand store; the shadow is then valid, unless a load that waited behind it now begins. An LRLOAD that finds a load outstanding leaves the queue and waits for it. That shadow_valid falls as an LRLOAD leaves the queue, and which of a step's exceptions comes first, is log entry 67; the range check over the whole stored tile and scale array is log entry 85. -/
def Obligations.QueueDispatchAndShadowLoads : Prop :=
  (∀ (n : TileN) (q : Cap) (s : State),
      let t := n.val
      let l := lrow t s
      let suspended := on TIL_LR_STATUS_suspended t s
      let isOpen := on TIL_LR_STATUS_pass_open t s
      Sound s → l.queue = [q] → l.exc = none → l.suspBusy = none → l.restBusy = none → (Machine.core t s).hold = none → (suspended = false ∨ capOp q = 8) →
      let leaves := fun (r : LaneRow) (ks : List Nat) (u : State) => exec (.lrQueueDispatch n) s = .next u ∧ lrow t u = { r with queue := [] }
        ∧ Machine.core t u = Machine.core t s ∧ OnlyTile t ks s u
      let raises := fun (code : Nat) (a : Option Nat) => ∃ u, leaves { l with exc := some (rowExc code q.idx a) } [] u
      let refused := fun (fault code a : Nat) => ∃ u, leaves { l with exc := some (rowExc code q.idx (some a)) } [TIL_LR_FAULT_code.key t, TIL_LR_FAULT_valid.key t, TIL_LR_FAULT_addr.key t] u
        ∧ rd TIL_LR_FAULT_code t u = fault ∧ rd TIL_LR_FAULT_valid t u = 1 ∧ rd TIL_LR_FAULT_addr t u = a
      let barred := fun (fault code a : Nat) => ∃ u, leaves { l with exc := some (rowExc code q.idx (some a)) } [TIL_LR_FAULT_code.key t, TIL_LR_FAULT_valid.key t, TIL_LR_FAULT_addr.key t,
          MST_PROT_COUNT_count.key 0, MST_PROT_VIOL_valid.key 0, MST_PROT_VIOL_addr.key 0, MST_PROT_VIOL_source.key 0, MST_PROT_VIOL_write.key 0] u
        ∧ rd TIL_LR_FAULT_code t u = fault ∧ rd TIL_LR_FAULT_valid t u = 1 ∧ rd TIL_LR_FAULT_addr t u = a ∧ Counts MST_PROT_COUNT_count 0 1 s u
      let drained := fun (set : Nat) (parked : Bool) (u : State) => (lrow t u).run = some { set := set, desc := l.drainDesc, parked := parked } ∧ rd (drainingFld set) t u = 1
      let drainKeys := [TIL_LR_STATUS_set0_draining.key t, TIL_LR_STATUS_set1_draining.key t, TIL_LR_STATUS_drain_fault.key t]
      (let first := bit q.slot 38
       let idx := bits q.slot 20 5
       let floor := bits q.slot 25 10
       let pb := bits q.slot 35 2
       let neg := bit q.slot 37
       let o := q.c0.toNat % 2 ^ 21
       let so := q.c1.toNat % 2 ^ 21
       let d := if first then l.pending else l.current
       let f := pOf d
       let set := if first then pIdle d else aset t s
       let r := if first && !pKeep d then 1 - sset t s else sset t s
       let fl := blkFloor l set (idx / 4)
       let terms := stepTerms l d r (cells (winAddr t o) (opBytes f) s) (if fmtBlock f then cells (winAddr t so) (kOf f / 32) s else []) pb neg floor
       let operands := o % opBytes f = 0 ∧ o + opBytes f ≤ 0x200000 ∧ (fmtBlock f = true → so + kOf f / 32 ≤ 0x200000)
       let goes := capOp q = 1 ∧ floor ≤ 521 ∧ pb ≤ 2 ∧ operands ∧ passLegal d = true ∧ s.storeErr = [] ∧ l.accErr = [] ∧ l.sample = none ∧ GroupSound l
       let ran := fun (u : State) => (lrow t u).queue = [] ∧ blkFloor (lrow t u) set (idx / 4) = { floor := floor, set := true } ∧ (lrow t u).current = d
         ∧ rd TIL_LR_STATUS_pass_open t u = 1 ∧ GroupSound (lrow t u) ∧ (∀ i j, i < 32 → j < 64 → entry (lrow t u) (1 - set) i j = entry l (1 - set) i j)
         ∧ Machine.core t u = Machine.core t s ∧ TilesKept t s u ∧ MemKept s u
       let pass := capOp q = 1 ∧ first = false ∧ isOpen = true
       (goes → first = false → isOpen = true → rd TIL_LR_STATUS_pass_open t s = 1 → (fl.set = true → fl.floor = floor) → countOf t set s + kOf f ≤ 2 ^ 53 →
         ∃ u, exec (.lrQueueDispatch n) s = .next u ∧ ran u ∧ (lrow t u).steps = l.steps + 1 ∧ countOf t set u = countOf t set s + kOf f
           ∧ ∀ i j, i < 32 → j < 64 →
               rowValue (lrow t u) set i j = rowValue l set i j + (if i = idx then termsSum (terms j) else 0#576)
               ∧ (entry (lrow t u) set i j).2 = (entry l set i j).2 ||| (if i = idx then termsTag (terms j) else 0#8)) ∧
       (goes → first = true → on TIL_LR_STATUS_pending_valid t s = true → isOpen = false → (pKeep d = true ∨ on TIL_LR_STATUS_shadow_valid t s = true) →
         pAdd d = false → draining t set s = false → stoppedDrain t set s = none → l.groupValid = false → rd ITG_CONTROL_dup_period 0 s = 0 →
         ∃ u, exec (.lrQueueDispatch n) s = .next u ∧ ran u ∧ (lrow t u).steps = 1 ∧ countOf t set u = kOf f
           ∧ rd TIL_LR_STATUS_pending_valid t u = 0 ∧ rd TIL_LR_STATUS_shadow_valid t u = (if pKeep d then rd TIL_LR_STATUS_shadow_valid t s else 0)
           ∧ rd TIL_LR_STATUS_pass_tag t u = r + 2 * set + 4 * ((rd TIL_LR_STATUS_pass_tag t s / 4 + 1) % 4) ∧ rd (parkedFld set) t u = 0
           ∧ ∀ i j, i < 32 → j < 64 → rowValue (lrow t u) set i j = (if i = idx then termsSum (terms j) else 0#576)
               ∧ (entry (lrow t u) set i j).2 = (if i = idx then termsTag (terms j) else 0#8)) ∧
       (capOp q = 1 → first = true → on TIL_LR_STATUS_pending_valid t s = false → raises 7 none) ∧
       (capOp q = 1 → first = false → isOpen = false → raises 7 none) ∧
       (capOp q = 1 → first = true → on TIL_LR_STATUS_pending_valid t s = true →
         (pKeep d = false → on TIL_LR_STATUS_shadow_valid t s = false → l.load = none → raises 7 none) ∧
         ((pKeep d = true ∨ on TIL_LR_STATUS_shadow_valid t s = true) →
           (passLegal d = false → raises 2 none) ∧ (passLegal d = true → (stoppedDrain t (nextSet t s) s).isSome = true → raises 8 none))) ∧
       (pass → 521 < floor ∨ (fl.set = true ∧ fl.floor ≠ floor) ∨ 2 < pb → raises 2 none) ∧
       (pass → floor ≤ 521 → (fl.set = true → fl.floor = floor) → pb ≤ 2 →
         (o % opBytes f ≠ 0 ∨ 0x200000 < o + opBytes f → raises 3 (some (winAddr t o))) ∧
         (o % opBytes f = 0 → o + opBytes f ≤ 0x200000 → fmtBlock f = true → 0x200000 < so + kOf f / 32 → raises 3 (some (winAddr t so))) ∧
         (operands → 2 ^ 53 < countOf t set s + kOf f → raises 6 none))) ∧
      (capOp q = 3 →
        ∃ u, leaves { l with pending := q.c0.toNat } [TIL_LR_STATUS_pending_valid.key t] u ∧ rd TIL_LR_STATUS_pending_valid t u = 1) ∧
      (let fmt := bits q.slot 20 4
       let dir := bit q.slot 24
       let o := bits q.slot 25 2 * 64
       let pa := bits q.slot 27 2
       let base := q.c0.toNat % 2 ^ 21
       let sb := q.c1.toNat % 2 ^ 21
       let bad := 7 < fmt ∨ (fmtBlock fmt = true ∧ dir = true) ∨ kOf fmt ≤ o ∨ 2 < pa
       let off := base % 256 ≠ 0 ∨ 0x200000 < base + storedBytes fmt ∨ (fmtBlock fmt = true ∧ 0x200000 < sb + kOf fmt * (kOf fmt / 32))
       capOp q = 2 →
        (bad → raises 2 none) ∧ (¬ bad → off → raises 3 (some (winAddr t base))) ∧
        (¬ bad → ¬ off →
          let op : LoadOp := { base := base, sbase := sb, fmt := fmt, dir := dir, o := o, pa := pa, idx := q.idx, busy := false }
          ∃ u, leaves (if l.load = none then { l with load := some op } else { l with nextLoads := l.nextLoads ++ [op] })
              [TIL_LR_STATUS_shadow_valid.key t, TIL_LR_STATUS_shadow_loading.key t] u
            ∧ rd TIL_LR_STATUS_shadow_loading t u = 1 ∧ rd TIL_LR_STATUS_shadow_valid t u = 0)) ∧
      (let o := q.c0.toNat % 2 ^ 21
       let d := cells (winAddr t o) 128 s
       capOp q = 4 → s.storeErr = [] →
        (o % 128 ≠ 0 → raises 3 (some (winAddr t o))) ∧ (o % 128 = 0 → drainLegal d = false → raises 2 none) ∧
        (o % 128 = 0 → drainLegal d = true → ∃ u, leaves { l with drainDesc := d } [] u)) ∧
      (let a := aset t s
       capOp q = 5 →
        (isOpen = false → raises 7 none) ∧
        (isOpen = true → l.groupValid = false → l.sample = none →
          (bit q.slot 12 = true → ∃ u, leaves l [TIL_LR_STATUS_pass_open.key t, (parkedFld a).key t] u ∧ rd TIL_LR_STATUS_pass_open t u = 0 ∧ rd (parkedFld a) t u = 1) ∧
          (bit q.slot 12 = false → l.run = none → stoppedDrain t a s = none →
            ∃ u, leaves { l with run := some { set := a, desc := l.drainDesc, parked := parked t a s } } (TIL_LR_STATUS_pass_open.key t :: drainKeys) u
              ∧ rd TIL_LR_STATUS_pass_open t u = 0 ∧ drained a (parked t a s) u))) ∧
      (let set := bits q.slot 12 1
       capOp q = 6 → stoppedDrain t set s = none →
        (draining t set s = true → exec (.lrQueueDispatch n) s = .next s) ∧
        (draining t set s = false → (isOpen = true ∧ aset t s = set) ∨ parked t set s = false → raises 7 none) ∧
        (draining t set s = false → ¬ (isOpen = true ∧ aset t s = set) → parked t set s = true → l.run = none →
          ∃ u, leaves { l with run := some { set := set, desc := l.drainDesc, parked := true } } drainKeys u ∧ drained set true u)) ∧
      (let a := q.c0.toNat % 2 ^ 48
       (capOp q = 7 → coreState t s ≠ 6 →
        (recCheck t a s = 0 → ∃ u, leaves { l with suspBusy := some a } [] u) ∧ (recCheck t a s = 3 → refused 4 3 a) ∧ (recCheck t a s = 4 → barred 4 4 a)) ∧
       (capOp q = 8 →
        (rowEmpty t s = false ∨ coreState t s = 6 → refused 2 7 a) ∧
        (rowEmpty t s = true → coreState t s ≠ 6 → a % 512 ≠ 0 ∨ mapped a 0x52600 s = false → refused 5 9 a) ∧
        (rowEmpty t s = true → coreState t s ≠ 6 → a % 512 = 0 → mapped a 0x52600 s = true → protOk (tileClass t s) a 0x52600 true false s = false → barred 5 9 a) ∧
        (rowEmpty t s = true → coreState t s ≠ 6 → a % 512 = 0 → mapped a 0x52600 s = true → protOk (tileClass t s) a 0x52600 true false s = true →
          ∃ u, leaves { l with restBusy := some a, restIdx := some q.idx } [] u)))) ∧
  (∀ (n : TileN) (q : LoadOp) (s : State),
      let t := n.val
      let l := lrow t s
      Sound s → l.load = some q →
      (∃ u, exec (.shadowLoadStart n) s = .next u ∧ lrow t u = { l with load := some { q with busy := true } } ∧ Machine.core t u = Machine.core t s ∧ OnlyTile t [] s u) ∧
      (let r := 1 - sset t s
       q.busy = true → q.fmt ≤ 7 → s.storeErr = [] → (Machine.core t s).hold = none →
        ∃ u, exec (.shadowLoadComplete n) s = .next u ∧ (lrow t u).load = l.nextLoads.head? ∧ (lrow t u).nextLoads = l.nextLoads.drop 1
          ∧ rd TIL_LR_STATUS_shadow_valid t u = (if l.nextLoads = [] then 1 else rd TIL_LR_STATUS_shadow_valid t s)
          ∧ rd TIL_LR_STATUS_shadow_loading t u = (if l.nextLoads = [] then 0 else 1)
          ∧ lanePa r (lrow t u) = q.pa ∧ (∀ e ∈ (loadData q fun o => byteAt (winAddr t o) s).1, Map.get zb (laneReg r (lrow t u)) e.1 = e.2)
          ∧ laneReg (1 - r) (lrow t u) = laneReg (1 - r) l ∧ Machine.core t u = Machine.core t s
          ∧ OnlyTile t [TIL_LR_STATUS_shadow_valid.key t, TIL_LR_STATUS_shadow_loading.key t] s u))

/-- A drain begins to convert, after its tensor scale where its record is free; at its end the tile takes event bit 48 and the waiting drain moves up; a refused write stops it with its fault code and address, as a record that cannot be used does when its scale is to be chosen, with code 7. What it writes of a finite sum is its word rounded once: to the nearest value of the format, ties as the mode has them, toward or away from zero, up or down, or by the draw of R46; a word out of range overflows, and one no larger than the largest finite value does not. No core holds a long word, the accumulator store holds no error, no drain is written again, no other unit waits for a history append, and no mirror holds a write back. -/
def Obligations.DrainsRunAndEnd : Prop :=
  (∀ (n : TileN) (d : Drain) (s : State),
    let t := n.val
    let l := lrow t s
    let c := dConv d.desc
    let scale := takeScaleOf (tileClass t s) (fromDrain t) (dHist d.desc) (dCensus d.desc) (ctlFmt c) (drainOwner t d.set) s
    let busy := histBusy (dHist d.desc) (drainOwner t d.set) d.desc s
    Sound s → l.run = some d → (Machine.core t s).hold = none → l.accErr = [] → (Machine.core t s).drainSkip = 0 →
    (∀ i j, dI0 d.desc ≤ i → i ≤ dI1 d.desc → j < 64 → fmtBlock (ctlFmt c) = false → ctlFmt c ≠ 8 → specOf (entry l d.set i j).2 = .fin →
      ∃ els sc, (i, els, sc) ∈ drainConv t d s ∧ els[j]?.map (·.enc) = some (roundOut (ctlFmt c) (if ctlTscale c then scaleK d.scale else 0) (ctlRM c) (ctlSat c)
        (if ctlRM c = .sr then rng32 (dSeed d.desc) (dTid d.desc) (dIndex d.desc i j) 1 else 0) (wordInt (entry l d.set i j).1)).enc) ∧
    (d.active = false → ctlTscale c = false →
      ∃ u, exec (.drainStart n) s = .next u ∧ lrow t u = { l with run := some { d with active := true } } ∧ Machine.core t u = Machine.core t s ∧ OnlyTile t [] s u) ∧
    (d.active = false → ctlTscale c = true → busy = true → exec (.drainStart n) s = .next s) ∧
    (d.active = false → ctlTscale c = true → busy = false → scale.1 ≠ 0 →
      ∃ u, exec (.drainStart n) s = .next u ∧ (lrow t u).run = l.waiting ∧ (lrow t u).waiting = none ∧ rd TIL_LR_FAULT_code t u = 7 ∧ rd TIL_LR_FAULT_valid t u = 1
        ∧ rd TIL_LR_FAULT_addr t u = scale.2.1 % 2 ^ 48 ∧ rd TIL_LR_STATUS_drain_fault t u = 1 ∧ stoppedDrain t d.set u = some { d with active := false }
        ∧ RegsKept t [] [] [] [] [] s u ∧ TilesKept t s u ∧ u.mem = scale.2.2.2.mem) ∧
    (d.active = false → ctlTscale c = true → busy = false → scale.1 = 0 → s.xunits = [] → s.colls = [] →
      ∃ u, exec (.historyAppendWaitEnd n) s = .next u ∧ lrow t u = { l with run := some { d with active := true, scale := scale.2.2.1 } } ∧ Machine.core t u = Machine.core t s
        ∧ TilesKept t s u ∧ u.mem = scale.2.2.2.mem ∧ u.hist = scale.2.2.2.hist) ∧
    (d.active = true → (drainWork t d s).1 = none → drainWaits t d s = false → (∀ q ∈ l.queue.head?, capOp q ≠ 6) →
      ∃ u, exec (.drainComplete n) s = .next u ∧ (lrow t u).run = l.waiting ∧ (lrow t u).waiting = none
        ∧ (rd TIL_CS_EVT_val t u).testBit 48 = true ∧ rd (parkedFld d.set) t u = rd (parkedFld d.set) t s
        ∧ (Machine.core t u).drainsDone = (Machine.core t s).drainsDone + 1 ∧ RegsKept t [] [] [] [] [] s u ∧ TilesKept t s u ∧ u.mem = (drainWork t d s).2.mem) ∧
    (∀ code a : Nat, d.active = true → (drainWork t d s).1 = some (code, a) → drainWaits t d s = false →
      ∃ u, exec (.drainStop n) s = .next u ∧ (lrow t u).run = l.waiting ∧ (lrow t u).waiting = none
        ∧ rd TIL_LR_FAULT_code t u = code % 16 ∧ rd TIL_LR_FAULT_valid t u = 1 ∧ rd TIL_LR_FAULT_addr t u = a % 2 ^ 48 ∧ rd TIL_LR_STATUS_drain_fault t u = 1
        ∧ stoppedDrain t d.set u = some { d with active := false } ∧ RegsKept t [] [] [] [] [] s u ∧ TilesKept t s u ∧ u.mem = (drainWork t d s).2.mem)) ∧
  (∀ (f : Fin 5) (md : RMode) (sat : Bool) (u : Nat) (w : Int), w ≠ 0 →
    let x := outFmt f.val
    let r := roundOut f.val 0 md sat u w
    let v := gridOf f.val 0 r.enc
    let m := w.natAbs
    let q := (max ((topBit m : Int) - 266) x.emin - (x.p - 1) + 266).toNat
    let step := 2 ^ q
    let off := (v - w).natAbs
    (m ≥ 2 ^ 522 → hasTag r.tag tOvf = true) ∧
    (m ≤ x.lm * 2 ^ (x.le + 266).toNat → r.tag = 0#8) ∧
    (hasTag r.tag tOvf = false →
      (v ≠ 0 → (v < 0 ↔ w < 0)) ∧
      (md = .rne → 2 * off ≤ step ∧ (2 * off = step → v.natAbs / step % 2 = 0)) ∧
      (md = .rna → 2 * off ≤ step ∧ (2 * off = step → m < v.natAbs)) ∧
      (md = .rtz → v.natAbs ≤ m ∧ off < step) ∧
      (md = .rup → w ≤ v ∧ off < step) ∧
      (md = .rdn → v ≤ w ∧ off < step) ∧
      (md = .sr → v.natAbs = m / step * step + (if u < (m % step * 2 ^ 32) / step then step else 0))))

/-- A suspension empties the queue into the replay buffer and, its record of R96 written at the save address, leaves an empty suspended lane row; a restore of that record gives the row what it holds, and ends the suspension. Neither order has an effect on a failed tile, where it is recorded. BALLAST_TAPER leaves the eighths of the lanes that R99 gives for the idle run: all for its hold from the first cycle, and then one fewer after every eight cycles. No core holds a long word; no check slot is in use; boot is not in recovery. A restore that meets a context restore is refused as one that meets a row not empty (R449). -/
def Obligations.LaneRowSuspendsAndRestores : Prop :=
  ∀ (n : TileN) (s : State),
    let t := n.val
    let l := lrow t s
    let c := Machine.core t s
    let at_ := saveAddr t s
    Sound s → Answers s → rd PWR_TILE_state t s = 0 →
    (failedTile t s = true → ∀ i ∈ [Instr.tilLrSuspendSuspend n, .tilLrSuspendRestore n], exec i s = .next (event t 0x02 0 (TIL_LR_SUSPEND.off t 0) s)) ∧
    (failedTile t s = false → recCheck t at_ s = 0 → lrSuspended t s = false → l.restBusy = none → coreState t s ≠ 6 →
      ∃ u, exec (.tilLrSuspendSuspend n) s = .next u ∧ lrow t u = { l with queue := [], suspBusy := some at_ }
        ∧ Machine.core t u = { c with replay := c.replay ++ l.queue } ∧ OnlyTile t [] s u) ∧
    (∀ a, PlainMem s → l.suspBusy = some a → a % 512 = 0 → mapped a 0x52600 s = true → anyDown a 0x52600 s = false → progLocked a 0x52600 s = false → s.checks = [] → l.sample = none → l.load = none → l.restBusy = none →
      l.accErr = [] →
      l.drainDesc.length = 128 → ((l.run.toList ++ l.waiting.toList).all fun d => d.desc.length == 128 && !ctlTscale (dConv d.desc)) = true →
      ∃ u, exec (.suspendRecordWritten n) s = .next u ∧ Stored a (lrHeader t ++ lrBody t s) s u ∧ rowEmpty t u = true
        ∧ rd TIL_LR_STATUS_suspended t u = 1 ∧ (lrow t u).suspAddr = some a ∧ Machine.core t u = c ∧ TilesKept t s u) ∧
    (failedTile t s = false → rowEmpty t s = true → coreState t s ≠ 6 → at_ % 512 = 0 → mapped at_ 0x52600 s = true → protOk (tileClass t s) at_ 0x52600 true false s = true →
      ∃ u, exec (.tilLrSuspendRestore n) s = .next u ∧ lrow t u = { l with restBusy := some at_ } ∧ Machine.core t u = c ∧ OnlyTile t [] s u) ∧
    (failedTile t s = false → rowEmpty t s = false ∨ coreState t s = 6 →
      ∃ u, exec (.tilLrSuspendRestore n) s = .next u ∧ rd TIL_LR_FAULT_code t u = 2 ∧ rd TIL_LR_FAULT_valid t u = 1 ∧ tile t u = tile t s
        ∧ OnlyFields [TIL_LR_FAULT_code.key t, TIL_LR_FAULT_valid.key t, TIL_LR_FAULT_addr.key t] s u) ∧
    (∀ a, PlainMem s → l.restBusy = some a → mapped a 0x52600 s = true → anyDown a 0x52600 s = false → protOk (tileClass t s) a 0x52600 true false s = true →
      bits (ofLe (cells a 8 s)) 16 8 = 1 → s.checks = [] → l.suspHeld = false → c.hold = none → c.ctl = 0 →
      let d := cells a 0x52600 s
      ∃ u, exec (.laneRowRestoreComplete n) s = .next u
        ∧ lrow t u = { rowOf d l with queue := c.replay ++ l.queue, suspAddr := none, restBusy := none, restIdx := none }
        ∧ Machine.core t u = { c with replay := [] } ∧ rd TIL_LR_STATUS_suspended t u = 0 ∧ rd TIL_LR_STATUS_pass_open t u = bits (recNat d 0x20 8) 4 1
        ∧ (∀ set k, set < 2 → k < 2048 → entry (lrow t u) set (k / 64) (k % 64)
            = (BitVec.ofNat 576 (ofLe (cells (a + (if set = 0 then 0x9600 else 0x2DE00) + 72 * k) 72 s)), byteAt (a + (if set = 0 then 0x2D600 else 0x51E00) + k) s))
        ∧ TilesKept t s u ∧ MemKept s u) ∧
    (let hold := min (rd TIL_LR_CONTROL_ballast_hold t s) (rd PWR_STATUS_hold_cap 0 s)
     let k := if l.idleRun = 0 then (if hold = 0 then 7 else 8) else if l.ballast = 8 then (if l.idleRun < hold then 8 else 7) else 7 - l.taper / 8
     l.ballast ≠ 0 →
      ∃ u, exec (.ballastTaper n) s = .next u ∧ lrow t u = { l with ballast := k } ∧ rd TIL_LR_STATUS_ballast_active t u = (if k = 0 then 0 else 1)
        ∧ Machine.core t u = c ∧ OnlyTile t [TIL_LR_STATUS_ballast_active.key t] s u)

/-! ### Registers (R6 to R9, R365, R379) -/

/-- REGISTER_WRITE: a host write of a register with no effect beside sets each RW field to what is written within its limits, clears the W1C bits written as one, sets W1S bits, and leaves RO fields; a locked RWL register, and a protection region always (log entry 83), keeps its value and the write is recorded; one outside every register is discarded; one to a register that only management orders write is recorded alone; none arrives while the link is down. -/
def Obligations.RegisterWrites : Prop :=
  (∀ (o : BitVec 26) (v : U64) (r : Reg) (i j : Nat) (s : State), Calm s → Bar0Takes o.toNat s → findReg o.toNat = some (r, i, j) → plainReg r = true →
      (∀ f ∈ r.flds, rd f (r.ix i j) s < 2 ^ f.w ∧ writeHeld f (r.ix i j) s = false ∧ (f.acc = .RWL → rwlHeld f s = false)) →
    let k := r.ix i j
    ∃ u, exec (.registerWrite o v) s = .next u ∧ OnlyFields (r.flds.map fun f => f.key k) s u
      ∧ ∀ f ∈ r.flds,
          let b := bits v.toNat f.lo f.w
          rd f k u = (match f.acc with
            | .RW => storeVal f b u % 2 ^ f.w
            | .RWL => storeVal f b u % 2 ^ f.w
            | .W1C => (rd f k s - (rd f k s &&& b)) % 2 ^ f.w
            | .W1S => (rd f k s ||| b) % 2 ^ f.w
            | _ => rd f k s)) ∧
  (∀ (o : BitVec 26) (v : U64) (r : Reg) (i j : Nat) (s : State), Calm s → Bar0Takes o.toNat s → findReg o.toNat = some (r, i, j) → plainReg r = true →
      (∃ f ∈ r.flds, f.acc = .RWL) → (∀ f ∈ r.flds, f.acc = .RWL ∨ f.acc = .RO) → (∀ f ∈ r.flds, f.acc = .RWL → rwlHeld f s = true) →
    exec (.registerWrite o v) s = .next (event (writeBox r (r.ix i j)) 1 0 (r.off i j) s)) ∧
  (∀ (o : BitVec 26) (v : U64) (s : State), Calm s → Bar0Takes o.toNat s → findReg o.toNat = none → exec (.registerWrite o v) s = .next s) ∧
  (∀ (o : BitVec 26) (v : U64) (s : State), Calm s → s.boot.pcie = true → stage s ≠ 7 → ordersOnly o.toNat = true →
    exec (.registerWrite o v) s = .next (event boxHST 0x02 0 o.toNat s)) ∧
  (∀ (o : BitVec 26) (v : U64) (s : State), Calm s → s.boot.pcie = false → exec (.registerWrite o v) s = .next s)

/-! ### Windows of a Leroth word (R37) -/

/-- A word fits the window of width 32 or 64 at a base where it has no nonzero bit below the base and its quotient is a signed number of the width; the window then is that quotient in two's complement, and a receiver restores the word from it. -/
def Obligations.WindowRestoresWord : Prop :=
  ∀ (w : Int) (f n : Nat), n = 32 ∨ n = 64 →
    ((windowOf w f n).isSome = true ↔ (2 : Int) ^ f ∣ w ∧ -(2 : Int) ^ (n - 1) ≤ w / 2 ^ f ∧ w / 2 ^ f ≤ 2 ^ (n - 1) - 1)
    ∧ ∀ v, windowOf w f n = some v → (v : Int) = w / 2 ^ f % 2 ^ n ∧ unwindow v f n = w

/-! ### The memory code (R189, R190) -/

/-- Every single symbol in error is found and its error value recovered. An error of two or three symbols is never corrected, and never taken for a clean codeword. -/
def Obligations.MemoryCodeCorrectsAndDetects : Prop :=
  (∀ (i : Fin 68) (e : Byte), e ≠ 0#8 → decodeCw (BitVec.ofNat 32 (checkOf i.val e.toNat)) = .corr i.val e.toNat) ∧
  (∀ (i j k : Fin 68) (e f g : Byte), i ≠ j → j ≠ k → i ≠ k → e ≠ 0#8 → f ≠ 0#8 →
      let d := BitVec.ofNat 32 (checkOf i.val e.toNat ^^^ checkOf j.val f.toNat ^^^ checkOf k.val g.toNat)
      decodeCw d ≠ .clean ∧ ∀ x v, decodeCw d ≠ .corr x v)

/-! ### Stations and the CXL tier (R186 to R198, R203 to R213) -/

/-- STATION_ACCESS, for memory with no sector marked: a write changes the bytes written, a load's data come back to its entry, a tile's store lands and leaves the list, an atomic changes its word and keeps the old value; a read whose retries are exhausted is recorded with its sector. No island is to be woken. No station-master core is traced. CXL_ACCESS: a read of a tile that the device poisons or fails comes back as a memory error and is counted, and one of another unit leaves its sector poisoned (log entry 89); one that does not comes back with its data; a posted write to a port that is down is lost and counted. CXL_LINK_DOWN takes the link down and counts the posted writes it lost. -/
def Obligations.StationAndCxlAccesses : Prop :=
  ((∀ (a : Nat) (d : List Byte) (s : State), Calm s → PlainMem s → whereOf a s = .gddr → mapped a d.length s = true → anyDown a d.length s = false →
        wakeAddr a s = s → MastersUntraced s →
      ∃ u, exec (.stationAccess (.smWrite a d) [] 0 false) s = .next u ∧ Stored a d s u ∧ { u with mem := s.mem } = s) ∧
    (∀ (a n : Nat) (s : State), Calm s → PlainMem s → MastersUntraced s → whereOf a s = .gddr → mapped a n s = true → wakeAddr a s = s →
        rd MST_ERR_HEAD_head (stOf a) s < 16 →
      ∃ u, exec (.stationAccess (.smRead a n) [] 0 true) s = .next u ∧ MemKept s u ∧ u.tiles = s.tiles
        ∧ rd MST_ERR_HEAD_pending (stOf a) u = min 16 (rd MST_ERR_HEAD_pending (stOf a) s + 1) % 2 ^ MST_ERR_HEAD_pending.w
        ∧ rd MST_ERR_LOG_LO_kind (16 * stOf a + rd MST_ERR_HEAD_head (stOf a) s) u = 4
        ∧ rd MST_ERR_LOG_LO_addr (16 * stOf a + rd MST_ERR_HEAD_head (stOf a) s) u = sectorOf a % 2 ^ MST_ERR_LOG_LO_addr.w) ∧
    (∀ (t : TileN) (k : Nat) (x : Access) (s : State), Calm s → PlainMem s → (Machine.core t.val s).outst[k]? = some x → mayPerform (Machine.core t.val s).outst k = true →
        whereOf x.addr s = .gddr → mapped x.addr x.len s = true → anyDown x.addr x.len s = false → wakeAddr x.addr s = s →
      let c := Machine.core t.val s
      ∃ u, exec (.stationAccess (.tile t k) [] 0 false) s = .next u ∧ TilesKept t.val s u ∧ lrow t.val u = lrow t.val s ∧ u.flds = s.flds
        ∧ (match x.op with
           | .store b => (∀ e ∈ b, whereOf e.1 s = .gddr) → (b.map Prod.fst).Nodup →
               Machine.core t.val u = { c with outst := c.outst.eraseIdx k } ∧ ∀ y, byteAt y u = ((b.find? fun e => e.1 == y).map Prod.snd).getD (byteAt y s)
           | .amo o _ v => x.len = 8 → x.addr % 8 = 0 →
               Machine.core t.val u = { c with outst := c.outst.set k { x with done := some (cells x.addr 8 s, false) } }
               ∧ Stored x.addr (leBytes (amoNew o (BitVec.ofNat 64 (ofLe (cells x.addr 8 s))) v).toNat 8) s u
           | _ => Machine.core t.val u = { c with outst := c.outst.set k { x with done := some (cells x.addr x.len s, false) } } ∧ MemKept s u))) ∧
  ((∀ (t : TileN) (k : Nat) (x : Access) (p : Nat) (s : State), Calm s → PlainMem s → (Machine.core t.val s).outst[k]? = some x →
        mayPerform (Machine.core t.val s).outst k = true → whereOf x.addr s = .cxl p → mapped x.addr x.len s = true → wakeAddr x.addr s = s →
      let c := Machine.core t.val s
      let done := fun (u : State) (d : List Byte) (bad : Bool) => Machine.core t.val u = { c with outst := c.outst.set k { x with done := some (d, bad) } } ∧ MemKept s u
      (∀ o sd, x.op = .load o sd → anyDown x.addr x.len s = false → unitDown x.addr s = false →
        (∃ u, exec (.cxlAccess (.tile t k) false) s = .next u ∧ done u (cells x.addr x.len s) false ∧ OnlyTile t.val [] s u) ∧
        (∃ u, exec (.cxlAccess (.tile t k) true) s = .next u ∧ done u [] true ∧ Counts MST_CXL_POISON_count p 1 s u ∧ OnlyTile t.val [MST_CXL_POISON_count.key p] s u)) ∧
      (∀ b, x.op = .store b → anyDown x.addr x.len s = true →
        ∃ u, exec (.cxlAccess (.tile t k) false) s = .next u ∧ Machine.core t.val u = { c with outst := c.outst.eraseIdx k } ∧ MemKept s u
          ∧ Counts MST_CXL_LOST_count p 1 s u ∧ OnlyTile t.val [MST_CXL_LOST_count.key p] s u)) ∧
    (∀ (a p : Nat) (d : List Byte) (s : State), Calm s → PlainMem s → whereOf a s = .cxl p → mapped a d.length s = true → anyDown a d.length s = false → wakeAddr a s = s → MastersUntraced s →
      ∃ u, exec (.cxlAccess (.smWrite a d) false) s = .next u ∧ Stored a d s u ∧ { u with mem := s.mem } = s) ∧
    (∀ (a p cls : Nat) (s : State), Calm s → whereOf a s = .cxl p → mapped1 a s = true → unitDown a s = false → wakeAddr a s = s →
      ∃ u, exec (.cxlAccess (.other a cls false) true) s = .next u ∧ cxlPoisonAt (sectorOf a) u = true ∧ (∀ x, x ≠ sectorOf a → cxlPoisonAt x u = cxlPoisonAt x s)
        ∧ { u with cxlPoison := s.cxlPoison } = s) ∧
    (∀ (p : Fin 4) (lost : Nat) (s : State), Sound s →
      (rd MST_CXL_STATUS_link_up p.val s = 0 → exec (.cxlLinkDown p lost) s = .next s) ∧
      (rd MST_CXL_STATUS_link_up p.val s ≠ 0 →
        ∃ u, exec (.cxlLinkDown p lost) s = .next u ∧ rd MST_CXL_STATUS_link_up p.val u = 0 ∧ Counts MST_CXL_LOST_count p.val lost s u ∧ MemKept s u ∧ u.tiles = s.tiles)))

/-- A write to a sector that an armed record holds first puts its 64 old bytes, for their image address, into the push-ahead buffer and sets the sector's pushed bit; then it is performed. COW_PUSH_SEND sends the oldest sector pushed ahead to its destination, the host or this module; COW_DRAIN_SECTOR sends the sector at the cursor to the host and moves the cursor on, only clears the pushed bit of one already pushed, or, past its limit and with nothing left in the push-ahead buffer, ends the record; as the last image leaves and every other part is confirmed, the manifest follows (R328; here to the host). COW_SWEEP of the last abandoned record frees it and the cut reads damaged. The module is bus master; the station is awake and answers. That a sweep drops what the buffer holds is log entry 93. -/
def Obligations.CopyOnWrite : Prop :=
  (∀ (a k : Nat) (d : List Byte) (s : State),
    let x := sectorOf a
    let n := stOf x
    let i := 8 * n + k
    let p : Push := { recNo := k, addr := rd MST_COW_DEST_dest i s + (x - rd MST_COW_BASE_base i s * 4096), data := cells x 64 s, poison := false }
    let q := (station n s).push ++ [p]
    Sound s → CutStill s → s.chk = [] → s.stateWords = [] → MastersUntraced s → wakeAddr a s = s → isl n s = 0 → rd CUT_CONTROL_mirror_en 0 s = 0 →
      d ≠ [] → a + d.length ≤ x + 64 → whereOf a s = .gddr → whereOf x s = .gddr → mapped a d.length s = true → anyDown a d.length s = false →
      recOf x s = some k → rd MST_COW_CURSOR_cursor i s * 64 ≤ x → q.length ≤ 64 →
    ∃ u, exec (.stationAccess (.smWrite a d) [] 0 false) s = .next u ∧ Stored a d s u ∧ station n u = { station n s with push := q } ∧ (isPushed x u).1 = true
      ∧ rd MST_STATUS_push_full n u = (if q.length = 64 then 1 else 0) ∧ Counts MST_PUSHES_count n 1 s u ∧ (∀ m, m ≠ n → station m u = station m s)
      ∧ u.tiles = s.tiles ∧ u.hostOut = s.hostOut ∧ OtherFields [MST_STATUS_push_full.key n, MST_PUSHES_count.key n] s u) ∧
  (∀ (n : StationN) (p : Push) (r : List Push) (s : State), Sound s → (station n.val s).push = p :: r →
    let left := setStation n.val { station n.val s with push := r } s
    let gone := fun (u : State) => station n.val u = { station n.val s with push := r } ∧ rd MST_STATUS_push_full n.val u = 0 ∧ u.tiles = s.tiles
    (∀ c, CutStill left → cowDest n.val p.recNo s = (2, c) → s.boot.masterOff = false →
      ∃ u, exec (.cowPushSend n) s = .next u ∧ gone u ∧ u.hostOut = s.hostOut ++ [{ addr := p.addr, data := p.data, poison := p.poison }] ∧ MemKept s u
        ∧ OtherFields [MST_STATUS_push_full.key n.val] s u) ∧
    (∀ c, CutStill left → cowDest n.val p.recNo s = (0, c) → s.chk = [] → s.cxlPoison = [] → Awake s → p.poison = false → mapped p.addr p.data.length s = true →
        anyDown p.addr p.data.length s = false →
      ∃ u, exec (.cowPushSend n) s = .next u ∧ gone u ∧ Stored p.addr p.data s u ∧ OtherFields [MST_STATUS_push_full.key n.val] s u) ∧
    (∀ c, Draining s → ¬ ManifestRests left → cowDest n.val p.recNo s = (2, c) → s.boot.masterOff = false → snKind (recW s) = 2 →
      ∃ u, exec (.cowPushSend n) s = .next u ∧ gone u ∧ u.cut = { s.cut with begun := s.cut.begun ++ [170] } ∧ MemKept s u
        ∧ u.hostOut = s.hostOut ++ { addr := p.addr, data := p.data, poison := p.poison } :: manifestWrites s)) ∧
  (∀ (n : StationN) (k : Fin 8) (s : State),
    let i := 8 * n.val + k.val
    let at_ := rd MST_COW_CURSOR_cursor i s * 64
    let g := ownGranule n.val (at_ / 4096)
    let x := if g = at_ / 4096 then at_ else g * 4096
    let on_ := fun (u : State) => u.tiles = s.tiles ∧ u.stations = s.stations ∧ rd MST_COW_CURSOR_cursor i u = (x / 64 + 1) % 2 ^ MST_COW_CURSOR_cursor.w
      ∧ MemKept s u ∧ OtherFields [MST_COW_CURSOR_cursor.key i] s u
    Sound s → CutStill s → rd CUT_STATUS_state 0 s = 3 → isl n.val s = 0 → (rd MST_STATUS_armed n.val s).testBit k.val = true →
    (∀ c, x / 4096 ≤ rd MST_COW_LIMIT_limit i s → isPushed x s = (false, s) → s.chk = [] → unitDown x s = false → cowDest n.val k.val s = (2, c) → s.boot.masterOff = false →
      ∃ u, exec (.cowDrainSector n k) s = .next u ∧ on_ u
        ∧ u.hostOut = s.hostOut ++ [{ addr := rd MST_COW_DEST_dest i s + (x - rd MST_COW_BASE_base i s * 4096), data := cells x 64 s }]) ∧
    (x / 4096 ≤ rd MST_COW_LIMIT_limit i s → isPushed x s = (true, s) →
      ∃ u, exec (.cowDrainSector n k) s = .next u ∧ on_ u ∧ u.hostOut = s.hostOut ∧ isPushed x u = (false, u)) ∧
    (rd MST_COW_LIMIT_limit i s < x / 4096 →
      ((station n.val s).push ≠ [] → exec (.cowDrainSector n k) s = .next s) ∧
      ((station n.val s).push = [] → CutStill (wrBit MST_STATUS_armed n.val k.val false s) →
        ∃ u, exec (.cowDrainSector n k) s = .next u ∧ (rd MST_STATUS_armed n.val u).testBit k.val = false ∧ u.hostOut = s.hostOut ∧ u.stations = s.stations
          ∧ u.tiles = s.tiles ∧ MemKept s u ∧ OtherFields [MST_COW_CURSOR_cursor.key i, MST_STATUS_armed.key n.val] s u) ∧
      ((station n.val s).push = [] → ¬ ManifestRests (wrBit MST_STATUS_armed n.val k.val false s) → Draining s → snKind (recW s) = 2 → s.boot.masterOff = false →
        ∃ u, exec (.cowDrainSector n k) s = .next u ∧ (rd MST_STATUS_armed n.val u).testBit k.val = false ∧ u.cut = { s.cut with begun := s.cut.begun ++ [170] }
          ∧ u.hostOut = s.hostOut ++ manifestWrites s ∧ u.stations = s.stations ∧ u.tiles = s.tiles ∧ MemKept s u))) ∧
  (∀ (n : StationN) (k : Fin 8) (s : State), Sound s → NoneWaits s → rd CUT_STATUS_log_open 0 s = 0 → rd CUT_STATUS_sweeping 0 s = 1 →
      s.sweep = [(8 * n.val + k.val, true)] → s.stateWords = [] →
    ∃ u, exec (.cowSweep n k) s = .next u ∧ u.sweep = [] ∧ (rd MST_STATUS_armed n.val u).testBit k.val = false
      ∧ (station n.val u).push = (station n.val s).push.filter (fun p => p.recNo != k.val)
      ∧ rd CUT_STATUS_state 0 u = 6 ∧ rd CUT_STATUS_sweeping 0 u = 0 ∧ rd CUT_STATUS_event 0 u = 1 ∧ MemKept s u ∧ u.tiles = s.tiles)

/-- The patrol scrub starts, by its period or by a kick, and reads codeword after codeword to the end of its pass; a refresh retrains a device that waits for it; the retraining period and its request queue all four; CONSUMED empties the error log; a device that stops responding fails its station. The station is awake, and boot is not in recovery. -/
def Obligations.StationUpkeep : Prop :=
  ∀ (n : StationN) (s : State),
    let x := station n.val s
    Sound s → Answers s → isl n.val s = 0 →
    (x.scrubAt = none →
      (∃ u, exec (.scrubKick n) s = .next u ∧ station n.val u = { x with scrubAt := some 0 } ∧ rd MST_STATUS_scrub_active n.val u = 1
        ∧ OnlyStation n.val [MST_STATUS_scrub_active.key n.val] s u)
      ∧ (on MST_CONTROL_scrub_en n.val s = true →
        ∃ u, exec (.scrubPassStart n) s = .next u ∧ station n.val u = { x with scrubAt := some 0 } ∧ rd MST_STATUS_scrub_active n.val u = 1
          ∧ OnlyStation n.val [MST_STATUS_scrub_active.key n.val] s u)) ∧
    (∀ p, x.scrubAt = some p → s.chk = [] → s.stateWords = [] →
      ∃ u, exec (.scrubCodeword n []) s = .next u
        ∧ (if p + 1 < 31 * segments s then station n.val u = { x with scrubAt := some (p + 1) } ∧ OnlyStation n.val [] s u
           else station n.val u = { x with scrubAt := none } ∧ rd MST_STATUS_scrub_active n.val u = 0 ∧ Counts MST_SCRUB_PASSES_count n.val 1 s u
             ∧ OnlyStation n.val [MST_STATUS_scrub_active.key n.val, MST_SCRUB_PASSES_count.key n.val] s u)) ∧
    (∀ d : Fin 4, x.retrainQ.testBit d.val = true →
      ∃ u, exec (.gddr7Refresh n d) s = .next u ∧ station n.val u = { x with retrainQ := x.retrainQ - 2 ^ d.val } ∧ Counts MST_RETRAINS_count n.val 1 s u
        ∧ OnlyStation n.val [MST_RETRAINS_count.key n.val] s u) ∧
    (∀ d : Fin 4, x.retrainQ.testBit d.val = false → exec (.gddr7Refresh n d) s = .next s) ∧
    (∃ u, exec (.retrainReq n) s = .next u ∧ station n.val u = { x with retrainQ := 15 } ∧ OnlyStation n.val [] s u) ∧
    (∃ u, exec (.retrainPeriod n) s = .next u ∧ station n.val u = { x with retrainQ := 15, periodRetries := 0 } ∧ OnlyStation n.val [] s u) ∧
    (∃ u, exec (.consumed n) s = .next u ∧ rd MST_ERR_HEAD_pending n.val u = 0 ∧ OnlyFields [MST_ERR_HEAD_pending.key n.val] s u) ∧
    (∀ d : Fin 4, ∃ u, exec (.deviceStoppedResponding n d) s = .next u ∧ rd MST_STATUS_ready n.val u = 0 ∧ (rd MST_STATUS_dev_fail n.val u).testBit d.val = true
        ∧ MemKept s u ∧ u.tiles = s.tiles ∧ u.stations = s.stations)

/-! ### Shunting channels (R217 to R235) -/

/-- The orders of a channel, its half of the engine awake: start and start_chain take an idle channel into a run and are refused on any other; stop turns a run to stopping; resume takes a stopped or failed channel on; clear frees it. A direct start leaves no descriptor address in CUR. Before boot lock neither start has an effect (log entry 83). Boot is not in recovery. -/
def Obligations.ShuntOrders : Prop :=
  ∀ (n : ChanN) (s : State),
    let ch := n.val
    let kept := fun (u : State) => { u with flds := s.flds, shunts := s.shunts, freeCount := s.freeCount } = s ∧ ∀ k, k ≠ ch → Machine.shunt k u = Machine.shunt k s
    let started := [SHN_CH_STATUS_state.key ch, SHN_CH_STATUS_flags.key ch, SHN_CH_STATUS_tile_started.key ch, SHN_CH_CUR_cur.key ch]
    Sound s → Answers s → wakeShunt ch s = s →
    (bootLocked s = false → exec (.shnStart n) s = .next s ∧ exec (.shnStartChain n) s = .next s) ∧
    (bootLocked s = true → chState ch s = 0 →
      (∃ u, exec (.shnStart n) s = .next u ∧ chState ch u = 1 ∧ rd SHN_CH_STATUS_flags ch u = 0 ∧ rd SHN_CH_STATUS_tile_started ch u = 0
        ∧ Machine.shunt ch u = { direct := true } ∧ kept u ∧ OtherFields started s u)
      ∧ (∃ u, exec (.shnStartChain n) s = .next u ∧ chState ch u = 1 ∧ rd SHN_CH_STATUS_flags ch u = 0 ∧ rd SHN_CH_STATUS_tile_started ch u = 0
        ∧ rd SHN_CH_CUR_cur ch u = rd SHN_CH_CHAIN_chain ch s % 2 ^ 48 ∧ Machine.shunt ch u = {} ∧ kept u ∧ OtherFields started s u)) ∧
    (bootLocked s = true → chState ch s ≠ 0 →
      (∃ u, exec (.shnStart n) s = .next u ∧ rd SHN_CH_STATUS_start_refused ch u = 1 ∧ OnlyFields [SHN_CH_STATUS_start_refused.key ch] s u)
      ∧ (∃ u, exec (.shnStartChain n) s = .next u ∧ rd SHN_CH_STATUS_start_refused ch u = 1 ∧ OnlyFields [SHN_CH_STATUS_start_refused.key ch] s u)) ∧
    (chState ch s = 1 → ∃ u, exec (.shnStop n) s = .next u ∧ chState ch u = 2 ∧ OnlyFields [SHN_CH_STATUS_state.key ch] s u) ∧
    (chState ch s = 3 ∨ chState ch s = 4 →
      (∃ u, exec (.shnResume n) s = .next u ∧ chState ch u = 1 ∧ Machine.shunt ch u = { Machine.shunt ch s with phase := 0, err := none, toSend := [] }
        ∧ kept u ∧ OtherFields [SHN_CH_STATUS_state.key ch] s u)
      ∧ (∃ u, exec (.shnClear n) s = .next u ∧ chState ch u = 0 ∧ rd SHN_CH_CUR_cur ch u = 0 ∧ Machine.shunt ch u = {}
        ∧ kept u ∧ OtherFields [SHN_CH_STATUS_state.key ch, SHN_CH_CUR_cur.key ch] s u))

/-- A descriptor begins once it is read and found legal; one that is not stops the channel with code 1 at its address. A channel that a restore starts again runs the descriptor it held at the cut (R230). A local descriptor moves the rows that its transform makes of its source rows (R222 to R227), and then waits for its read-back, or goes on to the next descriptor where it asks for none; the return of the read-back of a last descriptor leaves the channel idle and counts it done. A remote one sends the same rows, cut at 256-byte boundaries (R232), as writes to its module, as far as tags are free. Plain memory, no watchpoint, no command served. An error stop leaves the channel in state 4 with its code and address, and tells the tile that started it by event bit 49; the remote writes sent first that are unanswered for a millisecond are such an error, code 5 where none was met before, and their tags are abandoned; the channel stops once no other is outstanding. Of writes sent in one cycle the lowest tag's address is named (log entry 69). -/
def Obligations.ShuntMovesAndEnds : Prop :=
  (∀ (n : ChanN) (s : State),
      let ch := n.val
      let x := Machine.shunt ch s
      let cur := rd SHN_CH_CUR_cur ch s
      let open_ := fun (a len : Nat) (r w : Bool) => mapped a len s = true ∧ protOk 5 a len r w s = true ∧ anyDown a len s = false
      Calm s → PlainMem s → (∀ k, k < 32 → rd DBG_WP_BASE_valid k s = 0) → (∀ t, x.starter = some t → t < 168) → x.cmd = none →
      (chState ch s = 1 ∨ chState ch s = 2 → x.phase = 0 → x.direct = true → x.again = false → (sdesc (directDesc ch s)).legal = true →
        ∃ u, exec (.shnDescriptorBegin n) s = .next u ∧ { u with shunts := s.shunts } = s
          ∧ Machine.shunt ch u = { x with desc := directDesc ch s, phase := 1, lastW := (sdesc (directDesc ch s)).lastByte, err := none }) ∧
      (chState ch s = 1 ∨ chState ch s = 2 → x.phase = 0 → x.direct = false → x.again = false → cur % 64 = 0 → descPlace cur s = true → open_ cur 64 true false →
        let b := cells cur 64 s
        let d := sdesc b
        ∃ u, exec (.shnDescriptorBegin n) s = .next u ∧ MemKept s u
          ∧ (d.legal = true → d.remote = false →
              Machine.shunt ch u = { x with desc := b, phase := 1, lastW := d.lastByte, err := none } ∧ { u with shunts := s.shunts } = s)
          ∧ (d.legal = false → chState ch u = 4 ∧ rd SHN_CH_ERR_valid ch u = 1 ∧ rd SHN_CH_ERR_code ch u = 1 ∧ rd SHN_CH_ERR_addr ch u = cur % 2 ^ 48
              ∧ ∀ t, x.starter = some t → (rd TIL_CS_EVT_val t u).testBit 49 = true)) ∧
      (chState ch s = 1 ∨ chState ch s = 2 → x.phase = 0 → x.again = true → (sdesc x.desc).legal = true → (sdesc x.desc).remote = false →
        ∃ u, exec (.shnDescriptorBegin n) s = .next u ∧ { u with shunts := s.shunts } = s
          ∧ Machine.shunt ch u = { x with again := false, phase := 1, lastW := (sdesc x.desc).lastByte, err := none }) ∧
      (let d := sdesc x.desc
       x.phase = 1 → d.remote = false → d.legal = true → SourceOpen d s → (∀ w ∈ moved d s, MayAccess 5 2 w.1 w.2.length false true s) →
        ∃ u, exec (.shnDescriptorWritesAccepted n) s = .next u ∧ Writes (moved d s) s u ∧ Counts SHN_CH_BYTES_count ch ((moved d s).map fun w => w.2.length).sum s u ∧ u.tiles = s.tiles
          ∧ (d.notify = true ∨ d.last = true → Machine.shunt ch u = { x with phase := 2 } ∧ chState ch u = chState ch s)
          ∧ (d.notify = false → d.last = false → Machine.shunt ch u = { x with phase := 0, direct := false } ∧ chState ch u = (if chState ch s = 2 then 3 else 1) ∧ rd SHN_CH_CUR_cur ch u = d.next)) ∧
      (let b := if x.again then x.desc else if x.direct then directDesc ch s else cells cur 64 s
       let d := sdesc b
       chState ch s = 1 ∨ chState ch s = 2 → x.phase = 0 → (x.again = false → x.direct = false → cur % 64 = 0 ∧ descPlace cur s = true ∧ open_ cur 64 true false) →
        d.legal = true → d.remote = true → x.siding = false → SourceOpen d s →
        ∃ u sent, exec (.shnDescriptorBegin n) s = .next u ∧ MemKept s u ∧ u.tiles = s.tiles ∧ (Machine.shunt ch u).phase = 1 ∧ (Machine.shunt ch u).desc = b ∧ (Machine.shunt ch u).err = none
          ∧ u.injq = s.injq ++ sent ∧ (Machine.shunt ch u).remoteOut = x.remoteOut + sent.length ∧ ((Machine.shunt ch u).toSend ≠ [] → freeTag u = none)
          ∧ (sent.map fun r => (r.pkt.addr, r.pkt.payload, r.pkt.poison)) ++ (Machine.shunt ch u).toSend = (moved d s).flatMap (fun w => (cutBytes w.1 w.2).map fun e => (e.1, e.2, false))
          ∧ ∀ r ∈ sent, r.pkt.typ = 0x01 ∧ r.pkt.vc = 0 ∧ r.pkt.dst = d.coord ∧ r.pkt.src = chCoord ch s) ∧
      (let d := sdesc x.desc
       x.phase = 2 → d.remote = false → d.last = true → open_ x.lastW 1 true false →
        ∃ u, exec (.shnReadbackReturn n) s = .next u ∧ chState ch u = 0 ∧ Machine.shunt ch u = {} ∧ Counts SHN_CH_STATUS_done ch 1 s u ∧ MemKept s u ∧ u.tiles = s.tiles
          ∧ ∀ t b, x.starter = some t → x.evt = some b → b < 64 → (rd TIL_CS_EVT_val t u).testBit b = true)) ∧
  (∀ (n : ChanN) (s : State),
      let ch := n.val
      let x := Machine.shunt ch s
      let stopped := fun (u : State) (code a : Nat) => chState ch u = 4 ∧ rd SHN_CH_ERR_valid ch u = 1 ∧ rd SHN_CH_ERR_code ch u = code % 8
        ∧ rd SHN_CH_ERR_addr ch u = a % 2 ^ 48 ∧ Machine.shunt ch u = { x with phase := 0, err := none, toSend := [], remoteOut := 0 }
        ∧ (∀ t, x.starter = some t → (rd TIL_CS_EVT_val t u).testBit 49 = true) ∧ MemKept s u ∧ u.tiles = s.tiles
      Calm s → (∀ t, x.starter = some t → t < 168) → x.cmd = none →
      (∀ code a, x.err = some (code, a) → x.remoteOut = 0 → ∃ u, exec (.shnErrorStop n) s = .next u ∧ stopped u code a) ∧
      (∀ e l, chOldest ch s = e :: l →
        let met := x.err.getD (5, e.2.1)
        let given := fun (u : State) => ∀ y ∈ e :: l, ∃ w, Map.get (fun _ => none) u.tags y.1 = some w ∧ w.abandoned = true
        (x.phase = 2 ∨ x.remoteOut ≤ l.length + 1 → ∃ u, exec (.shnRemoteTimeout n) s = .next u ∧ stopped u met.1 met.2 ∧ given u) ∧
        (x.phase ≠ 2 → l.length + 1 < x.remoteOut →
          ∃ u, exec (.shnRemoteTimeout n) s = .next u ∧ given u ∧ Machine.shunt ch u = { x with toSend := [], remoteOut := x.remoteOut - (l.length + 1), err := some met }
            ∧ { u with shunts := s.shunts, tags := s.tags } = s)) ∧
      (chTags ch s = [] → exec (.shnRemoteTimeout n) s = .next s))

/-! ### Ulusen ports (R236 to R261) -/

/-- A port comes up step by step: enabled with a cable it reads the cable's identity, trains its lanes, aligns, verifies its peer and measures the link; without a cable it fails with reason 1, and with a bad identity, misnumbered lanes or a wrong peer it stops in FAILED with the reason of that step. PING_TIMER sends the next PING at the first cell position still to be sent; the 64th ECHO sets skid and off_t from the round trip and makes the port ACTIVE, or stops it with reason 6 or 7 (R251, R253). On a port that concerns itself alone. A cable drawn from a port takes it DOWN with fail_reason 1, and a port disabled loses its frames (log entry 18); taps are saved at the end of training, and where a PING stands in its frame is the model's choice (log entry 80); a port enabled before boot lock only holds the enable (log entry 83). -/
def Obligations.PortBringUpSteps : Prop :=
  ∀ (n : PortN) (s : State),
    let p := n.val
    let x := port p s
    let go := fun (u : State) (k : Nat) => portState p u = k ∧ PortAlone p s u
    let failed := fun (u : State) (r : Nat) => go u 9 ∧ rd ULP_STATUS_fail_reason p u = r ∧ rd ULP_STATUS_fail_valid p u = 1
      ∧ (port p u).frames = [] ∧ (port p u).outq = []
    Calm s → OwnPort p s → Answers s →
    (portState p s = 0 → bootLocked s = false → ∃ u, exec (.portEnable n true) s = .next u ∧ rd ULP_CONTROL_enable p u = 1 ∧ OnlyFields [ULP_CONTROL_enable.key p] s u) ∧
    (portState p s = 0 → bootLocked s = true → rd ULP_STATUS_present p s = 1 →
      ∃ u, exec (.portEnable n true) s = .next u ∧ go u (if x.saved then 2 else 1) ∧ rd ULP_CONTROL_enable p u = 1) ∧
    (portState p s = 0 → bootLocked s = true → rd ULP_STATUS_present p s = 0 →
      ∃ u, exec (.portEnable n true) s = .next u ∧ go u 0 ∧ rd ULP_STATUS_fail_reason p u = 1 ∧ rd ULP_STATUS_fail_valid p u = 1) ∧
    (portState p s ≠ 0 →
      ∃ u, exec (.portEnable n false) s = .next u ∧ go u 0 ∧ rd ULP_CONTROL_enable p u = 0 ∧ (port p u).frames = [] ∧ (port p u).outq = []) ∧
    (portState p s = 6 → ∃ u, exec (.portRetrain n) s = .next u ∧ port p u = { x with retrainReq := true } ∧ OnlyPort p [] s u) ∧
    (portState p s ≠ 6 → exec (.portRetrain n) s = .next s) ∧
    (portState p s = 0 → rd ULP_STATUS_present p s = 0 →
      ∃ u, exec (.cablePresence n true) s = .next u ∧ rd ULP_STATUS_present p u = 1 ∧ go u (if on ULP_CONTROL_enable p s && bootLocked s then 1 else 0)) ∧
    (portState p s ≠ 0 → portState p s ≠ 9 → rd ULP_STATUS_present p s = 1 →
      ∃ u, exec (.cablePresence n false) s = .next u ∧ rd ULP_STATUS_present p u = 0 ∧ go u 0 ∧ rd ULP_STATUS_fail_reason p u = 1) ∧
    (∀ d, portState p s = 1 →
      ∃ u, exec (.cableIdentityRead n d) s = .next u ∧ (∀ m, m < 16 → rd ULP_CABLE_data (ULP_CABLE.ix p m) u = recNat d (8 * m) 8)
        ∧ (if cableOk d then go u 2 else failed u 2)) ∧
    (∀ (good : BitVec 16) (nums : List (Fin 16)), portState p s = 2 →
      ∃ u, exec (.laneTrained n good nums) s = .next u
        ∧ (if (List.range 16).all fun l => !good.getLsbD l || (nums.map (·.val)).getD (rxLane p l s) 16 == l
           then go u 3 ∧ (port p u).good = good.toNat ∧ (port p u).saved = true else failed u 4)) ∧
    (portState p s = 3 → ∃ u, exec (.alignLock n) s = .next u ∧ go u 4) ∧
    (∀ (coord : BitVec 18) (role : BitVec 4) (letter : Bool) (good : BitVec 16) (degrade : Bool), portState p s = 4 →
      let own := rd ULP_ROLE_role p s
      let fits := own ≠ 0 ∧ peerOf (ownCoord s) own = (coord.toNat, role.toNat) ∧ on ULP_ROLE_letter p s = letter
      ∃ u, exec (.verifyReport n coord role letter good degrade) s = .next u ∧ rd ULP_PEER_coord p u = coord.toNat ∧ rd ULP_PEER_valid p u = 1
        ∧ (¬ fits → failed u 5)
        ∧ (fits → linkWidth x.good good.toNat (degrade && on ULP_CONTROL_degrade_en p s) = none → failed u 4)
        ∧ (∀ w, fits → linkWidth x.good good.toNat (degrade && on ULP_CONTROL_degrade_en p s) = some w → x.waking = false →
            go u 5 ∧ rd ULP_STATUS_width8 p u = (if w = 0 then 0 else 1) ∧ (port p u).pings = 0 ∧ (port p u).echoes = 0)) ∧
    (portState p s = 5 → x.pings < 64 →
      let c := BitVec.ofNat 128 (0xF2 + x.pings * 2 ^ 8)
      ∃ u, exec (.pingTimer n) s = .next u ∧ OnlyPort p [] s u
        ∧ port p u = (if x.wire ≠ [] ∧ x.wire.length < 10280
            then { x with pings := x.pings + 1, pingAt := Map.set (fun _ => none) x.pingAt x.pings (some s.cycle), wire := x.wire ++ [c] }
            else { x with pings := x.pings + 1, ctlq := .ctl c :: x.ctlq })) ∧
    (∀ w r t, portState p s = 5 → x.echoes = 63 → headCell p 0xF3 s = some (w, r) → Map.get (fun _ => none) x.pingAt (bits w 8 16) = some t →
        rd ULP_RTT_rtt p s < 2 ^ 16 →
      let rtt := max (min 65535 (((s.cycle - t) * 5 + 8) / 9)) (rd ULP_RTT_rtt p s)
      let k := rtt * (if on ULP_STATUS_width8 p s then 14 else 27) + 128
      let rest := 32768 - resSum p s
      ∃ u, exec (.echoCell n) s = .next u ∧ rd ULP_RTT_rtt p u = rtt ∧ (port p u).echoes = 64
        ∧ (rtt > 1000 → failed u 6)
        ∧ (rtt ≤ 1000 → rest < k + 2048 → failed u 7)
        ∧ (rtt ≤ 1000 → k + 2048 ≤ rest → x.waking = false →
            go u 6 ∧ rd ULP_FC_STATUS_skid p u = k ∧ rd ULP_FC_STATUS_off_t p u = rest - k
            ∧ (x.retraining = false → (port p u).frames = [] ∧ (port p u).txNum = 0 ∧ (port p u).need = 0
                ∧ (x.used < rest - k → rd ULP_STATUS_closed p u = 0))
            ∧ (x.retraining = true → (port p u).frames = x.frames ∧ (port p u).txNum = x.txNum ∧ (port p u).need = x.need
                ∧ (port p u).retraining = false ∧ (port p u).resend = x.frames.head?.map (·.num)))) ∧
    (1 ≤ portState p s → portState p s ≤ 5 → ∃ u, exec (.trainingTimeout n) s = .next u ∧ failed u 3) ∧
    (portState p s = 6 →
      ∃ u, exec (.linkLost n) s = .next u
        ∧ (if on ULP_CONTROL_auto_retrain p s then go u 2 ∧ Counts ULP_RETRAINS_count p 1 s u ∧ (port p u).retraining = true ∧ (port p u).frames = x.frames else failed u 8))

/-- The link control cells of R244 and the frame cell, taken from the head of a port's cells: a link field acknowledges frames and carries limits and modes, and a replay request goes back; MARK, PING, ECHO, TUNE and NAP do what R246 and R251 to R256 say. The ECHO, and the MARK that a changed mode sends, leave at the first cell position still to be sent: in the frame now sent where that takes cells, else ahead of all others in the next (R251, R254; where that position stands is log entry 80). A port asleep by its NAP whose season has turned meanwhile wakes at once (log entry 80); the sequencer that takes it down waits for the station clock (R404). -/
def Obligations.LinkCells : Prop :=
  ∀ (n : PortN) (c : RxCell) (r : List RxCell) (s : State),
    let p := n.val
    let x := port p s
    let w := c.c.toNat
    let f := w / 2 ^ 16
    let ack := bits f 0 16
    let left := x.frames.dropWhile fun fr => decide ((ack + 65536 - fr.num) % 65536 < 32768)
    let mark := BitVec.ofNat 128 (0xF1 + (if bit f 24 then 2 ^ 8 else 0) + (if bit f 23 then 2 ^ 9 else 0))
    let taken := fun (u : State) => (port p u).cells = r ∧ (∀ v, v < 6 → zget (port p u).limits v = bits f (25 + 12 * v) 12)
      ∧ (bit f 24 = x.txGen → (port p u).frames = left ∧ (port p u).ctlq = x.ctlq ∧ (port p u).wire = x.wire)
      ∧ (bit f 24 ≠ x.txGen → (port p u).txGen = bit f 24 ∧ (port p u).txClosed = bit f 23 ∧ (bit f 23 = true → (port p u).sent = [])
          ∧ (portState p s ≠ 6 ∨ x.opened = false ∨ left = [] → (port p u).frames = left ∧ (port p u).ctlq = .ctl mark :: x.ctlq)
          ∧ ∀ l g, portState p s = 6 → x.opened = true → left = l ++ [g] →
              (g.size < 10279 → (port p u).frames = l ++ [{ g with items := g.items ++ [.ctl mark] }] ∧ (port p u).wire = x.wire ++ [mark] ∧ (port p u).ctlq = x.ctlq)
              ∧ (g.size ≥ 10279 → (port p u).frames = left ∧ (port p u).ctlq = .ctl mark :: x.ctlq))
      ∧ rd ULP_STATUS_peer_closed p u = (if bit f 23 then 1 else 0) ∧ rd ULP_STATUS_peer_on p u = bits f 17 6
      ∧ (bit f 16 = false → (port p u).replayAck = (if x.holdoff then x.replayAck else none) ∧ (port p u).holdoff = x.holdoff ∧ (port p u).again = false ∧ (port p u).resend = x.resend)
      ∧ (bit f 16 = true → x.replayAck = some ack → x.holdoff = true → (port p u).again = true ∧ (port p u).resend = x.resend)
      ∧ (bit f 16 = true → ¬ (x.replayAck = some ack ∧ x.holdoff = true) → left ≠ [] →
          (port p u).resend = some ((ack + 1) % 65536) ∧ (port p u).holdoff = true ∧ Counts ULP_REPLAYS_count p 1 s u)
      ∧ u.tiles = s.tiles ∧ u.mem = s.mem ∧ ∀ q, q ≠ p → port q u = port q s
    Calm s → OwnPort p s → x.cells = c :: r →
    (c.kind = .frame → ∃ u, exec (.frameCell n) s = .next u ∧ taken u) ∧
    (c.kind = .ctl → w % 256 = 0xF0 → ∃ u, exec (.flow n) s = .next u ∧ taken u) ∧
    (c.kind = .ctl → w % 256 = 0xF1 → x.markSeen = false → bit w 8 = x.gen → rd ULP_STATUS_closed p s = 0 → x.used < rd ULP_FC_STATUS_off_t p s →
      ∃ u, exec (.mark n) s = .next u ∧ (port p u).cells = r ∧ (port p u).markSeen = true ∧ PortAlone p s u) ∧
    (c.kind = .ctl → w % 256 = 0xF2 →
      let e := BitVec.ofNat 128 (0xF3 + bits w 8 16 * 2 ^ 8)
      ∃ u, exec (.ping n) s = .next u ∧ OnlyPort p [] s u
        ∧ (portState p s = 5 → x.wire ≠ [] → x.wire.length < 10280 → port p u = { x with cells := r, wire := x.wire ++ [e] })
        ∧ (portState p s = 5 → x.wire = [] ∨ x.wire.length ≥ 10280 → port p u = { x with cells := r, ctlq := .ctl e :: x.ctlq })
        ∧ (∀ l g, portState p s = 6 → x.opened = true → x.frames = l ++ [g] → g.size < 10279 →
            port p u = { x with cells := r, frames := l ++ [{ g with items := g.items ++ [.ctl e] }], wire := x.wire ++ [e] })
        ∧ (∀ l g, portState p s = 6 → x.opened = true → x.frames = l ++ [g] → g.size ≥ 10279 → port p u = { x with cells := r, ctlq := .ctl e :: x.ctlq })
        ∧ (portState p s ≠ 5 → portState p s ≠ 6 ∨ x.opened = false ∨ x.frames = [] → port p u = { x with cells := r, ctlq := .ctl e :: x.ctlq })) ∧
    (∀ t, c.kind = .ctl → w % 256 = 0xF3 → portState p s = 5 → Map.get (fun _ => none) x.pingAt (bits w 8 16) = some t → x.echoes + 1 ≠ 64 →
      ∃ u, exec (.echoCell n) s = .next u ∧ (port p u).echoes = x.echoes + 1 ∧ (port p u).cells = r
        ∧ (x.echoes = 0 → rd ULP_RTT_rtt p u = min 65535 (((s.cycle - t) * 5 + 8) / 9))
        ∧ OnlyPort p [ULP_RTT_rtt.key p, ULP_RTT_rtt_min.key p] s u) ∧
    (c.kind = .ctl → w % 256 = 0xF4 →
      ∃ u, exec (.tune n) s = .next u ∧ port p u = { x with cells := r, tapPend := x.tapPend ++ [(bits w 8 4, bits w 12 3, bits w 15 2)] } ∧ OnlyPort p [] s u) ∧
    (c.kind = .ctl → w % 256 = 0xF5 → ∃ u, exec (.tuneDone n) s = .next u ∧ port p u = { x with cells := r } ∧ OnlyPort p [] s u) ∧
    (∀ (lane : Fin 16) (tap : Fin 5) (a : BitVec 2), portState p s = 2 ∨ portState p s = 6 ∨ portState p s = 7 →
      ∃ u, exec (.tuneInterval n lane tap a) s = .next u ∧ OnlyPort p [] s u
        ∧ port p u = { x with ctlq := x.ctlq ++ [.ctl (BitVec.ofNat 128 (0xF4 + lane.val * 2 ^ 8 + tap.val * 2 ^ 12 + a.toNat * 2 ^ 15))] }) ∧
    (c.kind = .ctl → w % 256 = 0xF6 → portDepth s = none →
      ∃ u, exec (.nap n) s = .next u ∧ OnlyPort p [] s u
        ∧ port p u = { x with cells := r, ctlq := x.ctlq ++ [.ctl (BitVec.ofNat 128 (0xF7 + if bit w 8 then 2 ^ 8 else 0))] }) ∧
    (∀ d, c.kind = .ctl → w % 256 = 0xF6 → portDepth s = some d → napOk p s = true →
      ∃ u, exec (.nap n) s = .next u ∧ (port p u).napEnter = some (d && bit w 8) ∧ (port p u).nap = none ∧ (port p u).cells = r ∧ OnlyPort p [] s u
        ∧ (port p u).ctlq = x.ctlq ++ [.ctl (BitVec.ofNat 128 (0xF7 + (if d && bit w 8 then 2 ^ 8 else 0) + 2 ^ 9))]) ∧
    (∀ d, c.kind = .ctl → w % 256 = 0xF7 → x.nap = some d →
      (bit w 9 = true → stationClock s = false → exec (.napAck n) s = .next s) ∧
      (x.outq = [] → bit w 9 = false ∨ stationClock s = true →
        ∃ u, exec (.napAck n) s = .next u ∧ (port p u).nap = none ∧ (port p u).turned = false ∧ PortAlone p s u
          ∧ (bit w 9 = true → seasonAllows (d && bit w 8) s = true → x.turned = false → (port p u).cells = r ∧ portState p u = if d && bit w 8 then 8 else 7)
          ∧ (bit w 9 = true → seasonAllows (d && bit w 8) s = false ∨ x.turned = true → portState p u = if d && bit w 8 then 2 else 3)
          ∧ (bit w 9 = false → (port p u).cells = r ∧ portState p u = portState p s))) ∧
    (∀ a, x.replayAck = some a →
      ∃ u, exec (.replayHoldoffExpiry n) s = .next u
        ∧ (x.holdoff = true → x.again = true → x.frames ≠ [] →
            port p u = { x with again := false, resend := some ((a + 1) % 65536) } ∧ Counts ULP_REPLAYS_count p 1 s u ∧ OnlyPort p [ULP_REPLAYS_count.key p] s u)
        ∧ (x.again = false → port p u = { x with holdoff := false } ∧ OnlyPort p [] s u))

/-- CODEWORD_DECODE counts every codeword of states 2 to 6, its corrected symbols, or that it was uncorrectable, which asks for a replay where the frame was needed, keeps in MEASURE the frame cell of each frame, with its link field (R243), and keeps no cell in ALIGN and VERIFY; FRAME_BOUNDARY sends a frame again, or frames the control cells, and starts a retrain that waits; a frame of bring-up carries the control cells of its state and no packet; an idle port asks to nap where the season permits it, and wakes from SLUMBER and OFF, which the module counts; both are on the station clock (R404). In TRAIN each lane's frame starts with a cell of its lane number and of the sender's good lanes (R249); the frame cells of ALIGN and MEASURE send the on bits, which ULP_STATUS.on then shows (R259). A frame counts its 10,280 cells when it starts (log entry 19); what a frame boundary does first, and the frames of TRAIN, are the model's choice (log entry 80). -/
def Obligations.FramesAndLowPower : Prop :=
  ∀ (n : PortN) (s : State),
    let p := n.val
    let x := port p s
    Calm s → OwnPort p s →
    (∀ (start : Bool) (syms : List (BitVec 10)), 2 ≤ portState p s → portState p s ≤ 6 →
      ∃ u, exec (.codewordDecode n start syms) s = .next u ∧ Counts ULP_CW_count p 1 s u ∧ u.tiles = s.tiles ∧ u.mem = s.mem
        ∧ (match rsDecode (syms.map (·.toNat % 1024)) with
           | none => Counts ULP_CW_UNCORR_count p 1 s u ∧ rd ULP_SYM_CORR_count p u = rd ULP_SYM_CORR_count p s
               ∧ (portState p s = 6 → start = true ∨ x.accept = true → (port p u).replay = true ∧ (port p u).accept = false)
           | some (_, k) => rd ULP_CW_UNCORR_count p u = rd ULP_CW_UNCORR_count p s
               ∧ (k ≠ 0 → Counts ULP_SYM_CORR_count p k s u ∧ Counts ULP_CW_CORR_count p 1 s u))
        ∧ (portState p s = 5 → start = true → (rsDecode (syms.map (·.toNat % 1024))).isSome = true → ∃ y l, (port p u).cells = x.cells ++ { kind := .frame, c := y } :: l)
        ∧ (portState p s = 3 ∨ portState p s = 4 → (port p u).cells = x.cells ∧ rd ULP_RX_CELLS_count p u = rd ULP_RX_CELLS_count p s)) ∧
    (∀ k, portState p s = 6 → x.retrainReq = true →
      ∃ u, exec (.frameBoundary n k) s = .next u ∧ portState p u = 2 ∧ Counts ULP_RETRAINS_count p 1 s u ∧ (port p u).retraining = true ∧ PortAlone p s u) ∧
    (∀ k, portState p s = 6 → x.retrainReq = false → x.tapPend = [] → x.resend = none → x.frames.length < 8 → x.outq = [] → x.napEnter = none →
      ∃ u, exec (.frameBoundary n k) s = .next u ∧ (port p u).frames = x.frames ++ [{ num := x.txNum, items := x.ctlq, lead := x.carry, tail := x.carryPkt }] ∧ (port p u).ctlq = []
        ∧ (port p u).txNum = (x.txNum + 1) % 65536 ∧ Counts ULP_TX_CELLS_count p 10280 s u ∧ PortAlone p s u) ∧
    (∀ k j, portState p s = 6 → x.retrainReq = false → x.tapPend = [] → x.resend = some j → (∃ f ∈ x.frames, f.num = j) →
      ∃ u, exec (.frameBoundary n k) s = .next u ∧ (port p u).frames = x.frames ∧ (port p u).outq = x.outq ∧ Counts ULP_TX_CELLS_count p 10280 s u
        ∧ (port p u).resend = (if x.frames.any (fun f => f.num == (j + 1) % 65536) then some ((j + 1) % 65536) else none) ∧ PortAlone p s u) ∧
    (∀ k, 2 ≤ portState p s → portState p s ≤ 5 → x.tapPend = [] →
      ∃ u, exec (.frameBoundary n k) s = .next u ∧ Counts ULP_TX_CELLS_count p 10280 s u
        ∧ (if portState p s = 3 ∨ portState p s = 5 then rd ULP_STATUS_on p u = x.onv % 2 ^ ULP_STATUS_on.w ∧ OnlyPort p [ULP_TX_CELLS_count.key p, ULP_STATUS_on.key p] s u
           else OnlyPort p [ULP_TX_CELLS_count.key p] s u)
        ∧ (port p u).ctlq = x.ctlq.filter (fun i => !trainCell (portState p s) i) ∧ (port p u).frames = x.frames ∧ (port p u).outq = x.outq
        ∧ (port p u).laneHeads = (if portState p s = 2 then (List.range 16).map fun l => Config.laneCell l x.good else [])
        ∧ (portState p s ≠ 4 → (port p u).wire = Frame.cells (linkField p s) { num := x.txNum, items := x.ctlq.filter (trainCell (portState p s)) })) ∧
    (∀ d, portState p s = 6 → stationClock s = true → portDepth s = some d → rd ULP_CONTROL_keep_awake p s = 0 → x.frames = [] → x.outq = [] → x.nap = none →
      ∃ u, exec (.napIdleExpiry n) s = .next u ∧ OnlyPort p [] s u
        ∧ port p u = { x with idle := true, nap := some d, turned := false, ctlq := x.ctlq ++ [.ctl (BitVec.ofNat 128 (0xF6 + if d then 2 ^ 8 else 0))] }) ∧
    (stationClock s = false → exec (.napIdleExpiry n) s = .next s ∧ exec (.portWake n) s = .next s) ∧
    (stationClock s = true → portState p s = 7 → ∃ u, exec (.portWake n) s = .next u ∧ portState p u = 3 ∧ (port p u).waking = true ∧ Counts PWR_WAKES_count 0 1 s u ∧ PortAlone p s u) ∧
    (stationClock s = true → portState p s = 8 → ∃ u, exec (.portWake n) s = .next u ∧ portState p u = 2 ∧ (port p u).waking = false ∧ Counts PWR_WAKES_count 0 1 s u ∧ PortAlone p s u)

/-! ### The fabric (R262 to R284) -/

/-- PACKET_RECEIVE queues a well-formed packet that no TAIL holds and discards a malformed one, counted; PACKET_ROUTE ejects a packet whose target is this module, where a MAPREQ latches the record it is answered with and a MAPDATA, which answers no request of this module, is discarded, discards one of an invalid timetable or of 255 hops, forwards one to the admitting productive port with the fewest cells queued, marked where R277 marks it, keeps one that no port admits, and takes the escape port once escape_wait has expired, which ESCAPE_WAIT_EXPIRY marks. -/
def Obligations.PacketsReceivedAndRouted : Prop :=
  (∀ (n : PortN) (f : RxFound) (s : State), Calm s → headPacket n.val s = some f → f.head.wait = 0 → linkLocal (bits f.hdr 0 8) = false →
    let x := port n.val s
    (badHeader f.hdr = true → ∃ u, exec (.packetReceive n) s = .next u ∧ Counts RTR_DROP_count (bits f.hdr 11 1) 1 s u
      ∧ (port n.val u).cells = f.rest ∧ (port n.val u).inq = x.inq ∧ MemKept s u ∧ u.tiles = s.tiles ∧ u.injq = s.injq) ∧
    (badHeader f.hdr = false → ∃ u q, exec (.packetReceive n) s = .next u ∧ q.pkt = pktOf f.hdr f.data ∧ q.from_ = n.val ∧ q.hdr = f.hdr ∧ q.held = f.head.held
      ∧ port n.val u = { x with cells := f.rest, idle := false, inq := x.inq ++ [q] } ∧ OnlyPort n.val [] s u)) ∧
  (∀ (q : Fin 17) (v : Fin 6) (e : QPkt) (l : List QPkt) (s : State), Calm s → e.pkt.tt < 2 →
      takeFirst (fun x => x.pkt.vc == v.val) (rqueue q.val s) = some (e, l) →
    let c := ownCoord s
    let tt := e.pkt.tt
    let g := targetOf tt e.pkt.dst s
    let n := pktCells e.pkt.payload.length
    let esc := activeOnly (portsOf tt [escapeRole c g (rd RTR_TT_CTL_dateline_x tt s, rd RTR_TT_CTL_dateline_y tt s, rd RTR_TT_CTL_dateline_z tt s)] s) s
    let ports := mirrorPorts e (activeOnly (portsOf tt (productive c g) s) s) s
    let caution := fun (p : Nat) => (v.val = 0 ∨ v.val = 2 ∨ v.val = 3) ∧ rd RTR_CONTROL_caution_cells 0 s ≠ 0
      ∧ (outCells p s > rd RTR_CONTROL_caution_cells 0 s ∨ on ULP_STATUS_peer_closed p s = true)
    let once := fun (f : Fld) (u : State) => (e.counted = false → Counts f tt 1 s u) ∧ (e.counted = true → rd f tt u = rd f tt s)
    let gone := fun (u : State) => rqueue q.val u = l ∧ MemKept s u ∧ u.tiles = s.tiles
    let dropped := ∃ u, exec (.packetRoute q v) s = .next u ∧ gone u ∧ once RTR_DROP_count u ∧ u.ejq = s.ejq ∧ ∀ p, p < 16 → (port p u).outq = (port p s).outq
    let left := fun (p w : Nat) => ∃ u q', exec (.packetRoute q v) s = .next u ∧ gone u ∧ u.ejq = s.ejq ∧ (port p u).outq = (port p s).outq ++ [q']
      ∧ q'.pkt = { e.pkt with vc := w, ca := e.pkt.ca || decide (caution p) }
      ∧ (caution p → Counts RTR_CAUTION_SET_count 0 1 s u) ∧ (¬ caution p → rd RTR_CAUTION_SET_count 0 u = rd RTR_CAUTION_SET_count 0 s) ∧ (∀ r, r < 16 → r ≠ p → (port r u).outq = (port r s).outq)
      ∧ (w = 5 → e.pkt.vc ≠ 5 → Counts RTR_ESCAPES_count 0 1 s u)
    let valid := on RTR_TT_CTL_valid tt s = true
    (¬ valid → dropped) ∧
    (valid → g = c → e.pkt.dst = c → e.pkt.typ ≠ 0x84 → (e.pkt.ca && (e.pkt.typ == 0x30 || e.pkt.typ == 0x31)) = false →
      ∃ u q', exec (.packetRoute q v) s = .next u ∧ gone u ∧ u.ejq = s.ejq ++ [q'] ∧ q'.pkt = e.pkt ∧ once RTR_EJ_count u
        ∧ (e.pkt.typ = 0x52 → u.router.maps = s.router.maps ++ [mapRecord s]
            ∧ (bit (recNat e.pkt.payload 0 1) 0 = true → u.router.samples = 0 ∧ u.router.bins = [] ∧ u.router.marks = []))) ∧
    (valid → g = c → e.pkt.dst = c → e.pkt.typ = 0x84 →
      ∃ u, exec (.packetRoute q v) s = .next u ∧ gone u ∧ u.ejq = s.ejq ∧ once RTR_EJ_count u) ∧
    (valid → g = c → e.pkt.dst ≠ c → ¬ (e.pkt.dst = twinOf c ∧ on RTR_CONTROL_adopt 0 s = true) → dropped) ∧
    (valid → g ≠ c → e.pkt.hops ≥ 255 → dropped) ∧
    (valid → g ≠ c → e.pkt.hops < 255 → paced e s = false → v.val ≠ 1 → v.val ≠ 5 →
      (∀ p, bestPort ports v.val n s = some p → left p v.val) ∧
      (bestPort ports v.val n s = none → e.late = false → ports ≠ [] → exec (.packetRoute q v) s = .next s) ∧
      (∀ p, bestPort ports v.val n s = none → e.late = true → (mirrorPorts e esc s).find? (fun r => admits r 5 n s) = some p → left p 5)) ∧
    (valid → g ≠ c → e.pkt.hops < 255 → paced e s = false → v.val = 1 ∨ v.val = 5 →
      (∀ p, esc.find? (fun r => admits r v.val n s) = some p → left p v.val)
      ∧ (esc ≠ [] → (∀ p ∈ esc, admits p v.val n s = false) → exec (.packetRoute q v) s = .next s))) ∧
  (∀ (q : Fin 17) (v : Fin 6) (e : QPkt) (l : List QPkt) (s : State), Sound s → takeFirst (fun x => x.pkt.vc == v.val) (rqueue q.val s) = some (e, l) →
    (v.val = 1 ∨ v.val = 5 → exec (.escapeWaitExpiry q v) s = .next s) ∧
    (v.val ≠ 1 → v.val ≠ 5 → ∃ u, exec (.escapeWaitExpiry q v) s = .next u ∧ takeFirst (fun x => x.pkt.vc == v.val) (rqueue q.val u) = some ({ e with late := true }, l)
      ∧ u.flds = s.flds ∧ u.mem = s.mem ∧ u.tiles = s.tiles ∧ u.ejq = s.ejq))

/-- RATE_RECOVERY raises a destination's rate by inc and drops its entry at 256; CONGESTION_SAMPLE counts one sample in one bin for each port and VC, while the station clock runs (R440); MAP_LATCH keeps the record, and clears the counts where asked; STAMP_WRITE stamps by a valid timetable only; TIMETABLE_WRITE changes the masked bits of the timetable that is not stamped, and is refused and recorded for the one that is. -/
def Obligations.RatesMapsAndTimetables : Prop :=
  (∀ (d : BitVec 18) (s : State), Sound s →
    let inc := rd RTR_RATE_CONFIG_inc 0 s
    let l := s.router.rates
    ∃ u, exec (.rateRecovery d) s = .next u ∧ { u with router := { u.router with rates := l } } = s
      ∧ (∀ x, x.dst ≠ d.toNat → (x ∈ u.router.rates ↔ x ∈ l))
      ∧ (∀ y ∈ u.router.rates, y.dst = d.toNat → y.r < 256 ∧ ∃ x ∈ l, x.dst = d.toNat ∧ y.r = x.r + inc)
      ∧ (∀ x ∈ l, x.dst = d.toNat → x.r + inc < 256 → ∃ y ∈ u.router.rates, y.dst = d.toNat ∧ y.r = x.r + inc)) ∧
  (∀ s : State, Sound s → stationClock s = false → exec .congestionSample s = .next s) ∧
  (∀ s : State, Sound s → stationClock s = true →
    let at_ := fun (p v : Nat) => (6 * p + v) * 8 + occBin (zget (port p s).shared v + zget (port p s).resv v)
    ∃ u, exec .congestionSample s = .next u ∧ { u with router := s.router } = s ∧ u.router.samples = s.router.samples + 1
      ∧ (∀ p v, p < 16 → v < 6 → zget u.router.bins (at_ p v) = min (2 ^ 32 - 1) (zget s.router.bins (at_ p v) + 1))
      ∧ (∀ k, (∀ p v, p < 16 → v < 6 → k ≠ at_ p v) → zget u.router.bins k = zget s.router.bins k)) ∧
  (∀ (clear : Bool) (s : State), Sound s → Answers s →
    exec (.mapLatch clear) s = .next { s with router := (if clear then { s.router with map := mapRecord s, samples := 0, bins := [], marks := [] } else { s.router with map := mapRecord s }) }) ∧
  (∀ (v : Fin 2) (s : State), Sound s → Answers s →
    (on RTR_TT_CTL_valid v.val s = true → ∃ u, exec (.stampWrite v) s = .next u ∧ rd RTR_CONTROL_stamp 0 u = v.val ∧ OnlyFields [RTR_CONTROL_stamp.key 0] s u) ∧
    (on RTR_TT_CTL_valid v.val s = false → exec (.stampWrite v) s = .next (event boxRTR 0x06 v.val (RTR_CONTROL.off 0 0) s))) ∧
  (∀ (i : Fin 2) (j : Option (Fin 64)) (v m : U64) (s : State), Sound s → Answers s →
    let r := match j with
      | none => RTR_TT_CTL
      | some _ => RTR_TT_REDIR
    let j' := match j with
      | none => 0
      | some x => x.val
    let k := r.ix i.val j'
    (i.val = rd RTR_CONTROL_stamp 0 s → exec (.timetableWrite i j v m) s = .next (event boxRTR 0x06 i.val (r.off i.val j') s)) ∧
    (i.val ≠ rd RTR_CONTROL_stamp 0 s → (∀ f ∈ r.flds, rd f k s < 2 ^ f.w) →
      ∃ u, exec (.timetableWrite i j v m) s = .next u ∧ OnlyFields (r.flds.map fun f => f.key k) s u
        ∧ ∀ f ∈ r.flds, ∀ b, b < f.w → (rd f k u).testBit b = if m.getLsbD (f.lo + b) then v.getLsbD (f.lo + b) else (rd f k s).testBit b))

/-- What this module does with a request that reached it: WR and MIR store their payload and answer 0x80 and 0x82, RD answers with the bytes, an atomic changes its word and answers with the old value, a write outside the map or across a 256-byte block is refused as an address, while a read across one is answered with its bytes (log entry 21), and ECHO lowers the rate to its source. -/
def Obligations.RequestsServed : Prop :=
  (∀ (e : QPkt) (l : List QPkt) (s : State), Calm s → PlainMem s → e.pkt.dst = ownCoord s →
    let p := e.pkt
    let a := p.addr
    let n := p.payload.length
    let first := fun (typ : Nat) => takeFirst (fun x => x.pkt.typ == typ) s.ejq = some (e, l)
    let may := fun (len : Nat) (r w : Bool) => mapped a len s = true ∧ protOk (fabricClass e s) a len r w s = true ∧ (w && progLocked a len s) = false
      ∧ wpHits 4 a len r w s = [] ∧ anyDown a len s = false
    ((first 0x01 → (∀ c ∈ s.colls, c.2.phase = 0) → oneBlock a n = true → may n false true →
        ∃ u, exec .wr s = .next u ∧ Stored a p.payload s u ∧ Answered p 0x80 0 [] s u ∧ u.ejq = l ∧ u.tiles = s.tiles)
      ∧ (first 0x01 → (∀ c ∈ s.colls, c.2.phase = 0) → mapped a n s = false ∨ oneBlock a n = false →
        ∃ u, exec .wr s = .next u ∧ MemKept s u ∧ Answered p 0x80 1 [] s u ∧ u.ejq = l ∧ u.tiles = s.tiles)
      ∧ (first 0x40 → oneBlock a n = true → may n false true →
        ∃ u, exec .mir s = .next u ∧ Stored a p.payload s u ∧ Answered p 0x82 0 [] s u ∧ u.ejq = l ∧ u.tiles = s.tiles)
      ∧ (∀ o, first (match o with
            | .add => 0x20
            | .swap => 0x21
            | .maxu => 0x22) → n = 16 → a % 8 = 0 → amoPlace a s = true → may 8 true true →
        let old := cells a 8 s
        ∃ u, exec (match o with
            | .add => .amoaddPacket
            | .swap => .amoswapPacket
            | .maxu => .amomaxuPacket) s = .next u
          ∧ Stored a (leBytes (amoNew o (BitVec.ofNat 64 (ofLe old)) (BitVec.ofNat 64 (recNat p.payload 0 8))).toNat 8) s u
          ∧ Answered p 0x81 0 old s u ∧ u.ejq = l ∧ u.tiles = s.tiles)
      ∧ (∀ k, k ≤ 8 → takeFirst (fun x => decide (0x10 ≤ x.pkt.typ ∧ x.pkt.typ ≤ 0x18)) s.ejq = some (e, l) → p.typ = 0x10 + k → may (2 ^ k) true false →
        ∃ u, exec .rd s = .next u ∧ MemKept s u ∧ Answered p 0x81 0 (cells a (2 ^ k) s) s u ∧ u.ejq = l ∧ u.tiles = s.tiles))) ∧
  (∀ (e : QPkt) (l : List QPkt) (s : State), Calm s → takeFirst (fun x => x.pkt.typ == 0x53) s.ejq = some (e, l) →
    let dec := rd RTR_RATE_CONFIG_dec 0 s
    let d := e.pkt.src
    (∀ x ∈ s.router.rates, x.dst ≠ d) → s.router.rates.length < 512 →
      ∃ u x, exec .echo s = .next u ∧ Counts RTR_ECHO_RCVD_count 0 1 s u ∧ u.ejq = l ∧ u.router.rates = s.router.rates ++ [x] ∧ x.dst = d ∧ x.dec = now s
        ∧ x.r = max (256 - (256 * dec + 15) / 16) (rd RTR_RATE_CONFIG_r_min 0 s) ∧ u.tiles = s.tiles ∧ u.mem = s.mem) ∧
  (∀ (e : QPkt) (l : List QPkt) (s : State), Calm s → takeFirst (fun x => x.pkt.typ == 0x52) s.ejq = some (e, l) →
    ∃ u, exec .mapreq s = .next u ∧ u.ejq = l ∧ u.injq.length = s.injq.length + 13 ∧ u.tiles = s.tiles ∧ u.mem = s.mem
      ∧ (∀ i, i < 13 → ∃ r ∈ u.injq[s.injq.length + i]?, r.pkt.typ = 0x84 ∧ r.pkt.dst = e.pkt.src ∧ r.pkt.tag = e.pkt.tag ∧ r.pkt.addr / 256 = i
          ∧ r.pkt.payload = ((s.router.maps.headD []).drop (256 * i)).take 256)
      ∧ u.router.maps = s.router.maps.drop 1) ∧
  (∀ (e : QPkt) (l : List QPkt) (s : State), Sound s → takeFirst (fun x => x.pkt.typ == 0x50) s.ejq = some (e, l) →
    let n := recNat e.pkt.payload 0 8 % 16 + 1
    n ≤ 10 → 8 + 24 * n ≤ e.pkt.payload.length →
      ∃ u m, exec .mgtPacket s = .next u ∧ u.ejq = l ∧ u.host.arb = s.host.arb ++ [m] ∧ m.orders = ordersOf n (e.pkt.payload.drop 8) ∧ m.src = e.pkt.src ∧ m.tag = e.pkt.tag
        ∧ m.master = (if isFm e.pkt.src s then 0 else if e.from_ < 16 ∧ rd ULP_ROLE_role e.from_ s = 7 ∧ e.pkt.src = twinOf (ownCoord s) then 2 else 3)
        ∧ m.atomic = (recNat e.pkt.payload 0 8).testBit 4 ∧ u.tiles = s.tiles ∧ u.mem = s.mem ∧ u.flds = s.flds)

/-- What this module does with an answer: one that matches no request of its kind is discarded and recorded; WRACK and RDATA free their tag, MIRACK ends one mirrored write, MGTACK completes its command; an abandoned tag is freed by its timer alone, and a response to it is discarded and recorded (log entry 22). No request waits for a tag there, no update for its station. Where a write of a shunting channel or of a collective waits for a tag, it leaves as one is freed (R450; which goes first is log entry 61). -/
def Obligations.AnswersTaken : Prop :=
  (∀ (e : QPkt) (l : List QPkt) (s : State), Calm s → e.pkt.ae = false → s.tagq = [] → (∀ x ∈ s.shunts, x.2.toSend = []) → (∀ x ∈ s.colls, x.2.wq = []) →
    let k := e.pkt.tag
    let use := Map.get (fun _ => none) s.tags k
    let first := fun (typ : Nat) => takeFirst (fun x => x.pkt.typ == typ) s.ejq = some (e, l)
    let stray : Out := .next (event boxRTR 0x05 5 (e.hdr % 2 ^ 48) { s with ejq := l })
    ((use.all fun w => w.abandoned) = true →
      (first 0x80 → exec .wrack s = stray) ∧ (first 0x81 → exec .rdata s = stray) ∧ (first 0x82 → exec .mirack s = stray) ∧ (first 0x83 → exec .mgtack s = stray)) ∧
    (first 0x80 → ∀ st r t0, use = some { who := .cow st r, at_ := t0 } → e.pkt.addr % 256 = 0 →
      ∃ u, exec .wrack s = .next u ∧ Map.get (fun _ => none) u.tags k = none ∧ { u with tags := s.tags } = { s with ejq := l }) ∧
    (first 0x80 → ∀ ch a n t0, use = some { who := .shunt ch a n, at_ := t0 } → n ≠ 0 → ch < 128 → e.pkt.addr % 256 = 0 →
      ∃ u, exec .wrack s = .next u ∧ Map.get (fun _ => none) u.tags k = none ∧ shunt ch u = { shunt ch s with remoteOut := (shunt ch s).remoteOut - 1 }
        ∧ Counts SHN_CH_BYTES_count ch n s u ∧ u.ejq = l ∧ u.mem = s.mem ∧ u.tiles = s.tiles) ∧
    (first 0x81 → ∀ ch a t0, use = some { who := .shunt ch a 0, at_ := t0 } → ch < 128 → (shunt ch s).phase = 2 → e.pkt.addr % 256 = 0 →
      ∃ u, exec .rdata s = .next u ∧ Map.get (fun _ => none) u.tags k = none ∧ shunt ch u = { shunt ch s with phase := 3 } ∧ u.ejq = l ∧ u.mem = s.mem ∧ u.tiles = s.tiles) ∧
    (first 0x83 → ∀ id c t0, use = some { who := .mgt id, at_ := t0 } → cmdOf id s = some c → CanEnd c s → PlainMem s → mapped (c.fld 0x28 0 48) e.pkt.payload.length s = true →
        anyDown (c.fld 0x28 0 48) e.pkt.payload.length s = false →
      let n := min (recNat e.pkt.payload 0 1 % 16 + 1) ((e.pkt.payload.length - 8) / 16)
      ∃ u, exec .mgtack s = .next u ∧ Map.get (fun _ => none) u.tags k = none ∧ u.ejq = l ∧ Stored (c.fld 0x28 0 48) e.pkt.payload s u
        ∧ Completes c (((List.range n).map fun i => recNat e.pkt.payload (8 + 16 * i) 1).foldl max 0) 0 s u) ∧
    (first 0x82 → ∀ k st x t0, use = some { who := .mirror k st x, at_ := t0 } → (station st s).mirq = [] → e.pkt.addr % 256 = 0 →
      ∃ u, exec .mirack s = .next u ∧ Map.get (fun _ => none) u.tags k = none ∧ (station st u).mirOut = (station st s).mirOut - 1 ∧ u.ejq = l ∧ u.mem = s.mem ∧ u.tiles = s.tiles) ∧
    (∀ j : BitVec 12, let held := Map.get (fun _ => none) s.tags j.toNat
      (∀ w t0, held = some { who := w, at_ := t0, abandoned := true } →
        ∃ u, exec (.tagReleaseTimer j) s = .next u ∧ Map.get (fun _ => none) u.tags j.toNat = none ∧ { u with tags := s.tags } = s
          ∧ ∀ i, i ≠ j.toNat → Map.get (fun _ => none) u.tags i = Map.get (fun _ => none) s.tags i) ∧
      ((held.all fun w => !w.abandoned) = true → exec (.tagReleaseTimer j) s = .next s))) ∧
  (∀ (j : BitVec 12) (w : TagUse) (s : State), Calm s → s.tagq = [] → Map.get (fun _ => none) s.tags j.toNat = some w → w.abandoned = true →
    let sent := fun (u : State) (dest a : Nat) (d : List Byte) (who : Requester) => ∃ r, u.injq = s.injq ++ [r] ∧ r.pkt.typ = 0x01 ∧ r.pkt.dst = dest ∧ r.pkt.addr = a
      ∧ r.pkt.payload = d ∧ Map.get (fun _ => none) u.tags r.pkt.tag = some { who := who, at_ := s.cycle } ∧ u.mem = s.mem ∧ u.tiles = s.tiles
    (∀ ch x a d bad, s.shunts = [(ch, x)] → x.toSend = [(a, d, bad)] → (∀ y ∈ s.colls, y.2.wq = []) →
      ∃ u, exec (.tagReleaseTimer j) s = .next u ∧ sent u (sdesc x.desc).coord a d (.shunt ch a d.length) ∧ shunt ch u = { x with toSend := [], remoteOut := x.remoteOut + 1 }) ∧
    (∀ k x b m a d, PlainMem s → s.colls = [(k, x)] → x.wq = [(b, m, a, d)] → x.phase ≠ 5 → (∀ y ∈ s.shunts, y.2.toSend = []) →
      ∃ u, exec (.tagReleaseTimer j) s = .next u ∧ sent u (memberOf k x.desc m s) a d (.coll k b m) ∧ (coll k u).wq = []))

/-! ### Collectives (R285 to R311) -/

/-- COLL binds its cid with its descriptor, for an adopted one among the dead twin's cids, and for kinds 0 and 1 chooses the floor of every block by R41 and clears the words and tags it owns; COLLECTIVE_ZEROING_END opens the cid; CONTRIBUTION_SEND sends the next elements to their owner in a packet that R290 or R291 describes; LIST_TICKET_DONE sends the list ticket to rank 0. The floor table is checked as class 0 (log entry 75). -/
def Obligations.CollectivesStartAndSend : Prop :=
  (∀ (q : CmdSel) (c : Cmd) (d : List Byte) (b : Option Nat) (s : State), Calm s → PlainMem s → frontCmd q 4 s = some c → oneDescOk c 128 = true →
      sidingRing c.ring s = false → bindTile c s = some b → smRead (la (collSet c) c.a18 s) 128 s = (0, d, s) → collCheck (gCid d + collSet c) d s = (0, s) →
      (coll (gCid d + collSet c) s).phase = 0 → (∀ n, n < 28 → rd MST_STATUS_dev_fail n s = 0) →
      smTracing (c.ring % 4) s = false →
    let k := gCid d + collSet c
    let bound : Machine.Coll := { phase := 1, desc := d, addr := c.a18, cmd := some c.id, tile := b, bound := nextBound s }
    ∃ u, exec (.coll q) s = .next u
      ∧ rd COL_CID_code_valid (gCid d) u = rd COL_CID_code_valid (gCid d) s ∧ (∃ x ∈ u.host.cmds, x.id = c.id ∧ x.phase = 1) ∧ u.tiles = s.tiles
      ∧ (gKind d ≥ 2 → coll k u = bound ∧ MemKept s u)
      ∧ (gKind d < 2 → ∃ m, coll k u = { bound with ents := m, code := (coll k u).code })
      ∧ (gKind d < 2 → collSet c = 0 → (∀ i, i < gB d → protOk 0 (gFloors d + 8 * i) 8 true true s = true) → (coll k u).code = 0)
      ∧ (gKind d < 2 → collSet c = 0 → (∃ i, i < gB d ∧ protOk 0 (gFloors d + 8 * i) 8 true true s = false) → (coll k u).code = 2)
      ∧ (gKind d < 2 → collSet c = 0 → ∀ i, i < gB d →
          let e : FloorEnt := ofLe (cells (gFloors d + 8 * i) 8 s)
          let f : Int := if e.histValid = false then e.firstFloor else if e.histZero = true then e.floor else (e.histTop : Int) + e.headroom - (if e.wide then 64 else 32) + 2
          (((floorEnt k d i u).floor : Nat) : Int) = min (max f e.minFloor) 521 ∧ (floorEnt k d i u).replays = 0
            ∧ ∀ j, 10 ≤ j → j ≠ 42 → j ≠ 43 → (floorEnt k d i u).testBit j = e.testBit j)
      ∧ (gKind d < 2 → collSet c = 0 → ∀ j, j < gOwned d (gRank d) → cells (accWord d j) 72 u = List.replicate 72 0#8 ∧ byteAt (accTag d j) u = 0#8)) ∧
  (∀ (k : Fin 512) (s : State), Calm s → (coll k.val s).phase = 1 → s.heldq = [] →
    ∃ u, exec (.collectiveZeroingEnd k) s = .next u ∧ coll k.val u = { coll k.val s with phase := 2 } ∧ { u with colls := s.colls } = s) ∧
  (∀ (k : Fin 512) (s : State), Calm s → PlainMem s → s.cut.restored = false →
    let x := coll k.val s
    let d := x.desc
    let b := x.next / 256
    let o := b / gP d
    (x.phase = 2 → gKind d < 2 → x.next < gN d → o ≠ gRank d →
      ∃ u r n items, exec (.contributionSend k) s = .next u ∧ 0 < n ∧ x.next + n ≤ 256 * b + gNb d b ∧ (coll k.val u).next = x.next + n
        ∧ u.injq = s.injq ++ [r] ∧ (r.pkt.typ = 0x30 ∨ r.pkt.typ = 0x31) ∧ r.pkt.dst = memberOf k.val d o s ∧ r.pkt.src = collCoord k.val s
        ∧ r.pkt.addr = accWord d (x.next - 256 * gP d * o) ∧ r.pkt.tag % 256 = gCid d ∧ r.pkt.tag.testBit 10 = gEpoch d
        ∧ accItems (r.pkt.typ == 0x31) r.pkt.payload = some items ∧ items.length = n ∧ MemKept s u ∧ u.tiles = s.tiles) ∧
    (x.phase ≠ 2 → x.phase ≠ 3 → exec (.contributionSend k) s = .next s) ∧
    (x.phase = 2 → gKind d = 3 → x.next = 0 → gRank d ≠ 0 → x.wq = [] → (freeTag s).isSome = true →
      ∃ u r rest, exec (.listTicketDone k) s = .next u ∧ (coll k.val u).next = 1 ∧ (coll k.val u).phase = 2 ∧ u.injq = s.injq ++ r :: rest
        ∧ r.pkt.typ = 0x01 ∧ r.pkt.dst = memberOf k.val d 0 s ∧ r.pkt.addr = gReport d + 32 * gRank d ∧ MemKept s u ∧ u.tiles = s.tiles))

/-- ACC and ACCW: a packet whose cid is not bound in its epoch is held, or counted as a stray where 256 KiB are held; reports queue; contributions of an earlier round are counted as stale; one that R293 calls bad is counted and recorded; contributions of this round are added word by word, with their tags, and counted toward their block, and those that protection refuses set nan. The elements that complete a block order its replay at a raised floor where a sum leaves the window before the third replay, and otherwise have it converted and reported. HOLD_EXPIRY discards what was held too long. What a tag contributed with wov does is log entry 86. -/
def Obligations.ContributionsAccumulate : Prop :=
  (∀ (w : Bool) (e : QPkt) (l : List QPkt) (s : State), Calm s → PlainMem s → takeFirst (fun x => x.pkt.typ == (if w then 0x31 else 0x30)) s.ejq = some (e, l) →
      e.pkt.dst = ownCoord s →
    let go := exec (if w then .accw else .acc) s
    let k := e.pkt.tag % 256
    let x := coll k s
    let d := x.desc
    let pl := e.pkt.payload
    let h := recNat pl 0 8
    let bound := x.phase ≥ 2 ∧ gEpoch x.desc = bit e.pkt.tag 10
    let same := fun (u : State) => u.ejq = l ∧ u.tiles = s.tiles
    let bad := go = .next (event boxCOL 0x0A (e.pkt.tag % 256) e.pkt.addr (bump COL_BAD_count 0 1 { s with ejq := l }))
    (¬ bound → heldBytes s + 16 * pktCells pl.length ≤ 2 ^ 18 →
      ∃ u y, go = .next u ∧ same u ∧ u.heldq = s.heldq ++ [y] ∧ y.q = e ∧ y.at_ = now s ∧ u.colls = s.colls ∧ u.mem = s.mem ∧ u.flds = s.flds) ∧
    (¬ bound → heldBytes s + 16 * pktCells pl.length > 2 ^ 18 →
      ∃ u, go = .next u ∧ same u ∧ u.heldq = s.heldq ∧ Counts COL_STRAY_count 0 1 s u ∧ u.colls = s.colls ∧ u.mem = s.mem) ∧
    (bound → w = false → bits h 8 2 = 3 →
      let n := bits h 0 8 + 1
      let o := e.pkt.addr - gReport d
      (n ≤ 31 → pl.length = 8 + 8 * n → gReport d ≤ e.pkt.addr → o % 8 = 0 → o / 8 + n ≤ gSlots d →
        ∃ u, go = .next u ∧ same u ∧ coll k u = { x with reports := x.reports ++ (List.range n).map fun i => (o / 8 + i, recNat pl (8 + 8 * i) 8, true) } ∧ u.mem = s.mem ∧ u.flds = s.flds)
      ∧ (n > 31 ∨ pl.length ≠ 8 + 8 * n ∨ e.pkt.addr < gReport d ∨ o % 8 ≠ 0 ∨ o / 8 + n > gSlots d → bad)) ∧
    (bound → (w = true ∨ bits h 8 2 ≠ 3) → (accItems w pl = none ∨ gKind d ≥ 2 ∨ locate d e.pkt.addr = none) → bad) ∧
    (∀ items j, bound → gKind d < 2 → (w = true ∨ bits h 8 2 ≠ 3) → accItems w pl = some items → locate d e.pkt.addr = some j →
      let n := items.length
      let b := j / 256
      let nb := gNb d b
      let i0 := j - 256 * gP d * gRank d
      let j0 := 256 * b - 256 * gP d * gRank d
      let ent := floorEnt k d b s
      let round := bits e.pkt.tag 8 2
      let fits := round = zget x.rounds b ∧ bits h 11 10 = ent.floor ∧ j + n ≤ 256 * b + nb
      let may := ∀ i, i < n → protOk 3 (accWord d (i0 + i)) 72 true true s = true
      let sum := fun (i : Nat) => sumAfter d w items i0 i s
      let els := (List.range nb).map fun m => let y := sum (j0 + m); (y.1, if outOfWindow ent y.1 then y.2 ||| tWov else y.2)
      let wov := els.any fun y => outOfWindow ent y.1
      let tops := (els.filter fun y => y.1 != 0).map fun y => topBit y.1.natAbs
      let told := fun (rep : Nat) (u : State) => (coll k u).reports = x.reports ++ [(b, rep, false)]
        ∧ ∃ ps, u.injq = s.injq ++ ps ∧ ps.length = gM d - 1 ∧ ∀ r ∈ ps, r.pkt.typ = 0x30 ∧ r.pkt.src = ownCoord s ∧ r.pkt.addr = gReport d + 8 * b
            ∧ r.pkt.payload = leBytes (3 * 2 ^ 8) 8 ++ leBytes rep 8
      (round < zget x.rounds b → ∃ u, go = .next u ∧ same u ∧ Counts COL_STALE_count 0 n s u ∧ u.colls = s.colls ∧ u.mem = s.mem) ∧
      (round > zget x.rounds b → bad) ∧
      (round = zget x.rounds b → bits h 11 10 ≠ ent.floor ∨ j + n > 256 * b + nb → bad) ∧
      (fits → ¬ (may ∧ protOk 3 (accTag d i0) n true true s = true) → zget x.counts b + n ≠ gM d * nb → SumsOpen d i0 n s →
        ∃ u, go = .next u ∧ same u ∧ zget (coll k u).counts b = zget x.counts b + n ∧ (coll k u).code = max x.code 2
          ∧ ∀ i, i < n → byteAt (accTag d (i0 + i)) u = byteAt (accTag d (i0 + i)) s ||| tNan ∧ cells (accWord d (i0 + i)) 72 u = cells (accWord d (i0 + i)) 72 s) ∧
      (fits → (∀ k, k < 32 → rd DBG_WP_BASE_valid k s = 0) → may → protOk 3 (accTag d i0) n true true s = true →
        (zget x.counts b + n ≠ gM d * nb → SumsOpen d i0 n s →
          ∃ u, go = .next u ∧ same u ∧ Counts COL_CONTRIB_count 0 n s u ∧ zget (coll k u).counts b = zget x.counts b + n
            ∧ ∀ i, i < n → cells (accWord d (i0 + i)) 72 u = leBytes (toWord (sum (i0 + i)).1).toNat 72 ∧ byteAt (accTag d (i0 + i)) u = (sum (i0 + i)).2) ∧
        (zget x.counts b + n = gM d * nb → SumsOpen d j0 nb s → gRank d < gM d → Map.get (fun _ => none) x.ents b = some ent →
          (wov = true → round < 3 →
            ∃ u, go = .next u ∧ same u
              ∧ told (mkReport (els.foldl (fun a y => a ||| y.2) 0#8) (tops.foldl max 0) tops.isEmpty (round + 1) false false (min 521 (ent.floor + ent.raise))) u
              ∧ (floorEnt k d b u).floor = min 521 (ent.floor + ent.raise) ∧ (floorEnt k d b u).replays = round + 1
              ∧ zget (coll k u).counts b = 0 ∧ zget (coll k u).rounds b = round + 1 ∧ Counts COL_REPLAYS_count 0 (gM d) s u
              ∧ ∀ m, m < nb → cells (accWord d (j0 + m)) 72 u = List.replicate 72 0#8 ∧ byteAt (accTag d (j0 + m)) u = tRpl) ∧
          (wov = false ∨ round = 3 → gKind d = 0 → ctlCensus (gConv d) = false → ctlTscale (gConv d) = false → x.wq = [] → x.outst = [] →
            let conv := (List.range nb).map fun m =>
              let y := els.getD m (0, 0#8)
              let draw := if ctlRM (gConv d) == .sr then rng32 (gSeed d) (gTensor d) (256 * b + m) 1 else 0
              outEl (gConv d) 0 draw 0 0 64 0 y.1 (if outOfWindow ent y.1 then y.2 ||| tOvf else y.2)
            let parts := resultParts d (256 * b) (conv.map (·.enc)) (conv.map (·.tag))
            (∀ p ∈ parts, mapped p.1 p.2.length s = true ∧ anyDown p.1 p.2.length s = false) →
            ∃ u, go = .next u ∧ same u ∧ (∀ p ∈ parts, cells p.1 p.2.length u = p.2) ∧ zget (coll k u).counts b = gM d * nb
              ∧ told (mkReport (conv.foldl (fun a y => a ||| y.tag) 0#8) (tops.foldl max 0) tops.isEmpty round true false ent.floor) u))))) ∧
  (∀ s : State, Sound s →
    let t := 1000 * rd COL_CONTROL_hold_us 0 s
    ∃ u, exec .holdExpiry s = .next u ∧ u.heldq = s.heldq.filter (fun h => decide (now s ≤ h.at_ + t))
      ∧ Counts COL_STRAY_count 0 (s.heldq.length - u.heldq.length) s u ∧ { u with heldq := s.heldq, flds := s.flds } = s)

/-- REPORT_RECEIVE writes the report into its slot and counts a final one once; the last final report, or the last member's report of an all-gather, completes the collective: its cid is free, its summary word is written, and its command completes; a report that orders a replay raises the block's floor and lists the block, and dispatches the replay command where none runs. The end of a replay command sends its blocks again, in ascending order (R292); a collective that times out completes as lost, in its summary word, its cid's registers, and its command. A report from another module whose slot protection refuses counts all the same, and the completion has status protection; one that ends before every final report is met has a free status byte (both log entry 93). No restore holds the cids (R336). -/
def Obligations.CollectivesEnd : Prop :=
  ∀ (k : Fin 512) (s : State),
    let x := coll k.val s
    let d := x.desc
    Calm s → PlainMem s → s.cut.restored = false →
    (∀ slot rep o l, x.reports = (slot, rep, o) :: l → x.phase ≥ 2 → gKind d = 2 → rep.testBit 22 = true → Map.get (fun _ => false) x.fins slot = false → x.finals + 1 ≠ gM d →
        SlotOpen (gReport d + 8 * slot) o s → k.val < 256 → mapped (gReport d + 8 * slot) 8 s = true → anyDown (gReport d + 8 * slot) 8 s = false →
      ∃ u, exec (.reportReceive k) s = .next u ∧ Stored (gReport d + 8 * slot) (leBytes rep 8) s u ∧ u.tiles = s.tiles
        ∧ (coll k.val u).finals = x.finals + 1 ∧ (coll k.val u).reports = l ∧ Map.get (fun _ => false) (coll k.val u).fins slot = true) ∧
    (∀ slot rep o l, x.reports = (slot, rep, o) :: l → x.phase ≥ 2 → gKind d < 2 → rep.testBit 21 = true → Map.get (fun _ => false) x.fins slot = false → x.finals + 1 ≠ gB d →
      ∃ u, exec (.reportReceive k) s = .next u ∧ (coll k.val u).finals = x.finals + 1 ∧ (coll k.val u).stat = x.stat ||| BitVec.ofNat 8 rep ∧ u.tiles = s.tiles
        ∧ (coll k.val u).top = (if rep.testBit 18 then x.top else max x.top (bits rep 8 10))
        ∧ (floorEnt k.val d slot u).histValid = true ∧ (floorEnt k.val d slot u).histZero = rep.testBit 18 ∧ (floorEnt k.val d slot u).histTop = bits rep 8 10
        ∧ (floorEnt k.val d slot u).replays = bits rep 19 2) ∧
    (∀ slot rep o l c, x.reports = (slot, rep, o) :: l → x.phase = 2 ∨ x.phase = 3 → CollEnds k.val c s → x.code ≤ 4 → Map.get (fun _ => false) x.fins slot = false →
      SlotOpen (gReport d + 8 * slot) o s →
      (gKind d = 2 → rep.testBit 22 = true → x.finals + 1 = gM d → ∃ u, exec (.reportReceive k) s = .next u ∧ CollEnded k.val c x.code x.stat s u) ∧
      (gKind d < 2 → ctlTscale (gConv d) = false → rep.testBit 21 = true → x.finals + 1 = gB d →
          protOk 0 (gFloors d + 8 * slot) 8 true true s = true → anyDown (gFloors d + 8 * slot) 8 s = false →
        ∃ u, exec (.reportReceive k) s = .next u ∧ CollEnded k.val c x.code (x.stat ||| BitVec.ofNat 8 rep) s u) ∧
      (gKind d < 2 → rep.testBit 21 = false → gReplay d = 0 → x.finals ≠ gB d →
          protOk 0 (gFloors d + 8 * slot) 8 true true s = true → anyDown (gFloors d + 8 * slot) 8 s = false →
        ∃ u, exec (.reportReceive k) s = .next u ∧ CollEnded k.val c 1 (earlyStatus d) s u)) ∧
    (∀ slot rep l c, x.reports = (slot, rep, true) :: l → x.phase = 2 → CollEnds k.val c s → x.code ≤ 4 → Map.get (fun _ => false) x.fins slot = false → gKind d = 2 →
        rep.testBit 22 = true → x.finals + 1 = gM d → mapped (gReport d + 8 * slot) 8 s = true → protOk 3 (gReport d + 8 * slot) 8 false true s = false →
      ∃ u, exec (.reportReceive k) s = .next u ∧ CollEnded k.val c (max x.code 2) x.stat s u) ∧
    (∀ slot rep o l, x.reports = (slot, rep, o) :: l → x.phase ≥ 2 → gKind d = 3 → rep.testBit 21 = true → x.wq = [] → x.due = [] →
      ∃ u, exec (.reportReceive k) s = .next u ∧ (coll k.val u).phase = 0 ∧ Counts COL_VOTES_count 0 1 s u) ∧
    (∀ slot rep o l, x.reports = (slot, rep, o) :: l → x.phase ≥ 2 → gKind d < 2 → rep.testBit 21 = false → gReplay d ≠ 0 →
      ∃ u, exec (.reportReceive k) s = .next u ∧ (coll k.val u).reports = l ∧ (coll k.val u).rlist = x.rlist ++ [slot] ∧ u.tiles = s.tiles
        ∧ (floorEnt k.val d slot u).floor = bits rep 32 10 ∧ (floorEnt k.val d slot u).replays = bits rep 19 2 ∧ (coll k.val u).rbusy = true
        ∧ (x.rbusy = true → (coll k.val u).rrun = x.rrun ∧ (coll k.val u).phase = x.phase ∧ u.host.cmds = s.host.cmds)
        ∧ (x.rbusy = false → (coll k.val u).rrun = x.rlist ++ [slot] ∧ (coll k.val u).phase = 3
            ∧ ∀ e, MastersUntraced s → smRead (la k.val (gReplay d) u) 128 u = (0, e, u) → usedBits ({ id := 0, entry := e } : Cmd).op ≠ [] →
                ∃ y, u.host.cmds = s.host.cmds ++ [y] ∧ y.entry = e ∧ y.coll = some k.val ∧ y.id = x.cmd.getD 0 + 2 ^ 64)) ∧
    (x.ended = some 0 → x.rbusy = true → x.rlist.length ≤ x.rrun.length →
      ∃ u, exec (.replayCommandComplete k) s = .next u ∧ (coll k.val u).phase = 2 ∧ (coll k.val u).rbusy = false ∧ (∃ l, (coll k.val u).resend = x.resend ++ l ∧ l.Perm x.rrun ∧ l.Pairwise (· ≤ ·))
        ∧ (coll k.val u).rlist = [] ∧ (coll k.val u).ended = none ∧ u.tiles = s.tiles) ∧
    (x.ended = none → exec (.replayCommandComplete k) s = .next s) ∧
    (x.phase = 0 ∨ gTimeout d = 0 → exec (.collectiveTimeout k) s = .next s) ∧
    (∀ c, x.phase ≠ 0 → gTimeout d ≠ 0 → CollEnds k.val c s →
      ∃ u, exec (.collectiveTimeout k) s = .next u ∧ (coll k.val u).phase = 0 ∧ rd COL_CID_last_code k.val u = 4 ∧ rd COL_CID_code_valid k.val u = 1
        ∧ Counts COL_TIMEOUTS_count 0 1 s u ∧ (recNat (cells (gSummary d) 8 u) 0 8).testBit 9 = true ∧ Completes c 4 0 s u)

/-! ### The express path (R164 to R183) -/

/-- XVLOAD puts bf16 vectors into the resident slots and completes; XMV enters the command slot of every unit; a unit starts a slab, once its half that held the slab two before it is free, streams chunk after chunk into the partial words of its row, and sends them to the row's collector, which adds and counts them; a unit's last chunk of a slab makes its half ready. A slab whose rows a unit has collected whole is converted there, its elements, status bytes and, for L576, tag bytes written in order, and its half freed; the last half of a command completes it (R172, R174). The status of the last command of an engine is in MST_EXP_STATUS of every unit (R183). In what words and partials say, no half of a unit concerned is ready to convert; a tensor scale is known already. -/
def Obligations.ExpressPath : Prop :=
  (∀ (q : CmdSel) (c : Cmd) (d : List Byte) (s : State), Calm s → PlainMem s →
      frontCmd q 2 s = some c → CanEnd c s → oneDescOk c 32 = true → smRead c.a18 32 s = (0, d, s) → loadLegal d = true → lastChunkRead (expQueue c.ring s) s = true →
    let e := expQueue c.ring s
    let at_ := fun (v : Nat) => lSrc d + v * lPitch d
    (∀ v, v < lCount d → mapped (at_ v) (2 * lK d) s = true ∧ protOk e (at_ v) (2 * lK d) true false s = true ∧ wpHits 3 (at_ v) (2 * lK d) true false s = []
      ∧ anyDown (at_ v) (2 * lK d) s = false) →
    ∃ u, exec (.xvload q) s = .next u ∧ Completes c 0 0 s u ∧ MemKept s u ∧ (∀ n, n < 28 → rd MST_EXP_STATUS_last_status n u = 0 ∧ rd MST_EXP_STATUS_status_valid n u = 1)
      ∧ ∀ v, v < lCount d → kOfSlot e (lSlot d + v) u = lK d
          ∧ ∀ i, i < lK d → Map.get (fun _ => 0) u.expVec (32768 * (16 * e + lSlot d + v) + i) = recNat (cells (at_ v + 2 * i) 2 s) 0 2) ∧
  (∀ (q : CmdSel) (c : Cmd) (d : List Byte) (s : State), Calm s → frontCmd q 3 s = some c → oneDescOk c 128 = true → smRead c.a18 128 s = (0, d, s) →
      mvLegal (expQueue c.ring s) d s = true → xcmd (expQueue c.ring s) s = none → smTracing (c.ring % 4) s = false →
    ∃ u, exec (.xmv q) s = .next u ∧ xcmd (expQueue c.ring s) u = some { desc := d, cmd := c.id } ∧ (∀ n, n < 28 → rd (busyFld (expQueue c.ring s)) n u = 1)
      ∧ (∃ x ∈ u.host.cmds, x.id = c.id ∧ x.phase = 1) ∧ u.xunits = s.xunits ∧ u.expVec = s.expVec ∧ u.mem = s.mem ∧ u.tiles = s.tiles) ∧
  (∀ (n : StationN) (q f : Nat) (x : XCmd) (s : State), Sound s →
    let y := xunit n.val s
    let b := Map.get (fun _ => 0) x.next n.val
    isl n.val s = 0 → y.cur = none → y.halves.length < 2 → (∀ h ∈ y.halves, h.2.2 = false) → chooseQueue n.val s = some q → xcmd q s = some x → slabFloor n.val q b x s = (0, f, s) →
      slabChunks x.desc n.val b ≠ [] → (∀ h ∈ y.halves, h.1 = q → b < h.2.1 + 2) →
    ∃ u x', exec (.expressSlabStart n) s = .next u ∧ xcmd q u = some x' ∧ Map.get (fun _ => 0) x'.next n.val = b + 1 ∧ Map.get (fun _ => none) x'.floors b = some f
      ∧ (xunit n.val u).cur = some (q, b) ∧ (xunit n.val u).chunks = slabChunks x.desc n.val b ∧ (xunit n.val u).halves = y.halves ++ [(q, b, false)]
      ∧ rd MST_EXP_STATUS_slab n.val u = b % 2 ^ MST_EXP_STATUS_slab.w ∧ MemKept s u ∧ u.tiles = s.tiles) ∧
  (∀ (n : StationN) (q : Nat) (x : XCmd) (s : State), Sound s → (xunit n.val s).cur = none → chooseQueue n.val s = some q → xcmd q s = some x →
      (∃ h ∈ (xunit n.val s).halves, h.1 = q ∧ h.2.1 + 2 ≤ Map.get (fun _ => 0) x.next n.val) → exec (.expressSlabStart n) s = .next s) ∧
  (∀ (n : StationN) (q b r c : Nat) (rest : List (Nat × Nat)) (x : XCmd) (s : State), Sound s → PlainMem s →
    let y := xunit n.val s
    let d := x.desc
    let per := 4096 * 8 / fmtBits (xFmt d)
    let m := min per (xK d - c * per)
    let len := m * fmtBits (xFmt d) / 8
    let a := xW d + r * xPitch d + c * 4096
    let sa := xS d + r * (xK d / 32) + c * per / 32
    let sn := if fmtBlock (xFmt d) then m / 32 else 0
    let floor := (Map.get (fun _ => none) x.floors b).getD (xFloor d)
    let lane := fun (v : Nat) => chunkLane q d (cells a len s) (cells sa sn s) (c * per) m v floor s
    let word := fun (v : Nat) => Map.get zw y.words v + toWord (lane v).1
    let tag := fun (v : Nat) => Map.get zb y.tags v ||| (lane v).2.1
    let may := fun (a k : Nat) => mapped a k s = true ∧ protOk q a k true false s = true ∧ wpHits 3 a k true false s = [] ∧ anyDown a k s = false
    let leaves := fun (u : State) => (xunit n.val u).words = [] ∧ u.xparts.length = s.xparts.length + xVecs d
      ∧ ∀ v, v < xVecs d → ∃ p ∈ u.xparts[s.xparts.length + v]?, p.q = q ∧ p.dst = collector d r ∧ p.row = r ∧ p.v = v ∧ p.word = word v ∧ p.tag = tag v
    y.cur = some (q, b) → y.chunks = (r, c) :: rest → xcmd q s = some x → (∀ h ∈ y.halves, h.2.2 = false) → q < 2 → may a len → (fmtBlock (xFmt d) = true → may sa sn) →
      (rest = [] → ∃ r' ∈ slabMine d n.val b, collector d r ≠ n.val ∧ ∃ v, v < xVecs d ∧ Map.get (fun _ => 0) x.got (16 * r' + v) ≠ (rowOwners d r').length) →
    ∃ u, exec (.expressChunkRead n) s = .next u ∧ (xunit n.val u).chunks = rest ∧ Counts MST_EXP_BYTES_count n.val (len + sn) s u
      ∧ MemKept s u ∧ u.tiles = s.tiles
      ∧ (rest ≠ [] → (xunit n.val u).cur = some (q, b) ∧ (xunit n.val u).halves = y.halves)
      ∧ (rest ≠ [] → (rest.headD (0, 0)).1 = r → u.xparts = s.xparts ∧ ∀ v, v < xVecs d → Map.get zw (xunit n.val u).words v = word v ∧ Map.get zb (xunit n.val u).tags v = tag v)
      ∧ (rest ≠ [] → (rest.headD (0, 0)).1 ≠ r → collector d r ≠ n.val → leaves u)
      ∧ (rest = [] → leaves u ∧ (xunit n.val u).cur = none ∧ (xunit n.val u).halves = y.halves.map fun h => if h.1 = q ∧ h.2.1 = b then (q, b, true) else h)) ∧
  (∀ (k : Nat) (p : XPart) (x : XCmd) (s : State), Sound s → isl p.dst s = 0 → s.xparts[k]? = some p → xcmd p.q s = some x →
      (∃ h ∈ (xunit p.dst s).halves, h.1 = p.q ∧ h.2.1 = p.row / 256) → (∀ h ∈ (xunit p.dst s).halves, h.2.2 = false) →
    let key := 16 * p.row + p.v
    ∃ u x', exec (.expressPartialArrival k) s = .next u ∧ u.xparts = s.xparts.eraseIdx k ∧ xcmd p.q u = some x' ∧ Map.get zw x'.words key = Map.get zw x.words key + p.word
      ∧ Map.get zb x'.tags key = (Map.get zb x.tags key ||| p.tag) ∧ Map.get (fun _ => 0) x'.got key = Map.get (fun _ => 0) x.got key + 1
      ∧ { u with xparts := s.xparts, xcmds := s.xcmds } = s) ∧
  (∀ (k : Nat) (p : XPart) (x : XCmd) (s : State), Calm s → PlainMem s → s.xparts[k]? = some p → p.dst < 28 → p.q < 2 → xcmd p.q s = some x →
    let t := p.dst
    let d := x.desc
    let b := p.row / 256
    let here := fun (r v : Nat) => r = p.row ∧ v = p.v
    let word := fun (r v : Nat) => Map.get zw x.words (16 * r + v) + if here r v then p.word else 0#576
    let tag := fun (r v : Nat) => Map.get zb x.tags (16 * r + v) ||| if here r v then p.tag else 0#8
    let scale := if ctlTscale (xConv d) then x.scale else some 127
    let others := ∃ m, m < 28 ∧ m ≠ t ∧ ∃ h ∈ (xunit m s).halves, h.1 = p.q
    (xunit t s).halves = [(p.q, b, true)] → p.row ∈ slabMine d t b → p.v < xVecs d →
      (∀ r ∈ slabMine d t b, ∀ v, v < xVecs d → Map.get (fun _ => 0) x.got (16 * r + v) + (if here r v then 1 else 0) = (rowOwners d r).length) →
      (∀ w ∈ slabPlaces d t b, MayAccess p.q 3 w.1 w.2 false true s) →
    ∀ sc, scale = some sc →
    let el := slabEl d (if ctlTscale (xConv d) then scaleK sc else 0) word tag
    let stat := fun (v : Nat) => slabStat d t b el (Map.get zb x.stat (16 * b + v)) v
    let written := fun (u : State) => u.xparts = s.xparts.eraseIdx k ∧ (xunit t u).halves = [] ∧ ∀ y, byteAt y u = slabByte d t b el stat y (byteAt y s)
    (lastChunkRead p.q s = false ∨ others → ∃ u x', exec (.expressPartialArrival k) s = .next u ∧ written u ∧ u.tiles = s.tiles ∧ xcmd p.q u = some x'
      ∧ (∀ v, v < xVecs d → Map.get zb x'.stat (16 * b + v) = stat v) ∧ ∀ r ∈ slabMine d t b, ∀ v, v < xVecs d → Map.get zw x'.words (16 * r + v) = 0#576) ∧
    (∀ c, lastChunkRead p.q s = true → ¬ others → ctlCensus (xConv d) = false → s.xparts = [p] → x.status = 0 ∨ x.status = 3 → cmdOf x.cmd s = some c → CanEnd c s →
      ∃ u, exec (.expressPartialArrival k) s = .next u ∧ written u ∧ xcmd p.q u = none ∧ Completes c x.status 0 s u
        ∧ ∀ m, m < 28 → rd (busyFld p.q) m u = 0 ∧ rd MST_EXP_STATUS_last_status m u = x.status ∧ rd MST_EXP_STATUS_status_valid m u = 1))

/-! ### Railway time, cuts and mirrors (R312 to R339) -/

/-- RTIME_WRITE sets railway time forward on the root alone; TIME_EXCHANGE_TIMER asks the parent; TIME answers a request with the sender's stamp and the time at which its first cell came, and a response with a small offset counts toward the lock without moving the count; DISCIPLINE_TIMEOUT ends discipline. That an exchange is good, and counts toward lastGood and the lock, where its offset is at most 2 ns is the model's choice (log entry 36). Ports in use are ACTIVE. -/
def Obligations.RailwayTime : Prop :=
  (∀ (v : U64) (s : State), Sound s → Answers s →
    (isRoot s = true → now s ≤ v.toNat → ∃ u, exec (.rtimeWrite v) s = .next u ∧ now u = v.toNat ∧ u.tiles = s.tiles ∧ u.mem = s.mem ∧ u.ports = s.ports) ∧
    (¬ (isRoot s = true ∧ now s ≤ v.toNat) → exec (.rtimeWrite v) s = .next (event boxCUT 0x02 0 (CUT_RTIME.off 0 0) s))) ∧
  (∀ s : State, Calm s →
    let p := timePort s
    (isRoot s = true → exec .timeExchangeTimer s = .next s) ∧
    (isRoot s = false → p < 16 → portState p s = 6 →
      ∃ u r, exec .timeExchangeTimer s = .next u ∧ port p u = { port p s with outq := r :: (port p s).outq } ∧ r.pkt.typ = 0x59 ∧ r.pkt.payload.length = 32
        ∧ recNat r.pkt.payload 0 8 = 0 ∧ recNat r.pkt.payload 8 8 = 0 ∧ bits (recNat r.pkt.payload 24 8) 0 2 = 0
        ∧ u.cut = { s.cut with asked := true } ∧ { u with ports := s.ports, cut := s.cut } = s ∧ ∀ q, q ≠ p → port q u = port q s)) ∧
  (∀ (n : PortN) (f : RxFound) (s : State), Calm s → portState n.val s = 6 → localPacket n.val 0x59 s = some f →
    let p := n.val
    let came := f.head.rt
    let w := fun (o : Nat) => recNat (pktOf f.hdr f.data).payload o 8
    (bits (w 24) 0 2 = 0 →
      ∃ u r, exec (.time n) s = .next u ∧ (port p u).outq = r :: (port p s).outq ∧ (port p u).cells = f.rest ∧ r.pkt.typ = 0x59
        ∧ recNat r.pkt.payload 0 8 = w 0 ∧ recNat r.pkt.payload 8 8 = came % 2 ^ 64 ∧ bits (recNat r.pkt.payload 24 8) 0 2 = 1
        ∧ u.tiles = s.tiles ∧ u.mem = s.mem ∧ u.flds = s.flds) ∧
    (bits (w 24) 0 2 ≠ 0 → isRoot s = false → p = timePort s → s.cut.asked = true →
      let t4 : Int := came
      let d2 : Int := ((w 8 : Int) - w 0) - (t4 - w 16)
      let row := min 4 (s.cut.goodRow + 1)
      d2.natAbs ≤ 4 →
      ∃ u, exec (.time n) s = .next u ∧ now u = now s ∧ Counts CUT_RT_EXCHANGES_count 0 1 s u ∧ u.cut.asked = false ∧ u.cut.goodRow = row ∧ u.cut.lastGood = now s
        ∧ rd CUT_RT_STATUS_depth 0 u = min 127 (bits (w 24) 2 7 + 1) ∧ rd CUT_RT_STATUS_theta 0 u = (8 * d2 % 65536).toNat
        ∧ (rd CUT_RT_STATUS_locked 0 u = 1 ↔ row = 4 ∧ bit (w 24) 9 = true) ∧ (rd CUT_STATUS_rt_ok 0 u = 1 ↔ row = 4 ∧ bit (w 24) 9 = true)
        ∧ u.cut.slew = d2 / 2 ∧ u.tiles = s.tiles ∧ u.mem = s.mem)) ∧
  (∀ s : State, Sound s →
    (isRoot s = true → exec .disciplineTimeout s = .next s) ∧
    (isRoot s = false → ∃ u, exec .disciplineTimeout s = .next u ∧ rd CUT_STATUS_rt_ok 0 u = 0 ∧ now u = now s ∧ u.tiles = s.tiles ∧ u.mem = s.mem
      ∧ (portState (rd CUT_RT_CONFIG_parent 0 s) s ≠ 6 → on CUT_RT_CONFIG_alt_valid 0 s = true → on CUT_RT_STATUS_on_alt 0 u = true)))

/-- CUT_ORDER is refused while a cut runs, which CUT_STATUS then shows beside that cut, out of discipline, or within 50 µs of its time, and is otherwise armed; at its time CUT_POINT takes the cut point: every ACTIVE port sends a TAIL ahead of its queue, and waits for its own where none has come (R320), every station arms one record per region (R203), every tile of the cut stops and is saved with its row, and with no tile to save draining begins at once. There no contribution is held, no sampled pass waits, and no port sleeps; the tiles have nothing outstanding, and the record area is on the host. A TAIL before its order holds what follows it on its port, until TAIL_ORDER_TIMEOUT. A refusal during a cut is shown beside that cut (log entry 81); the TAILs of a refused identifier are ignored (log entry 34); what snLegal asks of a descriptor's regions and areas is in part log entry 58; that packets ejected but not taken go back to the injection queue is log entry 35, and the numbers of the parts are log entry 38. -/
def Obligations.CutsOrderedAndTaken : Prop :=
  (∀ (id : BitVec 16) (s : State), Calm s → PlainMem s → Answers s →
    let k := id.toNat
    let t := rd CUT_ORDER_TIME_cut_time 0 s
    let a := rd CUT_ORDER_SNAP_snap 0 s
    let refused := fun (reason : Nat) => ∃ u, exec (.cutOrder id) s = .next u ∧ Counts CUT_REFUSALS_count 0 1 s u ∧ rd CUT_STATUS_state 0 u = 5
      ∧ rd CUT_STATUS_reason 0 u = reason ∧ rd CUT_STATUS_cut_id 0 u = k ∧ rd CUT_STATUS_event 0 u = 1 ∧ (∀ e ∈ u.cut.tails, e.2 ≠ k) ∧ u.mem = s.mem ∧ u.tiles = s.tiles
    (cutBusy s = true → ∃ u, exec (.cutOrder id) s = .next u ∧ Counts CUT_REFUSALS_count 0 1 s u ∧ rd CUT_STATUS_state 0 u = rd CUT_STATUS_state 0 s
      ∧ rd CUT_STATUS_cut_id 0 u = rd CUT_STATUS_cut_id 0 s ∧ (∀ e ∈ u.cut.tails, e.2 ≠ k) ∧ u.mem = s.mem ∧ u.tiles = s.tiles
      ∧ derived CUT_STATUS_state 0 u = some 5 ∧ derived CUT_STATUS_reason 0 u = some 3 ∧ derived CUT_STATUS_cut_id 0 u = some k ∧ rd CUT_STATUS_event 0 u = 1) ∧
    (cutBusy s = false → rtOk s = false → refused 1) ∧
    (cutBusy s = false → rtOk s = true → (∀ e ∈ s.cut.tails, e.2 ≠ k) → t < now s + 50000 → refused 2) ∧
    (∀ d, cutBusy s = false → rtOk s = true → (∀ e ∈ s.cut.tails, e.2 ≠ k) → now s + 50000 ≤ t → a % 64 = 0 → memRead 6 9 a 320 s = (0, d, s) →
      let unit := (unitState (cutTileStates s) s).length
      (snLegal unit d s = false → refused 4) ∧
      (snLegal unit d s = true → (∀ n, n < 28 → snRegions d ≤ freeRecords n s) →
        ∃ u, exec (.cutOrder id) s = .next u ∧ rd CUT_STATUS_state 0 u = 1 ∧ rd CUT_STATUS_reason 0 u = 0 ∧ rd CUT_STATUS_cut_id 0 u = k
          ∧ u.cut.snap = d ∧ u.cut.time = t ∧ u.mem = s.mem ∧ u.tiles = s.tiles))) ∧
  (∀ s : State, Calm s → PlainMem s →
    (rd CUT_STATUS_state 0 s ≠ 1 ∨ on CUT_STATUS_sweeping 0 s = true ∨ now s < s.cut.time → exec .cutPoint s = .next s) ∧
    (rd CUT_STATUS_state 0 s = 1 → on CUT_STATUS_sweeping 0 s = false → s.cut.time ≤ now s → rtOk s = true → s.heldq = [] → s.checks = [] → s.sweep = [] → (∀ p, p < 16 → portState p s ≠ 7 ∧ portState p s ≠ 8) →
        (∀ d, d < 2 → (poss d s).st < 2) →
      let d := s.cut.snap
      let id := rd CUT_STATUS_cut_id 0 s
      let away := (List.range (snRegions d)).filter fun k => snKind (recNat d (0x58 + 32 * k) 8) != 0
      snLegal 0 d s = true → snKind (recNat d 0x20 8) = 2 →
        (∀ t ∈ cutTiles s, coreState t s ≤ 3 ∧ (Machine.core t s).outst = [] ∧ pendingDefer t s = none ∧ on TIL_LR_STATUS_suspended t s = false ∧ (lrow t s).suspBusy = none
          ∧ (lrow t s).restBusy = none ∧ saveAddr t s % 512 = 0 ∧ mapped (saveAddr t s) 0x52600 s = true ∧ protOk (tileClass t s) (saveAddr t s) 0x52600 false true s = true
          ∧ progLocked (saveAddr t s) 0x52600 s = false) →
      ∃ u, exec .cutPoint s = .next u ∧ u.cut.point = now s ∧ MemKept s u ∧ u.ejq = s.ejq.filter (fun q => q.pkt.typ == 0x52)
        ∧ (∀ p, p < 16 → portState p s ≠ 6 → (rd CUT_STATUS_tail_wait 0 u).testBit p = false)
        ∧ (∀ p, p < 16 → portState p s = 6 → (rd CUT_STATUS_tail_wait 0 u).testBit p = decide ((p, id) ∉ s.cut.tails)
            ∧ ∃ q, (port p u).outq = q :: (port p s).outq.filter (fun q => linkLocal q.pkt.typ) ∧ q.pkt.typ = 0x58 ∧ q.pkt.vc = 4 ∧ q.pkt.payload = leBytes id 8 ++ leBytes s.cut.time 8)
        ∧ (∀ n, n < 28 → rd MST_STATUS_armed n u = 2 ^ snRegions d - 1 ∧ ∀ k, k < snRegions d →
            let i := n * 8 + k
            let w := recNat d (0x58 + 32 * k) 8
            rd MST_COW_BASE_base i u = snBase d k / 4096 ∧ rd MST_COW_LIMIT_limit i u = snLimit d k / 4096 ∧ rd MST_COW_CURSOR_cursor i u = snBase d k / 64 ∧ rd MST_COW_DEST_dest i u = snDest d k
              ∧ rd MST_COW_DEST_CTL_remote i u = bits w 18 1 ∧ rd MST_COW_DEST_CTL_host i u = bits w 19 1 ∧ (bit w 18 = true → rd MST_COW_DEST_CTL_coord i u = bits w 0 18))
        ∧ (∀ t ∈ cutTiles s, coreState t u = 4 ∧ (t, coreState t s) ∈ u.cut.saving ∧ (lrow t u).suspBusy = some (saveAddr t s) ∧ (lrow t u).queue = []
            ∧ (Machine.core t u).replay = (Machine.core t s).replay ++ (lrow t s).queue ∧ (Machine.core t u).recAddr = some (ctxAddr t s)
            ∧ rd TIL_CS_EPC_val t u = nextIx t s % 2 ^ 16)
        ∧ (cutTiles s ≠ [] → rd CUT_STATUS_state 0 u = 2 ∧ u.cut.saved = [])
        ∧ (cutTiles s = [] → rd CUT_STATUS_state 0 u = 3 ∧ u.cut.parts = [168, 169, 170] ++ away.map (171 + ·) ∧ 168 ∈ u.cut.begun ∧ u.tiles = s.tiles))) ∧
  (∀ (n : PortN) (f : RxFound) (s : State), Calm s → localPacket n.val 0x58 s = some f →
    let id := recNat f.data 0 2
    let x := port n.val s
    let past := id ∈ s.cut.ignore ∨ (id = rd CUT_STATUS_cut_id 0 s ∧ on CUT_STATUS_sweeping 0 s = true ∧ (rd CUT_STATUS_state 0 s = 1 ∨ rd CUT_STATUS_reason 0 s = 7))
    ¬ (id = rd CUT_STATUS_cut_id 0 s ∧ rd CUT_STATUS_state 0 s = 1 ∧ on CUT_STATUS_sweeping 0 s = false) →
      (past → ∃ u, exec (.tail n) s = .next u ∧ port n.val u = { x with cells := f.rest, idle := false } ∧ OnlyPort n.val [] s u) ∧
      (¬ past → ∃ u, exec (.tail n) s = .next u ∧ port n.val u = { x with cells := f.before ++ f.after.map (fun c => { c with wait := c.wait + 1 }), idle := false }
        ∧ u.cut = { s.cut with tails := s.cut.tails ++ [(n.val, id)] } ∧ { u with ports := s.ports, cut := s.cut } = s)) ∧
  (∀ (n : PortN) (s : State), Calm s →
    ((∀ e ∈ s.cut.tails, e.1 ≠ n.val) → exec (.tailOrderTimeout n) s = .next s) ∧
    (∀ e, s.cut.tails.find? (fun e => e.1 == n.val) = some e → s.cut.tails.count e = 1 → cutBusy s = false →
      ∃ u, exec (.tailOrderTimeout n) s = .next u
        ∧ (port n.val u).cells = (port n.val s).cells.map (fun c => if c.wait > 0 then { c with wait := c.wait - 1 } else c) ∧ (∀ x ∈ u.cut.tails, x.2 ≠ e.2) ∧ rd CUT_STATUS_state 0 u = 5
        ∧ rd CUT_STATUS_reason 0 u = 6 ∧ rd CUT_STATUS_cut_id 0 u = e.2 % 2 ^ 16 ∧ Counts CUT_REFUSALS_count 0 1 s u ∧ u.mem = s.mem ∧ u.tiles = s.tiles))

/-- LOG_TIMEOUT damages a cut whose log is open; a confirmed part of a snapshot, an image on the host or another module once every image has left (R327), is drained; the manifest goes out once all others are (here to the host), and, confirmed last, makes the cut durable; a failed part, or CUT_ABANDON, damages it; CUT_RESTORE takes up a record of no unit state, and RESUME_TIME_REACHED lets its tiles go on; a mirrored write without an answer leaves a gap in its region, and a resync walks the regions with gaps. The numbers of a snapshot's parts are log entry 38; that a restore resumes only once its time is written, and that a refused one leaves state 5, is log entry 39. -/
def Obligations.CutsDrainedAndRestored : Prop :=
  (∀ s : State, Sound s → NoneWaits s → rd CUT_STATUS_sweeping 0 s = 0 → s.sweep = [] → (∀ n, n < 28 → rd MST_STATUS_armed n s = 0) →
    let damaged := fun (u : State) (reason : Nat) => rd CUT_STATUS_state 0 u = 6 ∧ rd CUT_STATUS_reason 0 u = reason ∧ rd CUT_STATUS_log_open 0 u = 0
      ∧ rd CUT_STATUS_sweeping 0 u = 0 ∧ rd CUT_STATUS_event 0 u = 1 ∧ u.mem = s.mem ∧ u.tiles = s.tiles
    let st := rd CUT_STATUS_state 0 s
    (rd CUT_STATUS_log_open 0 s ≠ 0 → st = 2 ∨ st = 3 → ∃ u, exec .logTimeout s = .next u ∧ damaged u 12) ∧
    (Answers s → st = 1 ∨ st = 2 ∨ st = 3 → ∃ u, exec .cutAbandon s = .next u ∧ damaged u 7 ∧ rd CUT_STATUS_cut_id 0 s ∈ u.cut.ignore
      ∧ ∀ p, p < 16 → ∀ q ∈ (port p u).outq, q.pkt.typ = 0x58 → recNat q.pkt.payload 0 2 ≠ rd CUT_STATUS_cut_id 0 s) ∧
    (∀ k : Fin 179, st = 3 → rd CUT_STATUS_log_open 0 s = 0 → k.val ∈ s.cut.parts → k.val ∈ s.cut.begun →
      ∃ u, exec (.snapshotPartConfirm k false) s = .next u ∧ damaged u 11)) ∧
  (∀ (k : Fin 179) (s : State), Sound s → Draining s → s.cut.out = [] → k.val ∈ s.cut.parts → k.val ∈ s.cut.begun →
    let left := s.cut.parts.filter (· != k.val)
    let taken := exec (.snapshotPartConfirm k true) s = .next { s with cut := { s.cut with parts := left } }
    (k.val < 170 → 170 ∉ s.cut.begun → left ≠ [170] ∨ imagesDone s = false → taken) ∧
    (170 < k.val → 170 ∉ s.cut.begun → imagesDone s = true → left ≠ [170] → taken) ∧
    (170 < k.val → imagesDone s = false → exec (.snapshotPartConfirm k true) s = .next s) ∧
    (k.val ≠ 170 → 170 ∉ s.cut.begun → left = [170] → imagesDone s = true → snKind (recW s) = 2 → s.boot.masterOff = false →
      exec (.snapshotPartConfirm k true) s = .next { s with cut := { s.cut with parts := left, begun := s.cut.begun ++ [170] }, hostOut := s.hostOut ++ manifestWrites s }) ∧
    (k.val = 170 → ∃ u, exec (.snapshotPartConfirm k true) s = .next u ∧ rd CUT_STATUS_state 0 u = 4 ∧ Counts CUT_CUTS_count 0 1 s u ∧ rd CUT_STATUS_event 0 u = 1
      ∧ u.cut = { s.cut with parts := left, shown := none } ∧ u.mem = s.mem ∧ u.tiles = s.tiles)) ∧
  (∀ (m : List Byte) (s : State), Calm s → PlainMem s → Answers s →
    let a := rd CUT_RESTORE_rec 0 s
    let w := recNat m 0 8
    memRead 6 9 a 4096 s = (0, m, s) →
    (¬ (bits w 0 16 = 1 ∧ bit w 51 = true) → cutBusy s = false → ∃ u, exec .cutRestore s = .next u ∧ rd CUT_STATUS_state 0 u = 5 ∧ rd CUT_STATUS_reason 0 u = 4
      ∧ rd CUT_STATUS_event 0 u = 1 ∧ u.cut = { s.cut with shown := none } ∧ u.mem = s.mem ∧ u.tiles = s.tiles) ∧
    let ad := on CUT_RESTORE_adopt 0 s
    (bits w 0 16 = 1 → bit w 51 = true → moduleIdle ad s = true → bits (recNat m 0x30 8) 0 48 = 0 → bits (recNat m 0x38 8) 0 48 = 0 →
      ∃ u, exec .cutRestore s = .next u ∧ u.cut.restored = true ∧ u.cut.resumeSet = false ∧ restoreOf ad u = some { area := a } ∧ restoreOf (!ad) u = restoreOf (!ad) s
        ∧ u.tiles = s.tiles ∧ u.mem = s.mem ∧ u.host.cmds = s.host.cmds)) ∧
  (∀ s : State, Calm s →
    let c := s.cut
    ((c.restored = false ∨ c.resumeSet = false ∨ now s < rd CUT_RESUME_TIME_resume 0 s) → exec .resumeTimeReached s = .next s) ∧
    (∀ (t : TileN) (t0 : Nat) (r : Restore), c.own = some r → c.twin = none → c.resumeSet = true → rd CUT_RESUME_TIME_resume 0 s ≤ now s → s.host.cmds = [] → s.colls = [] →
        r.chans = [] → r.xpend = [] → r.inject = [] → s.power.rows = [] → r.placed = [(t.val, t0)] → (r.prior.find? fun x => x.1 == t0) = some (t0, 1) →
        failedTile t.val s = false → coreState t.val s = 3 →
      ∃ u, exec .resumeTimeReached s = .next u ∧ coreState t.val u = 1 ∧ nextIx t.val u = min (rd TIL_CS_EPC_val t.val s) 65535 % 2 ^ TIL_CORE_STATUS_next_index.w
        ∧ u.cut.restored = false ∧ u.cut.resumeSet = false ∧ TilesKept t.val s u ∧ MemKept s u)) ∧
  (∀ (k : BitVec 12) (r st x t0 : Nat) (s : State), Calm s → Map.get (fun _ => none) s.tags k.toNat = some { who := .mirror r st x, at_ := t0 } → (station st s).mirq = [] →
    ∃ u, exec (.mirackTimeout k) s = .next u ∧ (station st u).mirOut = (station st s).mirOut - 1 ∧ u.mem = s.mem ∧ u.tiles = s.tiles
      ∧ Map.get (fun _ => none) u.tags k.toNat = some { who := .mirror r st x, at_ := t0, abandoned := true }
      ∧ (rd CUT_MIR_BASE_valid r s = 1 → rd CUT_MIR_BASE_gap r s = 0 → rd CUT_MIR_BASE_gap r u = 1 ∧ Counts CUT_MIR_GAPS_count 0 1 s u)) ∧
  (∀ s : State, Calm s →
    let gaps := (List.range 8).filter fun k => on CUT_MIR_BASE_valid k s && on CUT_MIR_BASE_gap k s
    (on CUT_CONTROL_mirror_en 0 s = false ∨ gaps = [] → exec .resync s = .next s) ∧
    (∀ r, Answers s → on CUT_CONTROL_mirror_en 0 s = true → gaps = [r] →
      let a := rd CUT_MIR_BASE_base r s * 4096
      rd CUT_MIR_BASE_base r s ≤ rd CUT_MIR_LIMIT_limit r s → whereOf a s = .gddr → unitDown a s = false → (station (stOf a) s).mirOut ≥ 64 →
        exec .resync s = .next { s with cut := { s.cut with walk := [(r, a, rd CUT_MIR_LIMIT_limit r s * 4096 + 4095)] } }))

/-! ### Silent errors, possessions and failed tiles (R342 to R362) -/

/-- CHECK_SLOT_FILLED writes the closing image of a slot; CHECK_START loads the opening image into the lane row of a free tile, for a first or a second check; CHECK_COMPARE, which waits while that row is suspended (log entry 76), runs the logged steps there, leaves the row empty, frees a slot whose check agrees, keeps the words of one that does not, and after a second check raises the count of the tile it finds wrong, of the passing tile where its words are borne out neither way by the first check's, else of the checker, or of both: that tile is suspect and a forced possession is asked for, which begins at once where its die is free, or it fails where its count reaches the limit (R345); the command of a wrong pass is tainted (R346); CHECK_SLOT_TIMEOUT drops a slot and empties the row of a checker still at it. -/
def Obligations.ChecksOfSampledPasses : Prop :=
  ∀ (k : Fin 16) (s : State),
    let c := checkSlot k.val s
    let t := c.tile
    let l := lrow t s
    let a := slotAddr k.val s + 0x52600
    let d := wordBytes l c.set ++ tagBytes l c.set ++ leBytes (t % 256 + c.steps * 2 ^ 8) 8 ++ leBytes (countOf t c.set s) 8 ++ floorBytes l c.set ++ leBytes (c.cmd.getD 0) 8
    let emptied := fun (x : Nat) (u : State) => rd TIL_LR_STATUS_pass_open x u = 0 ∧ (lrow x u).words = [] ∧ (lrow x u).tags = [] ∧ (lrow x u).queue = []
    Calm s →
    (c.st = 2 → PlainMem s → l.accErr = [] → t < 168 → mapped a d.length s = true →
      ∃ u, exec (.checkSlotFilled k) s = .next u ∧ checkSlot k.val u = { c with st := 3 } ∧ Stored a d s u) ∧
    (c.st ≠ 2 → exec (.checkSlotFilled k) s = .next s) ∧
    (∀ x, c.st = 3 ∨ c.st = 5 → PlainMem s → chooseChecker k.val s = some x → rd PWR_TILE_state x s = 0 →
      ∃ u, exec (.checkStart k) s = .next u ∧ checkSlot k.val u = (if c.st = 3 then { c with st := 4, checker := x } else { c with st := 6, second := x })
        ∧ lrow x u = { rowOf (cells (slotAddr k.val s) 337408 s) (lrow x s) with queue := [], run := none, waiting := none, groupValid := false, groupSteps := 0, shorts := [] }
        ∧ Machine.core x u = Machine.core x s ∧ TilesKept x s u ∧ u.mem = s.mem ∧ ∀ j, j ≠ k.val → checkSlot j u = checkSlot j s) ∧
    ((c.st ≠ 3 ∧ c.st ≠ 5) ∨ chooseChecker k.val s = none → exec (.checkStart k) s = .next s) ∧
    (∀ flips, let fs := flips.map fun e : Fin 2048 × L576 => (e.1.val, e.2)
      let x := if c.st = 4 then c.checker else c.second
      let run := setImage x c.set (checkRun k.val x s).2
      let agree := flipped run.1 fs = (closingImage k.val s).1 ∧ run.2 = (closingImage k.val s).2
      (c.st = 4 ∨ c.st = 6 → checkHeld x s = true → exec (.checkCompare k flips) s = .next s) ∧
      (c.st = 4 → x < 168 → checkHeld x s = false → (lrow x s).sample = none → (lrow x s).accErr = [] → PlainMem s →
        ∃ u, exec (.checkCompare k flips) s = .next u ∧ u.mem = s.mem ∧ emptied x u ∧ TilesKept x s u ∧ u.itgSeq = s.itgSeq + 1
        ∧ (agree → checkSlot k.val u = {}) ∧ (¬ agree → checkSlot k.val u = { c with st := 5, flips := fs } ∧ Counts ITG_DUP_MISMATCH_count 0 1 s u)) ∧
      (c.st = 6 → x < 168 → checkHeld x s = false → (lrow x s).sample = none → (lrow x s).accErr = [] → PlainMem s → flipped run.1 fs = flipped run.1 c.flips → t < 168 → ctrl t s = 4 → c.cmd = none →
        ∃ u, exec (.checkCompare k flips) s = .next u ∧ u.mem = s.mem ∧ emptied x u ∧ TilesKept x s u ∧ checkSlot k.val u = {} ∧ u.itgSeq = s.itgSeq + 1
          ∧ rd ITG_TILE_CTRL_suspect_count t u = min (rd ITG_TILE_CTRL_suspect_count t s + 1) (2 ^ ITG_TILE_CTRL_suspect_count.w - 1)) ∧
      (let own := flipped run.1 fs = flipped run.1 c.flips
       let named := if own then [t] else if agree then [c.checker] else [t, c.checker]
       let counted := fun (y : Nat) => min (rd ITG_TILE_CTRL_suspect_count y s + 1) (2 ^ ITG_TILE_CTRL_suspect_count.w - 1)
       let tainted := fun (u : State) => u.host.cmds = if ¬ own ∧ agree then s.host.cmds else s.host.cmds.map fun e => if some e.id = c.cmd ∧ e.phase ≠ 3 then { e with tainted := true } else e
       c.st = 6 → x < 168 → checkHeld x s = false → (lrow x s).sample = none → (lrow x s).accErr = [] → PlainMem s → t < 168 → c.checker < 168 → c.checker ≠ t →
         (∀ y ∈ named, ctrl y s = 0 ∨ ctrl y s = 3) →
         ((∀ y ∈ named, counted y < rd ITG_CONTROL_suspect_limit 0 s ∧ (poss (dieOfTile y) s).st ≥ 2 ∧ (poss (dieOfTile y) s).tile ≠ y) →
           ∃ u, exec (.checkCompare k flips) s = .next u ∧ u.mem = s.mem ∧ emptied x u ∧ TilesKept x s u ∧ checkSlot k.val u = {} ∧ u.itgSeq = s.itgSeq + 1
             ∧ (∀ y ∈ named, ctrl y u = 3 ∧ rd ITG_TILE_CTRL_suspect_count y u = counted y) ∧ u.itg.reqs = named.map (fun y => (y, true, false)) ∧ tainted u) ∧
         (own → counted t < rd ITG_CONTROL_suspect_limit 0 s → (poss (dieOfTile t) s).st ≤ 1 → x ≠ t → (lrow t s).sample = none → checking t s = false → coreState t s ≤ 3 →
             (lrow t s).restBusy = none → rd PWR_TILE_state t s = 0 → (lrow t s).suspBusy = none → on TIL_LR_STATUS_suspended t s = false → recCheck t (saveAddr t s) s = 0 →
           ∃ u, exec (.checkCompare k flips) s = .next u ∧ u.mem = s.mem ∧ emptied x u ∧ checkSlot k.val u = {} ∧ ctrl t u = 2 ∧ rd ITG_TILE_CTRL_suspect_count t u = counted t
             ∧ poss (dieOfTile t) u = { st := 2, tile := t, forced := true, prev := 3, core := coreState t s, takes := spareFor t s, epc := rd TIL_CS_EPC_val t s, step := (Machine.core t s).stepping }
             ∧ coreState t u = 4 ∧ (lrow t u).suspBusy = some (saveAddr t s) ∧ u.itg.reqs = [] ∧ tainted u) ∧
         (own → counted t ≥ rd ITG_CONTROL_suspect_limit 0 s → (poss (dieOfTile t) s).st = 0 ∨ (poss (dieOfTile t) s).tile ≠ t → Unserved t s →
             (∀ j, j < 16 → j ≠ k.val → checkSlot j s = {}) → x ≠ t → (lrow t s).sample = none →
           ∃ u, exec (.checkCompare k flips) s = .next u ∧ u.mem = s.mem ∧ emptied x u ∧ checkSlot k.val u = {} ∧ ctrl t u = 4 ∧ rd ITG_TILE_CTRL_suspect_count t u = counted t
             ∧ coreState t u = (if coreState t s = 0 then 0 else 3) ∧ rd ITG_STATUS_enabled 0 u = (rd ITG_STATUS_enabled 0 s - 1) % 2 ^ ITG_STATUS_enabled.w ∧ tainted u))) ∧
    (c.st ≥ 3 → (∀ x, runner c = some x → x < 168 ∧ (lrow x s).sample = none) →
      ∃ u, exec (.checkSlotTimeout k) s = .next u ∧ checkSlot k.val u = {} ∧ Counts ITG_DUP_DROPPED_count 0 1 s u ∧ u.mem = s.mem
        ∧ (∀ x, runner c = some x → emptied x u) ∧ ∀ x, runner c ≠ some x → tile x u = tile x s) ∧
    (c.st < 3 → exec (.checkSlotTimeout k) s = .next s)

/-- A possession goes through its steps: POSSESSION_TIMER chooses a tile and skips one busy too long; POSSESSION_START saves the chosen idle tile, or under a forced request one that runs or has stopped, with the whole test for a spare that is to stand in (R355); POSSESSION_TEST_END brings its stores back or fails it; POSSESSION_RETURN restores it. A request waits its turn; one for a failed tile is recorded. TILE_FAIL, and TILE_STOP_TIMEOUT of a tile that does not stop, take an enabled tile without work out of service: it is failed and counted out, its core stops, and the lowest spare of its die, else of the other, is chosen in its place. REPLAY_DONE clears replay_pending. -/
def Obligations.PossessionsAndFailedTiles : Prop :=
  (∀ (d : Fin 2) (s : State),
      let p := poss d.val s
      let t := p.tile
      Calm s →
      (p.st = 0 → ∀ x f c, possNext d.val s = some (x, f, c) →
        ∃ u, exec (.possessionTimer d) s = .next u ∧ poss d.val u = { st := 1, tile := x, forced := f, cal := c } ∧ u.flds = s.flds ∧ u.tiles = s.tiles ∧ u.mem = s.mem) ∧
      (p.st = 1 → p.rounds = 0 → ∃ u, exec (.possessionTimer d) s = .next u ∧ poss d.val u = { p with rounds := 1 } ∧ u.flds = s.flds ∧ u.tiles = s.tiles ∧ u.mem = s.mem) ∧
      (p.st = 1 → p.rounds ≥ 1 → ∃ u, exec (.possessionTimer d) s = .next u ∧ Map.get (fun _ => 0) u.itg.last d.val = t + 1 ∧ (poss d.val u).rounds = 0
        ∧ u.flds = s.flds ∧ u.tiles = s.tiles ∧ u.mem = s.mem) ∧
      (p.st ≥ 2 → exec (.possessionTimer d) s = .next s) ∧
      (p.st = 1 → t < 168 → (lrow t s).sample = none → checking t s = false → coreState t s = 0 → (holder t s).isNone = true → (lrow t s).restBusy = none →
          rd PWR_TILE_state t s = 0 → (lrow t s).suspBusy = none → on TIL_LR_STATUS_suspended t s = false → recCheck t (saveAddr t s) s = 0 →
        ∃ u, exec (.possessionStart d) s = .next u ∧ poss d.val u = { p with st := 2, prev := ctrl t s, core := 0, cal := p.cal && (spareFor t s).isNone, takes := spareFor t s, away := none, epc := rd TIL_CS_EPC_val t s, step := (Machine.core t s).stepping } ∧ ctrl t u = 2 ∧ rd (possFld d.val) 0 u = t
          ∧ coreState t u = 4 ∧ (lrow t u).suspBusy = some (saveAddr t s) ∧ Counts ITG_POSSESSIONS_count 0 1 s u ∧ TilesKept t s u ∧ u.mem = s.mem) ∧
      (p.st ≠ 1 → exec (.possessionStart d) s = .next s) ∧
      (∀ (g : Byte) (tr : BitVec 5) (dr : Byte), p.st = 3 → t < 168 → dieOfTile t = d.val →
        (PlainMem s → ∃ u, exec (.possessionTestEnd d true g tr dr) s = .next u ∧ poss d.val u = { p with st := 4, trim := tr.toNat, droop := dr.toNat }
          ∧ Stored (winAddr t 0) (cells (rd ITG_POSS_BASE_base d.val s * 2 ^ 22) 0x220000 s) s u ∧ u.flds = s.flds ∧ u.tiles = s.tiles) ∧
        (ctrl t s = 2 → (p.cal = true → 4 ≤ g.toNat) → Unserved t s → s.checks = [] → (lrow t s).sample = none →
          ∃ u, exec (.possessionTestEnd d false g tr dr) s = .next u ∧ ctrl t u = 4 ∧ (poss d.val u).st = 0 ∧ rd (possFld d.val) 0 u = 0xFF ∧ u.mem = s.mem ∧ TilesKept t s u)) ∧
      (p.st = 4 → t < 168 → p.core < 4 → restorable t s = true →
        ∃ u, exec (.possessionReturn d) s = .next u ∧ poss d.val u = { p with st := 5 } ∧ coreState t u = 6 ∧ (Machine.core t u).recAddr = some (ctxAddr t s) ∧ TilesKept t s u ∧ u.mem = s.mem) ∧
      (p.st ≠ 4 → exec (.possessionReturn d) s = .next s) ∧
      (∀ (x : Byte) (f c : Bool), Answers s →
        (x.toNat ≥ 168 ∨ ctrl x.toNat s = 4 ∨ ctrl x.toNat s = 5 → exec (.itgPossReq x f c) s = .next (event boxITG 0x0C x.toNat 0 s)) ∧
        (x.toNat < 168 → ctrl x.toNat s ≠ 4 → ctrl x.toNat s ≠ 5 → f = false →
          ∃ u, exec (.itgPossReq x f c) s = .next u ∧ derived ITG_TILE_CTRL_req_pending x.toNat u = some 1
            ∧ u = { s with itg := { s.itg with reqs := s.itg.reqs ++ [(x.toNat, f, c)] } }))) ∧
  (∀ (d : Fin 2) (s : State),
      let p := poss d.val s
      let t := p.tile
      Sound s → Quiet (setPoss d.val { p with forced := false } s) → p.st = 1 → p.forced = true → t < 168 → (lrow t s).sample = none → checking t s = false →
          coreState t s ≤ 3 → (lrow t s).restBusy = none → rd PWR_TILE_state t s = 0 → (lrow t s).suspBusy = none → on TIL_LR_STATUS_suspended t s = false →
          recCheck t (saveAddr t s) s = 0 →
        ∃ u, exec (.possessionStart d) s = .next u ∧ poss d.val u = { p with st := 2, prev := ctrl t s, core := coreState t s, cal := p.cal && (spareFor t s).isNone, takes := spareFor t s, away := none, epc := rd TIL_CS_EPC_val t s, step := (Machine.core t s).stepping }
          ∧ ctrl t u = 2 ∧ rd (possFld d.val) 0 u = t ∧ coreState t u = 4 ∧ (lrow t u).suspBusy = some (saveAddr t s) ∧ Counts ITG_POSSESSIONS_count 0 1 s u
          ∧ Counts ITG_FORCED_count 0 1 s u ∧ TilesKept t s u ∧ u.mem = s.mem) ∧
  (∀ (t : TileN) (s : State),
      let d := dieOfTile t.val
      let spares := (dieTiles d ++ dieTiles (1 - d)).find? fun x => (ctrl x s == 1 || ctrl x s == 2 && (poss (dieOfTile x) s).prev == 1) && (spareFor x s).isNone
      let fails := fun (u : State) => ctrl t.val u = 4 ∧ derived ITG_TILE_CTRL_req_pending t.val u = some 0
        ∧ rd ITG_STATUS_enabled 0 u = (rd ITG_STATUS_enabled 0 s - 1) % 2 ^ ITG_STATUS_enabled.w
        ∧ coreState t.val u = (if coreState t.val s = 0 then 0 else 3) ∧ s.itgSeq < u.itgSeq ∧ u.mem = s.mem ∧ TilesKept t.val s u
        ∧ ∀ x, spares = some x → spareFor x u = some t.val
      Calm s →
      (ctrl t.val s = 0 ∨ ctrl t.val s = 3 → ((poss d s).st = 0 ∨ (poss d s).tile ≠ t.val) → Unserved t.val s → s.checks = [] → (lrow t.val s).sample = none →
        (Answers s → ∃ u, exec (.tileFail t) s = .next u ∧ fails u) ∧
        (coreState t.val s = 1 ∨ coreState t.val s = 2 ∨ coreState t.val s = 4 ∨ t.val ∈ s.itg.halting → ∃ u, exec (.tileStopTimeout t) s = .next u ∧ fails u)) ∧
      (ctrl t.val s = 4 ∨ ctrl t.val s = 5 → exec (.tileFail t) s = .next s) ∧
      (coreState t.val s = 0 ∨ coreState t.val s = 3 ∨ coreState t.val s = 5 → t.val ∉ s.itg.halting → exec (.tileStopTimeout t) s = .next s) ∧
      (Answers s → ∃ u, exec .replayDone s = .next u ∧ rd ITG_STATUS_replay_pending 0 u = 0 ∧ OnlyFields [ITG_STATUS_replay_pending.key 0] s u))

/-! ### Signal boxes and trace (R420 to R434) -/

/-- BOX_FREEZE_WRITE, FREEZE_ALL and THAW_ALL freeze boxes, which clears what they lost, and thaw them; a read of an entry gives the value it has then; an event of a frozen box is counted as lost and of another is written behind the last; TRACE_ENABLE starts a collector at the beginning of its ring (log entry 60), or ends it. -/
def Obligations.BoxesAndTrace : Prop :=
  (∀ (n : Fin 224) (s : State), Sound s →
    let lost := DBG_BOX_HEAD_lost.key n.val
    let fz := DBG_BOX_HEAD_freeze.key n.val
    (Answers s → ∃ u, exec (.boxFreezeWrite n true) s = .next u ∧ rd DBG_BOX_HEAD_freeze n.val u = 1 ∧ rd DBG_BOX_HEAD_lost n.val u = 0 ∧ OnlyFields [lost, fz] s u) ∧
    (Answers s → ∃ u, exec (.boxFreezeWrite n false) s = .next u ∧ rd DBG_BOX_HEAD_freeze n.val u = 0 ∧ OnlyFields [fz] s u) ∧
    (∀ j, j < 256 →
      let e := (Map.get (fun _ => 0#128) s.boxes (256 * n.val + j)).toNat
      readReg (0x320000 + 16 * (256 * n.val + j)) s = bits e 0 64 ∧ readReg (0x320000 + 16 * (256 * n.val + j) + 8) s = bits e 64 64) ∧
    (Answers s → ∃ u, exec .freezeAll s = .next u ∧ rd DBG_BOX_HEAD_freeze n.val u = 1 ∧ rd DBG_BOX_HEAD_lost n.val u = 0 ∧ { u with flds := s.flds } = s) ∧
    (Answers s → ∃ u, exec .thawAll s = .next u ∧ rd DBG_BOX_HEAD_freeze n.val u = 0 ∧ rd DBG_BOX_HEAD_lost n.val u = rd DBG_BOX_HEAD_lost n.val s ∧ { u with flds := s.flds } = s) ∧
    (∀ code detail arg,
      let c := rd DBG_BOX_HEAD_count n.val s
      let u := event n.val code detail arg s
      (on DBG_BOX_HEAD_freeze n.val s = true → u.boxes = s.boxes ∧ rd DBG_BOX_HEAD_lost n.val u = min (rd DBG_BOX_HEAD_lost n.val s + 1) (2 ^ DBG_BOX_HEAD_lost.w - 1) ∧ OnlyFields [lost] s u) ∧
      (on DBG_BOX_HEAD_freeze n.val s = false → Counts DBG_BOX_HEAD_count n.val 1 s u ∧ { u with flds := s.flds, boxes := s.boxes } = s
        ∧ (∀ j, j < 256 → j ≠ c % 256 → Map.get (fun _ => 0#128) u.boxes (256 * n.val + j) = Map.get (fun _ => 0#128) s.boxes (256 * n.val + j))
        ∧ let e := (Map.get (fun _ => 0#128) u.boxes (256 * n.val + c % 256)).toNat
          bits e 0 64 = now s % 2 ^ 64 ∧ bits e 64 8 = code % 256 ∧ bits e 72 8 = detail % 256 ∧ bits e 80 48 = arg % 2 ^ 48))) ∧
  (∀ (d : Fin 2) (s : State), Sound s → Answers s →
    (∃ u, exec (.traceEnable d true) s = .next u ∧ rd DBG_TRACE_CTL_enable d.val u = 1 ∧ rd DBG_TRACE_CTL_stopped d.val u = 0
      ∧ (on DBG_TRACE_CTL_enable d.val s = false → rd DBG_TRACE_WP_offset d.val u = 0 ∧ rd DBG_TRACE_WP_wrapped d.val u = 0)
      ∧ OnlyFields [DBG_TRACE_CTL_enable.key d.val, DBG_TRACE_CTL_stopped.key d.val, DBG_TRACE_WP_offset.key d.val, DBG_TRACE_WP_wrapped.key d.val] s u) ∧
    (∃ u, exec (.traceEnable d false) s = .next u ∧ rd DBG_TRACE_CTL_enable d.val u = 0 ∧ OnlyFields [DBG_TRACE_CTL_enable.key d.val] s u))

/-! ### Power, islands and supply (R404 to R419, R437 to R446) -/

/-- An idle island sleeps as deep as the season permits, a cause wakes it, and it then runs; a tile's droop begins and ends. A power tick of a module within its limits lowers the throttle level of each die after 100 calm ticks and takes the season; one above peak_w sets both levels to 15; a die at 115 °C trips the module, which keeps what its board holds, and leaves one zero byte of an attachment that was being written (log entry 43); without the station clock no island sleeps, wakes or runs on and nothing ticks. The average before the first second is past, and which die's level gives hold_cap, are log entry 42. -/
def Obligations.PowerControl : Prop :=
  (∀ (t : TileN) (s : State), Sound s →
    (∃ u, exec (.supplyDroop t) s = .next u ∧ Map.get (fun _ => false) u.power.droop t.val = true ∧ { u with power := { u.power with droop := s.power.droop } } = s) ∧
    (∃ u, exec (.droopRecovery t) s = .next u ∧ Map.get (fun _ => false) u.power.droop t.val = false ∧ { u with power := { u.power with droop := s.power.droop } } = s)) ∧
  (∀ (x : Island) (s : State), Sound s → season s < 4 →
    let st := islState x s
    let want := seasonState x (season s)
    let same := fun (u : State) => u.tiles = s.tiles ∧ u.mem = s.mem ∧ u.ports = s.ports ∧ ∀ y, y ≠ x → islState y u = islState y s
    (stationClock s = true → st ≠ 4 → st < want → islIdle x s = true → cutHolds x s = false → ∃ u, exec (.islandSleep x) s = .next u ∧ islState x u = want ∧ same u) ∧
    (stationClock s = false ∨ st = 4 ∨ want ≤ st ∨ islIdle x s = false ∨ cutHolds x s = true → exec (.islandSleep x) s = .next s) ∧
    (stationClock s = true → st ≠ 0 → st ≠ 4 → ∃ u, exec (.islandWake x) s = .next u ∧ islState x u = 4 ∧ Counts PWR_WAKES_count 0 1 s u ∧ same u
      ∧ ∀ n, x = .station n → st = 3 → (station n.val u).retrainQ = 0 ∧ Counts MST_RETRAINS_count n.val 4 s u) ∧
    (stationClock s = false ∨ st = 0 ∨ st = 4 → exec (.islandWake x) s = .next s) ∧
    (stationClock s = true → st = 4 → ∃ u, exec (.islandWakeComplete x) s = .next u ∧ islState x u = 0 ∧ same u) ∧
    (stationClock s = false ∨ st ≠ 4 → exec (.islandWakeComplete x) s = .next s)) ∧
  (∀ (x : Sensors) (s : State), Calm s →
    let draws := x.now.toNat :: s.power.draws.take 999999
    let avg := draws.foldl (· + ·) 0 / draws.length % 2 ^ 12
    let sus := rd PWR_CONTROL_sustain_w 0 s
    let n := min (tolSeason (rd PWR_WAKE_tol_ns 0 s)) (rd PWR_CONTROL_max_season 0 s)
    let below := fun (lim : Nat) => x.hotW.toNat < lim ∧ x.hotE.toNat < lim
    (stationClock s = false → exec (.powerTick x) s = .next s) ∧
    (stationClock s = true → tripNow x = true → ∃ u, exec (.powerTick x) s = .next u ∧ u.phys.trip = true ∧ u.mem = [] ∧ u.tiles = [] ∧ FieldsLost s.phys.leak u ∧ u.pending = s.pending
      ∧ u.boot.flash = (if s.boot.attach.isSome then [0#8] else s.boot.flash) ∧ u.boot.fuses = s.boot.fuses) ∧
    (stationClock s = true → tripNow x = false → below (rd PWR_THERMAL_suspend_c 0 s) → s.power.rows = [] → rd PWR_STATUS_susp_w 0 s = 0 → rd PWR_STATUS_susp_e 0 s = 0 → season s ≤ n →
      (below (rd PWR_THERMAL_throttle_c 0 s) → below (rd PWR_THERMAL_warn_c 0 s) → 240 ≤ x.flow.toNat → x.inlet.toNat ≤ 45 → x.now.toNat ≤ sus → (x.now.toNat < sus ∨ s.power.overTicks < 8000) →
          x.now.toNat ≤ rd PWR_CONTROL_peak_w 0 s → draws.foldl (· + ·) 0 * 100 ≤ 98 * sus * draws.length → level 0 s < 15 → level 1 s < 15 →
        ∃ u, exec (.powerTick x) s = .next u ∧ rd PWR_INPUT_now_w 0 u = x.now.toNat ∧ rd PWR_INPUT_avg_w 0 u = avg ∧ u.power.draws = draws ∧ u.power.overTicks = 0
          ∧ rd PWR_STATUS_hot 0 u = 0 ∧ season u = n ∧ rd PWR_COOLANT_vin 0 u = x.vin.toNat ∧ u.phys.sampled = mgmtBlock u ∧ u.mem = s.mem ∧ u.tiles = s.tiles
          ∧ (∀ d, d < 2 → level d u = (if Map.get (fun _ => 0) s.power.calm d ≥ 99 then level d s - 1 else level d s))
          ∧ rd PWR_STATUS_hold_cap 0 u = (if level 0 u = 0 ∧ level 1 u = 0 then 192 else if level 0 u ≤ 7 ∧ level 1 u ≤ 7 then 64 else 0)) ∧
      (rd PWR_CONTROL_peak_w 0 s < x.now.toNat → Map.get (fun _ => 0) s.power.top 0 < 999 → Map.get (fun _ => 0) s.power.top 1 < 999 →
        ∃ u, exec (.powerTick x) s = .next u ∧ level 0 u = 15 ∧ level 1 u = 15 ∧ rd PWR_STATUS_hold_cap 0 u = 0 ∧ Counts PWR_THROTTLE_US_count 0 1 s u
          ∧ u.mem = s.mem ∧ u.tiles = s.tiles)))

/-- The main input starts the converters softly and its loss takes all state; an input too high stops them until it falls again; the management bus answers at the address its straps give, from the block sampled last, while power is good; a lost reference takes the PCIe link, or the Ulusen links, that runs on it; a leak is latched and reported, and stays shown through all but the loss of the main input (R446). That a release of an overvoltage starts the soft start, and the block of the moment that the bus answers with before the first tick, are log entry 47; what a reset keeps is log entry 43. -/
def Obligations.SupplyAndBoard : Prop :=
  ∀ s : State,
    let p := s.phys
    let lost := fun (leak : Bool) (u : State) => u.mem = [] ∧ u.tiles = [] ∧ FieldsLost leak u ∧ u.pending = s.pending ∧ u.boot.fuses = s.boot.fuses ∧ u.boot.image = []
    (p.conv = 0 → p.overV = false → exec .inputRise s = .next { s with phys := { p with conv := 1 } }) ∧
    (p.conv ≠ 0 ∨ p.overV = true → exec .inputRise s = .next s) ∧
    (p.conv = 1 → exec .softStartComplete s = .next { s with phys := { p with conv := 2 } }) ∧
    (p.conv ≠ 1 → exec .softStartComplete s = .next s) ∧
    (∃ u, exec (.inputLoss false) s = .next u ∧ lost false u ∧ u.phys = { p with conv := 0, overV := false, trip := false, leak := false, sampled := [] }) ∧
    (∃ u, exec (.inputLoss true) s = .next u ∧ lost p.leak u ∧ u.phys = { p with conv := 0, overV := true, sampled := [] }) ∧
    (p.overV = true → exec .overvoltageRelease s = .next { s with phys := { p with overV := false, conv := 1 } }) ∧
    (p.overV = false → exec .overvoltageRelease s = .next s) ∧
    (p.trip = false → ∃ u, exec .boardReset s = .next u ∧ lost p.leak u ∧ u.phys = { p with low := true, sampled := [] }) ∧
    (p.trip = true → exec .boardReset s = .next s) ∧
    (∀ (o : BusAt) (d : List Byte), exec (.mgmtBusWrite o d) s = .next s) ∧
    (∀ (o : BusAt) (n : Byte), o.addr.toNat ≠ 0x60 + p.straps % 4 ∨ p.conv ≠ 2 ∨ p.trip = true → exec (.mgmtBusRead o n) s = .next { s with phys := { p with answer := none } }) ∧
    (∀ (o : BusAt) (n : Byte), o.addr.toNat = 0x60 + p.straps % 4 → p.conv = 2 → p.trip = false →
      ∃ u d, exec (.mgmtBusRead o n) s = .next u ∧ u = { s with phys := { p with answer := some d } } ∧ d.length = n.toNat
        ∧ ∀ i, i < n.toNat → d.getD i 0#8 = (if p.sampled = [] then mgmtBlock s else p.sampled).getD (o.off.toNat + i) 0#8) ∧
    (Sound s →
      (p.conv = 2 → p.trip = false → ∃ u, exec .vinLowTimer s = .next u ∧ rd PWR_COOLANT_vin_low 0 u = 1 ∧ OnlyFields [PWR_COOLANT_vin_low.key 0] s u) ∧
      (p.trip = false → ∃ u, exec .leakDetect s = .next u ∧ rd PWR_COOLANT_leak 0 u = 1 ∧ rd PWR_STATUS_event 0 u = 1 ∧ u.phys = { p with leak := true } ∧ u.mem = s.mem ∧ u.tiles = s.tiles)) ∧
    (p.conv ≠ 2 ∨ p.trip = true → exec .vinLowTimer s = .next s) ∧ (p.trip = true → exec .leakDetect s = .next s) ∧
    (Calm s →
      (∃ u, exec (.referenceLoss 0) s = .next u ∧ u.phys.refs.testBit 0 = false ∧ { u with phys := p } = s) ∧
      (s.boot.pcie = false → ∃ u, exec (.referenceLoss 1) s = .next u ∧ u.phys.refs.testBit 1 = false ∧ { u with phys := p } = s) ∧
      (s.boot.pcie = true → ∃ u, exec (.referenceLoss 1) s = .next u ∧ u.phys.refs.testBit 1 = false ∧ u.boot.pcie = false ∧ u.host.cmds = [] ∧ u.mem = s.mem
        ∧ ∀ t i, t < 168 → (Machine.core t u).sg i = 0#64) ∧
      ((∀ q, q < 16 → portState q s = 0) → ∃ u, exec (.referenceLoss 2) s = .next u ∧ u.phys.refs.testBit 2 = false ∧ u.mem = s.mem ∧ u.tiles = s.tiles
        ∧ ∀ q, q < 16 → portState q u = 0))

/-! ### Boot (R385 to R403) -/

/-- Boot goes stage by stage: the release of reset reads the fuses, the PCIe link comes up, the image comes to lie in the yard, and one that cannot be read, is blank, or fails its verification ends boot in recovery with the fail code of its fault, and one that passes gives its record; the tile test takes failed tiles out; training readies the stations and locks; firmware that does not start ends boot. Recovery fetches an image and programs it where it verifies; while boot is in recovery, the rows that write a register of another block do nothing (R396). A recovery image of any length is taken whole (log entry 93). That BOOT_START asks for good power and no trip and finds the references running is log entry 47, the fault a header is refused with is log entry 44, and that the link coming up takes stage 1 to 2 is log entry 88. -/
def Obligations.BootStages : Prop :=
  ∀ s : State, Sound s →
    let st := stage s
    let at_ := fun (u : State) (n code : Nat) => stage u = n ∧ rd BTC_STATUS_fail_code 0 u = code ∧ rd BTC_STATUS_event 0 u = 1
    (st = 0 → s.phys.conv = 2 → s.phys.trip = false → s.phys.perst = false →
      ∃ u, exec .bootStart s = .next u ∧ stage u = 1 ∧ rd BTC_SERIAL_serial 0 u = s.boot.fuses.serial % 2 ^ 64 ∧ rd BTC_FUSE_fuse_svn 0 u = s.boot.fuses.svn % 2 ^ BTC_FUSE_fuse_svn.w
        ∧ u.phys = { s.phys with low := false, refs := 7 } ∧ u.boot = s.boot ∧ u.mem = s.mem ∧ u.tiles = s.tiles) ∧
    (st ≠ 0 ∨ s.phys.conv ≠ 2 ∨ s.phys.trip = true ∨ s.phys.perst = true → exec .bootStart s = .next s) ∧
    (st ≠ 0 → s.phys.refs.testBit 1 = true → ∃ u, exec .pcieLinkUp s = .next u ∧ u.boot = { s.boot with pcie := true }
      ∧ stage u = (if st = 1 then 2 else st)
      ∧ OtherFields [BTC_STATUS_stage.key 0] s u ∧ u.mem = s.mem ∧ u.tiles = s.tiles) ∧
    (st = 1 ∨ st = 2 →
      let c := verifyImage s.boot.flash false s
      let blank := s.boot.flash.all (· == 0xFF#8)
      (∃ u, exec (.bootImageReadDone true) s = .next u ∧ at_ u 7 1) ∧
      (blank = true → ∃ u, exec (.bootImageReadDone false) s = .next u ∧ at_ u 7 9) ∧
      (blank = false → ∃ u, exec (.bootImageReadDone false) s = .next u
        ∧ if c = 0 then stage u = 4 ∧ u.boot.image = s.boot.flash ∧ u.sidingShare = rcShare (imRecord s.boot.flash) ∧ u.dens24 = (rcDensity (imRecord s.boot.flash) == 24)
          else at_ u 7 (c % 2 ^ 8))
      ∧ (s.boot.flash.length ≤ 0xC000000 → ∃ u a, exec (.bootImageReadDone false) s = .next u ∧ 0x200000000000 ≤ a ∧ a + s.boot.flash.length ≤ 0x20000C000000
          ∧ ∀ i, i < s.boot.flash.length → byteAt (a + i) u = s.boot.flash.getD i 0#8)) ∧
    (Calm s → st = 7 → ∀ (p : PortN) (n : StationN) (t : TileN) (ch : ChanN) (b : Bool) (x : Fin 224) (d : Fin 2) (v m : U64) (e : Option (Fin 64)) (id : BitVec 16) (y : Byte),
      ∀ i ∈ [Instr.portEnable p b, .portRetrain p, .freezeAll, .thawAll, .boxFreezeWrite x b, .traceEnable d b, .scrubKick n, .retrainReq n, .consumed n, .mapLatch b, .stampWrite d,
          .timetableWrite d e v m, .rtimeWrite v, .cutOrder id, .cutAbandon, .cutRestore, .resync, .itgPossReq y b b, .tileFail t, .replayDone, .coreRun t, .coreHalt t, .coreSave t,
          .coreRestore t, .coreStep t, .tilLrSuspendSuspend t, .tilLrSuspendRestore t, .shnStart ch, .shnStartChain ch, .shnStop ch, .shnResume ch, .shnClear ch],
        exec i s = .next s) ∧
    (∀ (cal : List (TileN × BitVec 5 × Byte)), st = 4 →
      (∃ u, exec (.bootTileTestDone [] cal) s = .next u ∧ (if enabledTiles s < 128 then at_ u 7 8 else stage u = 5 ∧ enabledTiles u = enabledTiles s)
        ∧ ∀ e, cal = [e] → rd PWR_TILE_trim e.1.val u = e.2.1.toNat ∧ rd PWR_TILE_droop e.1.val u = e.2.2.toNat) ∧
      (∀ t : TileN, ctrl t.val s = 0 → (∀ x, x < 168 → ctrl x s ≠ 1) → 129 ≤ enabledTiles s → enabledTiles s < 256 →
        ∃ u, exec (.bootTileTestDone [t] cal) s = .next u ∧ stage u = 5 ∧ ctrl t.val u = 4 ∧ enabledTiles u = enabledTiles s - 1 ∧ rd BTC_STATUS_degraded 0 u = 1)) ∧
    (∀ x : Trained, Calm s → st = 5 →
      let r := imRecord s.boot.image
      let good := fun (n : Nat) => (List.range 4).all fun d => x.devices.getLsbD (4 * n + d) && (x.ids.getD (4 * n + d) 0#64).toNat == recNat r (0x208 + 8 * (4 * n + d)) 8
      (x.bridge = false → ∃ u, exec (.bootTrainingDone x) s = .next u ∧ at_ u 8 11) ∧
      (x.bridge = true → (∀ n, n < 28 → good n = false) → ∃ u, exec (.bootTrainingDone x) s = .next u ∧ at_ u 8 10) ∧
      (x.bridge = true → (∃ n, n < 28 ∧ good n = true) → ∃ u, exec (.bootTrainingDone x) s = .next u ∧ stage u = 6 ∧ rd BTC_STATUS_locked 0 u = 1
        ∧ (∀ n, n < 28 → rd MST_STATUS_ready n u = if good n then 1 else 0) ∧ (x.firmware = 15#4 → rd BTC_STATUS_ready 0 u = 1 ∧ rd BTC_STATUS_event 0 u = 1)
        ∧ u.mem = s.mem ∧ u.tiles = s.tiles)) ∧
    (st = 6 → s.boot.fw ≠ 15 → rd BTC_STATUS_ready 0 s = 0 → ∃ u, exec .firmwareStartTimeout s = .next u ∧ at_ u 8 12) ∧
    (st ≠ 6 ∨ s.boot.fw = 15 → exec .firmwareStartTimeout s = .next s) ∧
    (∀ d, st = 7 → ∃ u, exec (.recoveryGo d) s = .next u ∧ u.boot = { s.boot with fetched := some (d.take (rd BTC_REC_LEN_len 0 s)) } ∧ rd BTC_REC_CONTROL_done 0 u = 0
      ∧ { u with boot := s.boot, flds := s.flds } = s) ∧
    (∀ d, st = 7 → s.boot.fetched = some d →
      let c := verifyImage d false s
      ∃ u, exec .recoveryDone s = .next u ∧ u.boot = { s.boot with fetched := none, flash := (if c = 0 then d else s.boot.flash) } ∧ rd BTC_REC_CONTROL_done 0 u = 1
        ∧ rd BTC_REC_CONTROL_result 0 u = c % 2 ^ 8 ∧ { u with boot := s.boot, flds := s.flds } = s) ∧
    (s.boot.fetched = none → exec .recoveryDone s = .next s)

/-! ### Rings, commands and resets (R158, R366 to R384, R399 to R401) -/

/-- The ring registers and COMMAND_FETCH: a tail or a read position written, a ring enabled, an entry fetched and numbered or refused for its opcode; CQ_HEAD_WRITE lets an entry out that waited; the resets of a ring, of the units and of the function abort what waits and clear what they clear, and leave memory. BAR2_ACCESS reads and writes device memory under the checks of source class 2, through the window; nothing answers while the link is down or boot is in recovery. The configuration space gives the identities of R363, takes the size of BAR2, and reports the width and rate of the link (log entry 72, the model's choice); bus mastering and PERST_N reach the block there too (log entries 72 and 88). An opcode of 0 or above 10 is refused as it is fetched (log entry 25); what a reset does with a command that waits is log entries 30 and 45. -/
def Obligations.RingsResetsAndWindow : Prop :=
  ((∀ (k : RingN) (v : BitVec 16) (s : State), Calm s →
      let n := k.val
      (∃ u, exec (.ringTailWrite k v) s = .next u ∧ rd HST_RING_TAIL_tail n u = v.toNat ∧ OnlyFields [HST_RING_TAIL_tail.key n] s u) ∧
      (cqWaiting (n % 4) s = [] → ∃ u, exec (.cqHeadWrite k v) s = .next u ∧ rd HST_CQ_HEAD_head n u = v.toNat ∧ OnlyFields [HST_CQ_HEAD_head.key n] s u) ∧
      (∀ e, cqWaiting (n % 4) s = [e] → e.ring = n → cqHeld (n % 4) (wr HST_CQ_HEAD_head n v.toNat s) = false → s.boot.masterOff = false →
        ∃ u w l, exec (.cqHeadWrite k v) s = .next u ∧ rd HST_CQ_HEAD_head n u = v.toNat ∧ cqWaiting (n % 4) u = [] ∧ u.hostOut = s.hostOut ++ w :: l
          ∧ w.addr = rd HST_CQ_BASE_base n s * 4096 + 32 * rd HST_CQ_TAIL_tail n s ∧ recNat w.data 8 8 = e.cmd % 2 ^ 64 ∧ recNat w.data 24 8 = e.arg % 2 ^ 64
          ∧ u.mem = s.mem ∧ u.tiles = s.tiles) ∧
      (∃ u, exec (.ringEnable k true) s = .next u ∧ rd HST_RING_CONTROL_enable n u = 1 ∧ (on HST_RING_CONTROL_enable n s = false → seqOf n u = 0)
        ∧ OtherFields [HST_RING_CONTROL_enable.key n] s u ∧ u.host.cmds = s.host.cmds ∧ u.mem = s.mem ∧ u.tiles = s.tiles) ∧
      (∃ u, exec (.ringEnable k false) s = .next u ∧ rd HST_RING_CONTROL_enable n u = 0 ∧ OnlyFields [HST_RING_CONTROL_enable.key n] s u) ∧
      (∀ entry : BitVec 1024, (fetchable n s = false → exec (.commandFetch k entry) s = .next s) ∧
        (fetchable n s = true → seqOf n s < 2 ^ 58 → smTracing (n % 4) s = false →
          let c : Cmd := { id := freshId n s, entry := leBytes entry.toNat 128 }
          ∃ u, exec (.commandFetch k entry) s = .next u ∧ rd HST_RING_HEAD_head n u = (rd HST_RING_HEAD_head n s + 1) % ringSize n s % 2 ^ 16
            ∧ seqOf n u = (seqOf n s + 1) % 2 ^ 58 ∧ u.mem = s.mem ∧ u.tiles = s.tiles
            ∧ c.name = n * 2 ^ 58 + seqOf n s ∧ (∀ x ∈ s.host.cmds, x.id ≠ c.id)
            ∧ (1 ≤ c.op → c.op ≤ 10 → u.host.cmds = s.host.cmds ++ [c])
            ∧ (c.op = 0 ∨ 10 < c.op → CqOpen n s → u.host.cmds = s.host.cmds ∧ Completes c 1 0 s u))) ∧
      (∀ c, s.host.cmds = [c] → c.ranks = [] → CanEnd c s →
        (c.ring = n → ∃ u, exec (.ringReset k) s = .next u ∧ Completes c 13 0 s u ∧ rd HST_RING_HEAD_head n u = 0 ∧ rd HST_RING_TAIL_tail n u = 0 ∧ rd HST_CQ_HEAD_head n u = 0
          ∧ rd HST_CQ_TAIL_tail n u = 0 ∧ seqOf n u = 0 ∧ u.mem = s.mem ∧ u.tiles = s.tiles) ∧
        (∃ u, exec .idleReset s = .next u ∧ Completes c 13 0 s u ∧ u.mem = s.mem ∧ u.colls = [] ∧ u.shunts = [] ∧ u.xunits = []
          ∧ (∀ t i, t < 168 → (Machine.core t u).sg i = 0#64) ∧ rd HST_RING_CONTROL_enable n u = rd HST_RING_CONTROL_enable n s))) ∧
    (∀ (down : Bool) (s : State), Calm s → s.cfgVals = [] →
      ∃ u, exec (.functionReset down) s = .next u ∧ u.host.cmds = [] ∧ u.hostOut = s.hostOut ∧ u.mem = s.mem ∧ u.boot = { s.boot with pcie := s.boot.pcie && !down, masterOff := true }
        ∧ (∀ r, r < 64 → rd HST_RING_CONTROL_enable r u = 0) ∧ ∀ t i, t < 168 → (Machine.core t u).sg i = 0#64)) ∧
  (∀ (s : State), Calm s → PlainMem s →
      let a := fun (o : Nat) => rd HST_BAR2_BASE_base 0 s * 2 ^ 36 + o
      let may := fun (o n : Nat) (r w : Bool) => o + n ≤ s.bar2Size ∧ mapped (a o) n s = true ∧ protOk 2 (a o) n r w s = true ∧ (w && progLocked (a o) n s) = false
        ∧ wpHits 5 (a o) n r w s = [] ∧ anyDown (a o) n s = false
      (∀ o n, bar2Open s = true → may o n true false →
        ∃ u, exec (.bar2Access (.read o n)) s = .next u ∧ u = { s with bar2 := s.bar2 ++ [some (cells (a o) n s, false)] }) ∧
      (∀ o d, bar2Open s = true → may o d.length false true →
        ∃ u, exec (.bar2Access (.write o d false)) s = .next u ∧ Stored (a o) d s u ∧ { u with mem := s.mem } = { s with bar2 := s.bar2 ++ [some ([], false)] }) ∧
      (∀ o n d p, bar2Open s = false → (o + n ≤ s.bar2Size → exec (.bar2Access (.read o n)) s = .next { s with bar2 := s.bar2 ++ [none] }) ∧
        (o + d.length ≤ s.bar2Size → exec (.bar2Access (.write o d p)) s = .next { s with bar2 := s.bar2 ++ [none] })) ∧
      (∀ o n, bar2Open s = true → o + n ≤ s.bar2Size → mapped (a o) n s = false → exec (.bar2Access (.read o n)) s = .next { s with bar2 := s.bar2 ++ [none] })) ∧
  (∀ s : State,
      (∀ k, exec (.bar2Access (.resize k)) s = .next { s with bar2Size := if s.boot.pcie then 64 * 2 ^ k.val * 2 ^ 30 else s.bar2Size }) ∧
      (∀ b, exec (.bar2Access (.busMaster b)) s = .next { s with boot := { s.boot with masterOff := if s.boot.pcie then !b else s.boot.masterOff } }) ∧
      (∀ b, s.phys.trip = true ∨ b = false → exec (.bar2Access (.perst b)) s = .next { s with phys := { s.phys with perst := b } }) ∧
      (s.phys.trip = false → ∃ u, exec (.bar2Access (.perst true)) s = .next u ∧ u.mem = [] ∧ u.tiles = [] ∧ FieldsLost s.phys.leak u ∧ u.pending = s.pending
        ∧ u.phys = { s.phys with perst := true, sampled := [] }) ∧
      (∀ x8 r, exec (.bar2Access (.link x8 r)) s = .next { s with boot := { s.boot with x8 := x8, rate := r.val } }) ∧
      (∀ r, exec (.bar2Access (.config r)) s = .next { s with bar2 := s.bar2 ++ [if s.boot.pcie then some (leBytes (match r with
        | .ident => 0x00091F74
        | .cls => 0x120000B0
        | .linkStatus => s.boot.rate + 1 + 16 * (if s.boot.x8 then 8 else 16)) 4, false) else none] }))

/-- RUN, ATTN and OPTSTEP put their program on each tile and start every rank with its number and argument; an OPTSTEP first decides on the summary words, writes its gate word, and completes without running where the decision says so. An OPTSTEP while replay_pending is set completes with held, and one on a siding ring is refused. RELEASE frees the tiles of a command of its own ring's class that stopped on an exception. That replay_pending is looked at before the summaries, the list and the program are read is log entry 27, that RELEASE leaves the cores idle is log entry 30, and the rule of its class is log entry 78. -/
def Obligations.RunsDispatched : Prop :=
  ∀ (q : CmdSel) (c : Cmd) (s : State), Calm s → PlainMem s → smTracing (c.ring % 4) s = false →
    let go := fun (rr : RunReads) (ts : List Nat) => runFieldsOk c = true ∧ runReads c s = (.inr rr, s) ∧ runResources c rr.list s = some ts ∧ c.schedAddr = 0
      ∧ ts.length = c.nRanks ∧ ts.Nodup ∧ ∀ t ∈ ts, t < 168 ∧ rd PWR_TILE_state t s = 0
    let runs := fun (rr : RunReads) (ts : List Nat) (u : State) =>
      let tl := fun (r : Nat) => ts.getD ((r + rd ITG_CONTROL_rank_shift 0 s) % c.nRanks) 0
      (∃ x ∈ u.host.cmds, x.id = c.id ∧ x.phase = 1 ∧ x.ranks.map (·.tile) = (List.range c.nRanks).map tl)
      ∧ ∀ r, r < c.nRanks → coreState (tl r) u = 1 ∧ nextIx (tl r) u = c.start ∧ rd TIL_CS_CMDARG_val (tl r) u = (c.argBase + r * c.argStride) % 2 ^ 48
        ∧ rd TIL_CS_TILE_ID_rank (tl r) u = r ∧ cells (winAddr (tl r) 0x200000) rr.prog.length u = rr.prog
    (∀ rr ts, frontCmd q 1 s = some c → go rr ts → ∃ u, exec (.run q) s = .next u ∧ runs rr ts u) ∧
    (frontCmd q 1 s = some c → CanEnd c s → runFieldsOk c = false → ∃ u, exec (.run q) s = .next u ∧ Completes c 1 0 s u ∧ u.mem = s.mem) ∧
    (∀ rr ts d, frontCmd q 5 s = some c → go rr ts → c.fld 0x58 0 48 % 64 = 0 → smRead (c.fld 0x58 0 48) 64 s = (0, d, s) → attnLegal d = true →
      ∃ u, exec (.attn q) s = .next u ∧ runs rr ts u) ∧
    (∀ rr ts d ws, frontCmd q 6 s = some c → sidingRing c.ring s = false →
      let n := c.fld 0x68 0 6 + 1
      let as := (List.range n).map fun i => recNat d (8 * i) 8 % 2 ^ 48
      let dec := gateDecide ws
      go rr ts → on ITG_STATUS_replay_pending 0 s = false → smRead (c.fld 0x58 0 48) (8 * n) s = (0, d, s) → (∀ a ∈ as, summaryPending c a s = false) → readWords as s = (.inr ws, s) →
      (dec.1 = 0 → dec.2 ≠ 0 → mapped c.argBase 8 s = true → anyDown c.argBase 8 s = false → whereOf c.argBase s = .gddr →
        ∃ u, exec (.optstep q) s = .next u ∧ runs rr ts u ∧ cells c.argBase 8 u = leBytes dec.2 8) ∧
      (dec.1 ≠ 0 ∨ dec.2 = 0 → CanEnd c s → ∃ u, exec (.optstep q) s = .next u ∧ Completes c dec.1 0 s u ∧ u.mem = s.mem)) ∧
    (frontCmd q 6 s = some c → CanEnd c s → runFieldsOk c = true → sidingRing c.ring s = false → on ITG_STATUS_replay_pending 0 s = true →
      ∃ u, exec (.optstep q) s = .next u ∧ Completes c 6 0 s u ∧ u.mem = s.mem) ∧
    (frontCmd q 6 s = some c → CanEnd c s → sidingRing c.ring s = true → ∃ u, exec (.optstep q) s = .next u ∧ Completes c 1 0 s u ∧ u.mem = s.mem) ∧
    (frontCmd q 9 s = some c → CanEnd c s → c.reservedOk = true →
      let held := s.host.cmds.filter fun x => x.phase == 3 && x.name == c.fld 0x18 0 64 && bit x.id 65 == bit c.id 65 && sidingRing x.ring s == sidingRing c.ring s
      (held = [] → ∃ u, exec (.release q) s = .next u ∧ Completes c 1 0 s u ∧ u.mem = s.mem) ∧
      (held ≠ [] → ∃ u, exec (.release q) s = .next u ∧ Completes c 0 0 s u ∧ u.mem = s.mem ∧ (∀ x ∈ held, x ∉ u.host.cmds)
        ∧ ∀ x ∈ held, ∀ r ∈ x.ranks, r.tile < 168 → lent r.tile s = false → coreState r.tile u = 0))

/-- SHUNT starts its chain on a free channel; MGT gives its orders to this module's arbiter, or sends them to another module, with the coordinate of the module whose command it is; a list with an order its ring's class may not give is refused, and a command to which no reply comes completes with a timeout; MANAGEMENT_ORDER applies an order its master may give, refuses one it may not, and answers the list. That a barred list ends with status 1 is log entry 78; that a master which may not read is shown 0 is log entry 51. -/
def Obligations.ShuntAndManagementCommands : Prop :=
  (∀ (q : CmdSel) (c : Cmd) (s : State), Calm s → smTracing (c.ring % 4) s = false →
    let ch := c.fld 0x20 0 7
    (frontCmd q 7 s = some c → oneDescOk c 1 = true → (heldChans s).testBit ch = false → chState ch s = 0 → islState (.shunt (if ch < 64 then 0 else 1)) s = 0 →
      ∃ u, exec (.shunt q) s = .next u ∧ chState ch u = 1 ∧ rd SHN_CH_CUR_cur ch u = c.a18 ∧ (shunt ch u).cmd = some c.id ∧ (shunt ch u).siding = sidingRing c.ring s
        ∧ (∃ x ∈ u.host.cmds, x.id = c.id ∧ x.phase = 1) ∧ u.mem = s.mem ∧ u.tiles = s.tiles) ∧
    (∀ d, frontCmd q 8 s = some c → oneDescOk c 1 = true →
      let n := c.fld 0x20 0 4 + 1
      let dst := c.fld 0x20 5 18
      n ≤ 10 → smRead c.a18 (24 * n) s = (0, d, s) →
      ((∃ o ∈ ordersOf n d, orderBarred (sidingRing c.ring s) (dst == ownCoord s) o s = true) → CanEnd c s → ∃ u, exec (.mgt q) s = .next u ∧ Completes c 1 0 s u ∧ u.mem = s.mem) ∧
      ((∀ o ∈ ordersOf n d, orderBarred (sidingRing c.ring s) (dst == ownCoord s) o s = false) → (dst = ownCoord s → ∃ u m, exec (.mgt q) s = .next u ∧ u.host.arb = s.host.arb ++ [m] ∧ m.master = 1 ∧ m.orders = ordersOf n d ∧ m.cmd = some c.id
        ∧ m.atomic = (c.fld 0x20 4 1 == 1) ∧ (∃ x ∈ u.host.cmds, x.id = c.id ∧ x.phase = 1) ∧ u.mem = s.mem ∧ u.tiles = s.tiles)) ∧
      (∀ k, (∀ o ∈ ordersOf n d, orderBarred (sidingRing c.ring s) (dst == ownCoord s) o s = false) → dst ≠ ownCoord s → freeTag s = some k →
        ∃ u r, exec (.mgt q) s = .next u ∧ u.injq = s.injq ++ [r] ∧ r.pkt.typ = 0x50 ∧ r.pkt.vc = 4 ∧ r.pkt.dst = dst ∧ r.pkt.src = cmdCoord c s ∧ r.pkt.tag = k
          ∧ r.pkt.payload.drop 8 = d ∧ recNat r.pkt.payload 0 1 % 16 = n - 1 ∧ Map.get (fun _ => none) u.tags k = some { who := .mgt c.id, at_ := s.cycle } ∧ u.mem = s.mem ∧ u.tiles = s.tiles))) ∧
  (∀ (k : BitVec 12) (id t0 : Nat) (c : Cmd) (s : State), Calm s → Map.get (fun _ => none) s.tags k.toNat = some { who := .mgt id, at_ := t0 } → cmdOf id s = some c → CanEnd c s →
    ∃ u, exec (.mgtTimeout k) s = .next u ∧ Completes c 4 0 s u ∧ Map.get (fun _ => none) u.tags k.toNat = some { who := .mgt id, at_ := t0, abandoned := true } ∧ u.mem = s.mem) ∧
  (∀ (ms : BitVec 4) (l : MList) (o : MOrder) (r : Reg) (i j : Nat) (s : State), Calm s → s.host.arb = [l] → s.host.hold = none → l.master < 4 → ms.getLsbD l.master = true →
      l.orders = [o] → l.results = [] → l.cmd = none → o.read = false → findReg o.reg = some (r, i, j) → plainReg r = true → r ≠ RTR_INJ → r ≠ RTR_ECHO_SENT →
    let w := regWriteM o.reg o.value o.mask s
    (mayOrder l.master o = true → ∃ u p, exec (.managementOrder ms) s = .next u ∧ u.host.arb = [] ∧ (∀ f ∈ r.flds, rd f (r.ix i j) u = rd f (r.ix i j) w)
      ∧ u.injq = s.injq ++ [p] ∧ p.pkt.typ = 0x83 ∧ p.pkt.dst = l.src ∧ p.pkt.tag = l.tag ∧ p.pkt.payload = ackPayload { l with orders := [], results := [(0, readReg o.reg w)] }
      ∧ u.mem = s.mem ∧ u.tiles = s.tiles) ∧
    (mayOrder l.master o = false → ∃ u p v, exec (.managementOrder ms) s = .next u ∧ u.host.arb = [] ∧ u.injq = s.injq ++ [p] ∧ p.pkt.typ = 0x83 ∧ p.pkt.dst = l.src
      ∧ p.pkt.tag = l.tag ∧ p.pkt.payload = ackPayload { l with orders := [], results := [(2, v)] } ∧ (l.master = 3 → v = 0)
      ∧ (∀ f ∈ r.flds, r.blk ≠ .DBG → r.blk ≠ .MSX → rd f (r.ix i j) u = rd f (r.ix i j) s) ∧ u.mem = s.mem ∧ u.tiles = s.tiles))

/-- ATTACH_UPDATE verifies the new image and holds it for writing, or completes with status 1, whatever fails; ATTACH_UPDATE_WRITE_DONE leaves it in the attachment, and where the digest of what reads back is that of the image, fuses the owner key it enrols and completes; else the attachment holds what was read back and the command completes with status 3 (log entries 10 and 44). ATTACH_ATTEST writes the quote over the host's nonce. -/
def Obligations.AttachmentCommands : Prop :=
  (∀ (k : RingN) (c : Cmd) (d : List Byte) (s : State), Calm s → CanEnd c s → attachOk c s = true →
    (frontAttach k.val 0 s = some c → c.fld 0x28 0 32 ≤ imLen → smRead (c.fld 0x20 0 48) (c.fld 0x28 0 32) s = (0, d, s) →
      let enrol := bit (recNat c.entry 0x18 8) 2
      let bad := (enrol = true ∧ s.boot.fuses.owner.isSome = true) ∨ verifyImage d enrol s ≠ 0
      ∃ u, exec (.attachUpdate k) s = .next u ∧ u.mem = s.mem ∧ (bad → Completes c 1 0 s u ∧ u.boot = s.boot ∧ rd BTC_STATUS_event 0 u = 1)
        ∧ (¬ bad → u.boot = { s.boot with attach := some (c.id, d, enrol) } ∧ (∃ x ∈ u.host.cmds, x.id = c.id ∧ x.phase = 1) ∧ u.hostOut = s.hostOut)) ∧
    (∀ e, frontAttach k.val 0 s = some c → c.fld 0x28 0 32 ≤ imLen → smRead (c.fld 0x20 0 48) (c.fld 0x28 0 32) s = (e, d, s) → e ≠ 0 →
      ∃ u, exec (.attachUpdate k) s = .next u ∧ u.mem = s.mem ∧ Completes c 1 0 s u ∧ u.boot = s.boot ∧ rd BTC_STATUS_event 0 u = 1) ∧
    (frontAttach k.val 1 s = some c → PlainMem s → c.fld 0x30 0 48 % 64 = 0 → smRead (c.fld 0x20 0 48) 32 s = (0, d, s) → mapped (c.fld 0x30 0 48) 512 s = true →
        anyDown (c.fld 0x30 0 48) 512 s = false →
      ∃ u, exec (.attachAttest k) s = .next u ∧ Completes c 0 0 s u ∧ Stored (c.fld 0x30 0 48) (quote d s) s u ∧ (quote d s).length ≤ 512 ∧ ((quote d s).drop 24).take 32 = d.take 32
        ∧ rd BTC_STATUS_event 0 u = 1)) ∧
  (∀ (id : Nat) (d : List Byte) (enrol : Bool) (c : Cmd) (back : Option (List Byte)) (s : State), Calm s → s.boot.attach = some (id, d, enrol) → cmdOf id s = some c → CanEnd c s → c.phase = 1 → c.op = 10 →
    let b := back.getD d
    (shake256 b 64 = shake256 d 64 → ∃ u, exec (.attachUpdateWriteDone back) s = .next u ∧ Completes c 0 0 s u ∧ u.boot.flash = b ∧ u.boot.attach = none
      ∧ rd BTC_STATUS_update_pending 0 u = 1
      ∧ u.boot.fuses = (if enrol then { s.boot.fuses with owner := some (shake256 (imPart d 0x100 57) 32) } else s.boot.fuses) ∧ u.mem = s.mem) ∧
    (shake256 b 64 ≠ shake256 d 64 → ∃ u, exec (.attachUpdateWriteDone back) s = .next u ∧ Completes c 3 0 s u ∧ u.boot = { s.boot with attach := none, flash := b } ∧ u.mem = s.mem)) ∧
  (∀ (back : Option (List Byte)) (s : State), Calm s → s.boot.attach = none → exec (.attachUpdateWriteDone back) s = .next s)
end

