-- ==== Sys2Proof/Laws/Bytes.lean ====
section
/-! SUPPORT. How many bytes the byte-producing operations give. -/

namespace Sys2Proof.Laws
open Sys2Proof Sys2Proof.Machine

theorem leBytes_length (v n : Nat) : (leBytes v n).length = n := by
  induction n generalizing v with
  | zero => rfl
  | succ n ih => simp [leBytes, ih]

theorem length_flatMap_const {α β : Type} (l : List α) (f : α → List β) (k : Nat) (h : ∀ a, (f a).length = k) : (l.flatMap f).length = k * l.length := by
  induction l with
  | nil => rfl
  | cons a l ih => simp [List.flatMap_cons, h, ih, Nat.mul_add, Nat.add_comm]

theorem wordBytes_length (l : LaneRow) (set : Nat) : (wordBytes l set).length = 147456 := by
  unfold wordBytes; rw [length_flatMap_const _ _ 72 (fun _ => leBytes_length _ _), List.length_range]

theorem tagBytes_length (l : LaneRow) (set : Nat) : (tagBytes l set).length = 2048 := by
  simp [tagBytes]

theorem floorBytes_length (l : LaneRow) (set : Nat) : (floorBytes l set).length = 16 := by
  unfold floorBytes; rw [length_flatMap_const _ _ 2 (fun _ => leBytes_length _ _), List.length_range]

end Sys2Proof.Laws
end

