-- ==== Sys2Proof/Laws/Map.lean ====
section
/-! SUPPORT. Sparse tables: reading after a write, the canonical form kept by every operation, and equality of tables that read alike. -/

namespace Sys2Proof.Laws
open Sys2Proof Sys2Proof.Machine

variable {V : Type} (d : Nat → V)

/-! ### The canonical form -/

theorem map_wfFrom_mono [DecidableEq V] {lo lo' : Nat} {m : Map V} (hl : lo' ≤ lo) (h : Map.wfFrom d lo m = true) : Map.wfFrom d lo' m = true := by
  cases m with
  | nil => rfl
  | cons e m =>
    simp only [Map.wfFrom, Bool.and_eq_true, decide_eq_true_eq] at h ⊢
    exact ⟨⟨by omega, h.1.2⟩, h.2⟩

/-- A key below every key of a table in canonical form is not listed. -/
theorem map_get_below [DecidableEq V] {lo k : Nat} {m : Map V} (h : Map.wfFrom d lo m = true) (hk : k < lo) : Map.get d m k = d k := by
  cases m with
  | nil => rfl
  | cons e m =>
    simp only [Map.wfFrom, Bool.and_eq_true, decide_eq_true_eq] at h
    have h1 := h.1.1
    rw [Map.get, if_neg (by omega), if_pos (by omega)]

theorem map_set_wfFrom [DecidableEq V] {lo : Nat} {m : Map V} (k : Nat) (v : V) (h : Map.wfFrom d lo m = true) (hk : lo ≤ k) :
    Map.wfFrom d lo (Map.set d m k v) = true := by
  induction m generalizing lo with
  | nil =>
    simp only [Map.set]
    split
    · rfl
    · simp_all [Map.wfFrom]
  | cons e m ih =>
    obtain ⟨a, w⟩ := e
    simp only [Map.wfFrom, Bool.and_eq_true, decide_eq_true_eq] at h
    obtain ⟨⟨h1, h2⟩, h3⟩ := h
    simp only [Map.set]
    split_ifs with c1 c2 c3 c4
    · exact map_wfFrom_mono d (by omega) h3
    · subst c1; simp_all [Map.wfFrom]
    · simp_all [Map.wfFrom]
    · simp only [Map.wfFrom, Bool.and_eq_true, decide_eq_true_eq]
      exact ⟨⟨hk, c4⟩, ⟨by omega, h2⟩, h3⟩
    · simp only [Map.wfFrom, Bool.and_eq_true, decide_eq_true_eq]
      exact ⟨⟨h1, h2⟩, ih h3 (by omega)⟩

/-- A write keeps the canonical form. -/
theorem map_set_wf [DecidableEq V] {m : Map V} (k : Nat) (v : V) (h : Map.wf d m = true) : Map.wf d (Map.set d m k v) = true :=
  map_set_wfFrom d k v h (Nat.zero_le k)

/-- Removing entries keeps the canonical form. -/
theorem map_filter_wfFrom [DecidableEq V] {lo : Nat} {m : Map V} (p : Nat × V → Bool) (h : Map.wfFrom d lo m = true) : Map.wfFrom d lo (m.filter p) = true := by
  induction m generalizing lo with
  | nil => rfl
  | cons e m ih =>
    obtain ⟨a, w⟩ := e
    simp only [Map.wfFrom, Bool.and_eq_true, decide_eq_true_eq] at h
    rw [List.filter_cons]
    split
    · simp only [Map.wfFrom, Bool.and_eq_true, decide_eq_true_eq]
      exact ⟨h.1, ih h.2⟩
    · exact map_wfFrom_mono d (by omega) (ih h.2)

theorem map_drop_wf [DecidableEq V] {m : Map V} (p : Nat → Bool) (h : Map.wf d m = true) : Map.wf d (Map.drop p m) = true :=
  map_filter_wfFrom d _ h

theorem map_setList_wf [DecidableEq V] {m : Map V} (k : Nat) (l : List V) (h : Map.wf d m = true) : Map.wf d (Map.setList d m k l) = true := by
  induction l generalizing m k with
  | nil => exact h
  | cons v l ih => exact ih (k + 1) (map_set_wf d k v h)

/-- A fold of writes keeps the canonical form. -/
theorem map_foldl_set_wf [DecidableEq V] {α : Type} (l : List α) (f : Map V → α → Nat) (g : Map V → α → V) {m : Map V} (h : Map.wf d m = true) :
    Map.wf d (l.foldl (fun m x => Map.set d m (f m x) (g m x)) m) = true := by
  induction l generalizing m with
  | nil => exact h
  | cons x l ih => exact ih (map_set_wf d _ _ h)

/-! ### Reading -/

theorem map_get_set_from [DecidableEq V] {lo : Nat} {m : Map V} (k k' : Nat) (v : V) (h : Map.wfFrom d lo m = true) :
    Map.get d (Map.set d m k v) k' = if k' = k then v else Map.get d m k' := by
  induction m generalizing lo with
  | nil =>
    simp only [Map.set]
    by_cases hv : v = d k
    · rw [if_pos hv]; by_cases hk : k' = k
      · rw [if_pos hk, hk, hv]; rfl
      · rw [if_neg hk]
    · rw [if_neg hv]; simp only [Map.get]; by_cases hk : k' = k <;> simp [hk]
  | cons e m ih =>
    obtain ⟨a, w⟩ := e
    simp only [Map.wfFrom, Bool.and_eq_true, decide_eq_true_eq] at h
    obtain ⟨⟨h1, h2⟩, h3⟩ := h
    have hb : ∀ x, x < a + 1 → Map.get d m x = d x := fun x hx => map_get_below d h3 hx
    by_cases ck : k = a
    · subst ck
      by_cases cv : v = d k
      · rw [show Map.set d ((k, w) :: m) k v = m by simp [Map.set, cv]]
        by_cases c' : k' = k
        · rw [if_pos c', c', hb _ (by omega), cv]
        · rw [if_neg c', Map.get, if_neg c']
          split
          · exact hb _ (by omega)
          · rfl
      · rw [show Map.set d ((k, w) :: m) k v = (k, v) :: m by simp [Map.set, cv]]
        by_cases c' : k' = k
        · simp [Map.get, c']
        · simp [Map.get, c']
    · by_cases cl : k < a
      · by_cases cv : v = d k
        · rw [show Map.set d ((a, w) :: m) k v = (a, w) :: m by simp [Map.set, ck, cl, cv]]
          by_cases c' : k' = k
          · rw [if_pos c', c', Map.get, if_neg ck, if_pos cl, cv]
          · rw [if_neg c']
        · rw [show Map.set d ((a, w) :: m) k v = (k, v) :: (a, w) :: m by simp [Map.set, ck, cl, cv]]
          by_cases c' : k' = k
          · simp [Map.get, c']
          · rw [if_neg c', Map.get, if_neg c']
            split
            · rw [Map.get, if_neg (by omega), if_pos (by omega)]
            · rfl
      · rw [show Map.set d ((a, w) :: m) k v = (a, w) :: Map.set d m k v by simp [Map.set, ck, cl]]
        simp only [Map.get]
        rw [ih h3]
        by_cases c' : k' = k
        · subst c'; simp [ck, cl]
        · simp [c']

/-- Reading after a write: the key written reads as the value, every other key as before. -/
theorem map_get_set [DecidableEq V] {m : Map V} (h : Map.wf d m = true) (k k' : Nat) (v : V) :
    Map.get d (Map.set d m k v) k' = if k' = k then v else Map.get d m k' :=
  map_get_set_from d k k' v h

theorem map_get_set_self [DecidableEq V] {m : Map V} (h : Map.wf d m = true) (k : Nat) (v : V) : Map.get d (Map.set d m k v) k = v := by
  rw [map_get_set d h, if_pos rfl]

theorem map_get_set_ne [DecidableEq V] {m : Map V} (h : Map.wf d m = true) {k k' : Nat} (hk : k' ≠ k) (v : V) :
    Map.get d (Map.set d m k v) k' = Map.get d m k' := by
  rw [map_get_set d h, if_neg hk]

/-- Reading after a run of values is written. -/
theorem map_get_setList [DecidableEq V] {m : Map V} (h : Map.wf d m = true) (k : Nat) (l : List V) (x : Nat) (e : V) :
    Map.get d (Map.setList d m k l) x = if k ≤ x ∧ x < k + l.length then l.getD (x - k) e else Map.get d m x := by
  induction l generalizing m k with
  | nil => rw [Map.setList, if_neg (by simp)]
  | cons v l ih =>
    rw [Map.setList, ih (map_set_wf d k v h), map_get_set d h]
    by_cases c : x = k
    · subst c; simp
    · by_cases c1 : k + 1 ≤ x ∧ x < k + 1 + l.length
      · rw [if_pos c1, if_pos (by simp; omega), show x - k = (x - (k + 1)) + 1 by omega, List.getD_cons_succ]
      · rw [if_neg c1, if_neg c, if_neg (by simp; omega)]

@[simp] theorem map_getList_length {m : Map V} (k n : Nat) : (Map.getList d m k n).length = n := by
  induction n generalizing k with
  | zero => rfl
  | succ n ih => simp [Map.getList, ih]

theorem map_getList_getD {m : Map V} (k n i : Nat) (e : V) (h : i < n) : (Map.getList d m k n).getD i e = Map.get d m (k + i) := by
  induction n generalizing k i with
  | zero => omega
  | succ n ih =>
    cases i with
    | zero => rfl
    | succ i => rw [Map.getList, List.getD_cons_succ, ih (k + 1) i (by omega)]; congr 1; omega

/-- Two runs of keys that read alike give the same list. -/
theorem map_getList_congr {m m' : Map V} (k n : Nat) (h : ∀ x, k ≤ x → x < k + n → Map.get d m x = Map.get d m' x) : Map.getList d m k n = Map.getList d m' k n := by
  induction n generalizing k with
  | zero => rfl
  | succ n ih => rw [Map.getList, Map.getList, h k (by omega) (by omega), ih (k + 1) (fun x h1 h2 => h x (by omega) (by omega))]

/-! ### Equality -/

theorem map_ext_from [DecidableEq V] {lo : Nat} {m m' : Map V} (h : Map.wfFrom d lo m = true) (h' : Map.wfFrom d lo m' = true)
    (he : ∀ k, Map.get d m k = Map.get d m' k) : m = m' := by
  induction m generalizing lo m' with
  | nil =>
    cases m' with
    | nil => rfl
    | cons e m' =>
      obtain ⟨a, w⟩ := e
      simp only [Map.wfFrom, Bool.and_eq_true, decide_eq_true_eq] at h'
      have := he a
      simp [Map.get] at this
      exact absurd this.symm h'.1.2
  | cons e m ih =>
    obtain ⟨a, w⟩ := e
    simp only [Map.wfFrom, Bool.and_eq_true, decide_eq_true_eq] at h
    cases m' with
    | nil =>
      have := he a
      simp [Map.get] at this
      exact absurd this h.1.2
    | cons e' m' =>
      obtain ⟨b, x⟩ := e'
      simp only [Map.wfFrom, Bool.and_eq_true, decide_eq_true_eq] at h'
      have hab : a = b := by
        rcases Nat.lt_trichotomy a b with c | c | c
        · have := he a
          simp [Map.get, Nat.ne_of_lt c, c] at this
          exact absurd this h.1.2
        · exact c
        · have := he b
          simp [Map.get, Nat.ne_of_lt c, c] at this
          exact absurd this.symm h'.1.2
      subst hab
      have hw : w = x := by simpa [Map.get] using he a
      subst hw
      rw [ih h.2 h'.2]
      intro k
      by_cases c : k < a + 1
      · rw [map_get_below d h.2 c, map_get_below d h'.2 c]
      · have := he k
        simpa [Map.get, show k ≠ a by omega, show ¬ k < a by omega] using this

/-- Tables in canonical form that read alike are equal data. -/
theorem map_ext [DecidableEq V] {m m' : Map V} (h : Map.wf d m = true) (h' : Map.wf d m' = true) (he : ∀ k, Map.get d m k = Map.get d m' k) : m = m' :=
  map_ext_from d h h' he

/-- Writing what a key reads as changes nothing. -/
theorem map_set_same [DecidableEq V] {m : Map V} (h : Map.wf d m = true) (k : Nat) : Map.set d m k (Map.get d m k) = m := by
  refine map_ext d (map_set_wf d _ _ h) h fun x => ?_
  rw [map_get_set d h]
  split
  · subst_vars; rfl
  · rfl

end Sys2Proof.Laws
end

