-- ==== Sys2Proof/Laws/Core.lean ====
section
/-! SUPPORT. The register files of a core (R108): a register read after a register is written, and the canonical form kept. -/

namespace Sys2Proof.Laws
open Sys2Proof Sys2Proof.Machine

theorem coreWf_parts {c : Core} (h : coreWf c = true) : Map.wf z64 c.s = true ∧ Map.wf z64 c.a = true ∧ Map.wf (fun _ => 0#2048) c.v = true
    ∧ Map.wf z64 c.p = true ∧ Map.wf zw c.w = true ∧ Map.wf zb c.wtag = true ∧ Map.wf (fun _ => ({} : RowSt)) c.wst = true := by
  simp only [coreWf, Bool.and_eq_true] at h
  exact ⟨h.1.1.1.1.1.1, h.1.1.1.1.1.2, h.1.1.1.1.2, h.1.1.1.2, h.1.1.2, h.1.2, h.2⟩

theorem coreWf_of {c : Core} (h : Map.wf z64 c.s = true ∧ Map.wf z64 c.a = true ∧ Map.wf (fun _ => 0#2048) c.v = true
    ∧ Map.wf z64 c.p = true ∧ Map.wf zw c.w = true ∧ Map.wf zb c.wtag = true ∧ Map.wf (fun _ => ({} : RowSt)) c.wst = true) : coreWf c = true := by
  simp only [coreWf, Bool.and_eq_true]
  exact ⟨⟨⟨⟨⟨⟨h.1, h.2.1⟩, h.2.2.1⟩, h.2.2.2.1⟩, h.2.2.2.2.1⟩, h.2.2.2.2.2.1⟩, h.2.2.2.2.2.2⟩

theorem default_coreWf : coreWf ({} : Core) = true := rfl

/-! ### A register read after a register is written -/

/-- s0 reads as 0 and discards writes. -/
theorem sg_setS {c : Core} (h : coreWf c = true) (i j : BitVec 5) (v : U64) :
    (c.setS i v).sg j = if j = 0#5 then 0#64 else if j = i then v else c.sg j := by
  unfold Core.sg Core.setS
  by_cases hj : j = 0#5
  · simp [hj]
  · rw [if_neg hj, if_neg hj]
    by_cases hi : i = 0#5
    · subst hi; rw [if_pos rfl, if_neg hj]; simp [hj]
    · rw [if_neg hi]
      simp only
      rw [map_get_set _ (coreWf_parts h).1]
      simp [hj, BitVec.toNat_inj]

theorem ag_setA {c : Core} (h : coreWf c = true) (i j : BitVec 4) (v : U64) : (c.setA i v).ag j = if j = i then v else c.ag j := by
  unfold Core.ag Core.setA
  simp only
  rw [map_get_set _ (coreWf_parts h).2.1]
  simp [BitVec.toNat_inj]

/-- p0 reads as all ones and discards writes. -/
theorem pr_setP {c : Core} (h : coreWf c = true) (i j : BitVec 3) (v : U64) :
    (c.setP i v).pr j = if j = 0#3 then BitVec.allOnes 64 else if j = i then v else c.pr j := by
  unfold Core.pr Core.setP
  by_cases hj : j = 0#3
  · simp [hj]
  · rw [if_neg hj, if_neg hj]
    by_cases hi : i = 0#3
    · subst hi; rw [if_pos rfl, if_neg hj]; simp [hj]
    · rw [if_neg hi]
      simp only
      rw [map_get_set _ (coreWf_parts h).2.2.2.1]
      simp [hj, BitVec.toNat_inj]

theorem vg_setV {c : Core} (h : coreWf c = true) (i j : BitVec 5) (v : BitVec 2048) : (c.setV i v).vg j = if j = i then v else c.vg j := by
  unfold Core.vg Core.setV
  simp only
  rw [map_get_set _ (coreWf_parts h).2.2.1]
  simp [BitVec.toNat_inj]

theorem rowSt_setRowSt {c : Core} (h : coreWf c = true) (w u : Nat) (r : RowSt) : (c.setRowSt w r).rowSt u = if u = w then r else c.rowSt u :=
  map_get_set _ (coreWf_parts h).2.2.2.2.2.2 w u r

/-! ### The other files are untouched -/

@[simp] theorem ag_setS (c : Core) (i : BitVec 5) (v : U64) (j : BitVec 4) : (c.setS i v).ag j = c.ag j := by unfold Core.setS; split <;> rfl
@[simp] theorem pr_setS (c : Core) (i : BitVec 5) (v : U64) (j : BitVec 3) : (c.setS i v).pr j = c.pr j := by unfold Core.setS; split <;> rfl
@[simp] theorem vg_setS (c : Core) (i : BitVec 5) (v : U64) (j : BitVec 5) : (c.setS i v).vg j = c.vg j := by unfold Core.setS; split <;> rfl
@[simp] theorem rowSt_setS (c : Core) (i : BitVec 5) (v : U64) (w : Nat) : (c.setS i v).rowSt w = c.rowSt w := by unfold Core.setS; split <;> rfl
@[simp] theorem rowW_setS (c : Core) (i : BitVec 5) (v : U64) (w j : Nat) : (c.setS i v).rowW w j = c.rowW w j := by unfold Core.setS; split <;> rfl
@[simp] theorem rowT_setS (c : Core) (i : BitVec 5) (v : U64) (w j : Nat) : (c.setS i v).rowT w j = c.rowT w j := by unfold Core.setS; split <;> rfl
@[simp] theorem outst_setS (c : Core) (i : BitVec 5) (v : U64) : (c.setS i v).outst = c.outst := by unfold Core.setS; split <;> rfl
@[simp] theorem loops_setS (c : Core) (i : BitVec 5) (v : U64) : (c.setS i v).loops = c.loops := by unfold Core.setS; split <;> rfl
@[simp] theorem hold_setS (c : Core) (i : BitVec 5) (v : U64) : (c.setS i v).hold = c.hold := by unfold Core.setS; split <;> rfl
@[simp] theorem stepping_setS (c : Core) (i : BitVec 5) (v : U64) : (c.setS i v).stepping = c.stepping := by unfold Core.setS; split <;> rfl

@[simp] theorem sg_setA (c : Core) (i : BitVec 4) (v : U64) (j : BitVec 5) : (c.setA i v).sg j = c.sg j := rfl
@[simp] theorem pr_setA (c : Core) (i : BitVec 4) (v : U64) (j : BitVec 3) : (c.setA i v).pr j = c.pr j := rfl
@[simp] theorem vg_setA (c : Core) (i : BitVec 4) (v : U64) (j : BitVec 5) : (c.setA i v).vg j = c.vg j := rfl
@[simp] theorem rowSt_setA (c : Core) (i : BitVec 4) (v : U64) (w : Nat) : (c.setA i v).rowSt w = c.rowSt w := rfl
@[simp] theorem rowW_setA (c : Core) (i : BitVec 4) (v : U64) (w j : Nat) : (c.setA i v).rowW w j = c.rowW w j := rfl
@[simp] theorem rowT_setA (c : Core) (i : BitVec 4) (v : U64) (w j : Nat) : (c.setA i v).rowT w j = c.rowT w j := rfl

@[simp] theorem sg_setP (c : Core) (i : BitVec 3) (v : U64) (j : BitVec 5) : (c.setP i v).sg j = c.sg j := by unfold Core.setP; split <;> rfl
@[simp] theorem ag_setP (c : Core) (i : BitVec 3) (v : U64) (j : BitVec 4) : (c.setP i v).ag j = c.ag j := by unfold Core.setP; split <;> rfl
@[simp] theorem vg_setP (c : Core) (i : BitVec 3) (v : U64) (j : BitVec 5) : (c.setP i v).vg j = c.vg j := by unfold Core.setP; split <;> rfl
@[simp] theorem rowSt_setP (c : Core) (i : BitVec 3) (v : U64) (w : Nat) : (c.setP i v).rowSt w = c.rowSt w := by unfold Core.setP; split <;> rfl
@[simp] theorem rowW_setP (c : Core) (i : BitVec 3) (v : U64) (w j : Nat) : (c.setP i v).rowW w j = c.rowW w j := by unfold Core.setP; split <;> rfl
@[simp] theorem rowT_setP (c : Core) (i : BitVec 3) (v : U64) (w j : Nat) : (c.setP i v).rowT w j = c.rowT w j := by unfold Core.setP; split <;> rfl
@[simp] theorem outst_setP (c : Core) (i : BitVec 3) (v : U64) : (c.setP i v).outst = c.outst := by unfold Core.setP; split <;> rfl
@[simp] theorem loops_setP (c : Core) (i : BitVec 3) (v : U64) : (c.setP i v).loops = c.loops := by unfold Core.setP; split <;> rfl
@[simp] theorem stepping_setP (c : Core) (i : BitVec 3) (v : U64) : (c.setP i v).stepping = c.stepping := by unfold Core.setP; split <;> rfl

@[simp] theorem sg_setV (c : Core) (i : BitVec 5) (v : BitVec 2048) (j : BitVec 5) : (c.setV i v).sg j = c.sg j := rfl
@[simp] theorem ag_setV (c : Core) (i : BitVec 5) (v : BitVec 2048) (j : BitVec 4) : (c.setV i v).ag j = c.ag j := rfl
@[simp] theorem pr_setV (c : Core) (i : BitVec 5) (v : BitVec 2048) (j : BitVec 3) : (c.setV i v).pr j = c.pr j := rfl
@[simp] theorem rowSt_setV (c : Core) (i : BitVec 5) (v : BitVec 2048) (w : Nat) : (c.setV i v).rowSt w = c.rowSt w := rfl
@[simp] theorem rowW_setV (c : Core) (i : BitVec 5) (v : BitVec 2048) (w j : Nat) : (c.setV i v).rowW w j = c.rowW w j := rfl
@[simp] theorem rowT_setV (c : Core) (i : BitVec 5) (v : BitVec 2048) (w j : Nat) : (c.setV i v).rowT w j = c.rowT w j := rfl

/-! ### The canonical form -/

theorem setS_coreWf {c : Core} (h : coreWf c = true) (i : BitVec 5) (v : U64) : coreWf (c.setS i v) = true := by
  unfold Core.setS
  split
  · exact h
  · have p := coreWf_parts h
    exact coreWf_of ⟨map_set_wf _ _ _ p.1, p.2⟩

theorem setA_coreWf {c : Core} (h : coreWf c = true) (i : BitVec 4) (v : U64) : coreWf (c.setA i v) = true := by
  have p := coreWf_parts h
  exact coreWf_of ⟨p.1, map_set_wf _ _ _ p.2.1, p.2.2⟩

theorem setV_coreWf {c : Core} (h : coreWf c = true) (i : BitVec 5) (v : BitVec 2048) : coreWf (c.setV i v) = true := by
  have p := coreWf_parts h
  exact coreWf_of ⟨p.1, p.2.1, map_set_wf _ _ _ p.2.2.1, p.2.2.2⟩

theorem setP_coreWf {c : Core} (h : coreWf c = true) (i : BitVec 3) (v : U64) : coreWf (c.setP i v) = true := by
  unfold Core.setP
  split
  · exact h
  · have p := coreWf_parts h
    exact coreWf_of ⟨p.1, p.2.1, p.2.2.1, map_set_wf _ _ _ p.2.2.2.1, p.2.2.2.2⟩

theorem setRow_coreWf {c : Core} (h : coreWf c = true) (w j : Nat) (x : L576) (t : Byte) : coreWf (c.setRow w j x t) = true := by
  have p := coreWf_parts h
  exact coreWf_of ⟨p.1, p.2.1, p.2.2.1, p.2.2.2.1, map_set_wf _ _ _ p.2.2.2.2.1, map_set_wf _ _ _ p.2.2.2.2.2.1, p.2.2.2.2.2.2⟩

theorem setRowSt_coreWf {c : Core} (h : coreWf c = true) (w : Nat) (r : RowSt) : coreWf (c.setRowSt w r) = true := by
  have p := coreWf_parts h
  exact coreWf_of ⟨p.1, p.2.1, p.2.2.1, p.2.2.2.1, p.2.2.2.2.1, p.2.2.2.2.2.1, map_set_wf _ _ _ p.2.2.2.2.2.2⟩

/-- While boot is not in recovery, a block answers as it does otherwise (R396). -/
theorem answering_on {s : State} (h : Answers s) (f : State → State) : answering f s = f s := if_neg h

theorem answering_off {s : State} (h : stage s = 7) (f : State → State) : answering f s = s := if_pos h

end Sys2Proof.Laws
end

