-- ==== Sys2Proof/Laws/State.lean ====
section
/-! SUPPORT. What each elementary update leaves alone: one lemma per update and field of the state, true by definition. -/

namespace Sys2Proof.Laws
open Sys2Proof Sys2Proof.Machine

variable (s : State)

/-! ### wr -/

section
variable (f : Fld) (i v : Nat)

@[simp] theorem wr_pending : (wr f i v s).pending = s.pending := rfl
@[simp] theorem wr_cycle : (wr f i v s).cycle = s.cycle := rfl
@[simp] theorem wr_rtFrac : (wr f i v s).rtFrac = s.rtFrac := rfl
@[simp] theorem wr_freeCount : (wr f i v s).freeCount = s.freeCount := rfl
@[simp] theorem wr_cfgVals : (wr f i v s).cfgVals = s.cfgVals := rfl
@[simp] theorem wr_mem : (wr f i v s).mem = s.mem := rfl
@[simp] theorem wr_chk : (wr f i v s).chk = s.chk := rfl
@[simp] theorem wr_storeErr : (wr f i v s).storeErr = s.storeErr := rfl
@[simp] theorem wr_cxlPoison : (wr f i v s).cxlPoison = s.cxlPoison := rfl
@[simp] theorem wr_stateWords : (wr f i v s).stateWords = s.stateWords := rfl
@[simp] theorem wr_sweep : (wr f i v s).sweep = s.sweep := rfl
@[simp] theorem wr_dens24 : (wr f i v s).dens24 = s.dens24 := rfl
@[simp] theorem wr_boxes : (wr f i v s).boxes = s.boxes := rfl
@[simp] theorem wr_hostOut : (wr f i v s).hostOut = s.hostOut := rfl
@[simp] theorem wr_itgSeq : (wr f i v s).itgSeq = s.itgSeq := rfl
@[simp] theorem wr_tagq : (wr f i v s).tagq = s.tagq := rfl
@[simp] theorem wr_bar2Size : (wr f i v s).bar2Size = s.bar2Size := rfl
@[simp] theorem wr_hist : (wr f i v s).hist = s.hist := rfl
@[simp] theorem wr_checks : (wr f i v s).checks = s.checks := rfl
@[simp] theorem wr_passes : (wr f i v s).passes = s.passes := rfl
@[simp] theorem wr_dupNext : (wr f i v s).dupNext = s.dupNext := rfl
@[simp] theorem wr_notices : (wr f i v s).notices = s.notices := rfl
@[simp] theorem wr_shunts : (wr f i v s).shunts = s.shunts := rfl
@[simp] theorem wr_signals : (wr f i v s).signals = s.signals := rfl
@[simp] theorem wr_bucket : (wr f i v s).bucket = s.bucket := rfl
@[simp] theorem wr_traceLost : (wr f i v s).traceLost = s.traceLost := rfl
@[simp] theorem wr_tiles : (wr f i v s).tiles = s.tiles := rfl
@[simp] theorem wr_expVec : (wr f i v s).expVec = s.expVec := rfl
@[simp] theorem wr_expK : (wr f i v s).expK = s.expK := rfl
@[simp] theorem wr_xcmds : (wr f i v s).xcmds = s.xcmds := rfl
@[simp] theorem wr_xunits : (wr f i v s).xunits = s.xunits := rfl
@[simp] theorem wr_xparts : (wr f i v s).xparts = s.xparts := rfl
@[simp] theorem wr_sidingShare : (wr f i v s).sidingShare = s.sidingShare := rfl
@[simp] theorem wr_stations : (wr f i v s).stations = s.stations := rfl
@[simp] theorem wr_ports : (wr f i v s).ports = s.ports := rfl
@[simp] theorem wr_injq : (wr f i v s).injq = s.injq := rfl
@[simp] theorem wr_ejq : (wr f i v s).ejq = s.ejq := rfl
@[simp] theorem wr_colls : (wr f i v s).colls = s.colls := rfl
@[simp] theorem wr_heldq : (wr f i v s).heldq = s.heldq := rfl
@[simp] theorem wr_router : (wr f i v s).router = s.router := rfl
@[simp] theorem wr_cut : (wr f i v s).cut = s.cut := rfl
@[simp] theorem wr_tags : (wr f i v s).tags = s.tags := rfl
@[simp] theorem wr_host : (wr f i v s).host = s.host := rfl
@[simp] theorem wr_itg : (wr f i v s).itg = s.itg := rfl
@[simp] theorem wr_boot : (wr f i v s).boot = s.boot := rfl
@[simp] theorem wr_power : (wr f i v s).power = s.power := rfl
@[simp] theorem wr_phys : (wr f i v s).phys = s.phys := rfl
@[simp] theorem wr_bar2 : (wr f i v s).bar2 = s.bar2 := rfl
@[simp] theorem wr_smTraced : (wr f i v s).smTraced = s.smTraced := rfl

end

/-! ### setTile -/

section
variable (t : Nat) (x : TileSt)

@[simp] theorem setTile_pending : (setTile t x s).pending = s.pending := rfl
@[simp] theorem setTile_cycle : (setTile t x s).cycle = s.cycle := rfl
@[simp] theorem setTile_rtFrac : (setTile t x s).rtFrac = s.rtFrac := rfl
@[simp] theorem setTile_freeCount : (setTile t x s).freeCount = s.freeCount := rfl
@[simp] theorem setTile_flds : (setTile t x s).flds = s.flds := rfl
@[simp] theorem setTile_cfgVals : (setTile t x s).cfgVals = s.cfgVals := rfl
@[simp] theorem setTile_mem : (setTile t x s).mem = s.mem := rfl
@[simp] theorem setTile_chk : (setTile t x s).chk = s.chk := rfl
@[simp] theorem setTile_storeErr : (setTile t x s).storeErr = s.storeErr := rfl
@[simp] theorem setTile_cxlPoison : (setTile t x s).cxlPoison = s.cxlPoison := rfl
@[simp] theorem setTile_stateWords : (setTile t x s).stateWords = s.stateWords := rfl
@[simp] theorem setTile_sweep : (setTile t x s).sweep = s.sweep := rfl
@[simp] theorem setTile_dens24 : (setTile t x s).dens24 = s.dens24 := rfl
@[simp] theorem setTile_boxes : (setTile t x s).boxes = s.boxes := rfl
@[simp] theorem setTile_hostOut : (setTile t x s).hostOut = s.hostOut := rfl
@[simp] theorem setTile_itgSeq : (setTile t x s).itgSeq = s.itgSeq := rfl
@[simp] theorem setTile_tagq : (setTile t x s).tagq = s.tagq := rfl
@[simp] theorem setTile_bar2Size : (setTile t x s).bar2Size = s.bar2Size := rfl
@[simp] theorem setTile_hist : (setTile t x s).hist = s.hist := rfl
@[simp] theorem setTile_checks : (setTile t x s).checks = s.checks := rfl
@[simp] theorem setTile_passes : (setTile t x s).passes = s.passes := rfl
@[simp] theorem setTile_dupNext : (setTile t x s).dupNext = s.dupNext := rfl
@[simp] theorem setTile_notices : (setTile t x s).notices = s.notices := rfl
@[simp] theorem setTile_shunts : (setTile t x s).shunts = s.shunts := rfl
@[simp] theorem setTile_signals : (setTile t x s).signals = s.signals := rfl
@[simp] theorem setTile_bucket : (setTile t x s).bucket = s.bucket := rfl
@[simp] theorem setTile_traceLost : (setTile t x s).traceLost = s.traceLost := rfl
@[simp] theorem setTile_expVec : (setTile t x s).expVec = s.expVec := rfl
@[simp] theorem setTile_expK : (setTile t x s).expK = s.expK := rfl
@[simp] theorem setTile_xcmds : (setTile t x s).xcmds = s.xcmds := rfl
@[simp] theorem setTile_xunits : (setTile t x s).xunits = s.xunits := rfl
@[simp] theorem setTile_xparts : (setTile t x s).xparts = s.xparts := rfl
@[simp] theorem setTile_sidingShare : (setTile t x s).sidingShare = s.sidingShare := rfl
@[simp] theorem setTile_stations : (setTile t x s).stations = s.stations := rfl
@[simp] theorem setTile_ports : (setTile t x s).ports = s.ports := rfl
@[simp] theorem setTile_injq : (setTile t x s).injq = s.injq := rfl
@[simp] theorem setTile_ejq : (setTile t x s).ejq = s.ejq := rfl
@[simp] theorem setTile_colls : (setTile t x s).colls = s.colls := rfl
@[simp] theorem setTile_heldq : (setTile t x s).heldq = s.heldq := rfl
@[simp] theorem setTile_router : (setTile t x s).router = s.router := rfl
@[simp] theorem setTile_cut : (setTile t x s).cut = s.cut := rfl
@[simp] theorem setTile_tags : (setTile t x s).tags = s.tags := rfl
@[simp] theorem setTile_host : (setTile t x s).host = s.host := rfl
@[simp] theorem setTile_itg : (setTile t x s).itg = s.itg := rfl
@[simp] theorem setTile_boot : (setTile t x s).boot = s.boot := rfl
@[simp] theorem setTile_power : (setTile t x s).power = s.power := rfl
@[simp] theorem setTile_phys : (setTile t x s).phys = s.phys := rfl
@[simp] theorem setTile_bar2 : (setTile t x s).bar2 = s.bar2 := rfl
@[simp] theorem setTile_smTraced : (setTile t x s).smTraced = s.smTraced := rfl

end

/-! ### setCore -/

section
variable (t : Nat) (c : Core)

@[simp] theorem setCore_pending : (setCore t c s).pending = s.pending := rfl
@[simp] theorem setCore_cycle : (setCore t c s).cycle = s.cycle := rfl
@[simp] theorem setCore_rtFrac : (setCore t c s).rtFrac = s.rtFrac := rfl
@[simp] theorem setCore_freeCount : (setCore t c s).freeCount = s.freeCount := rfl
@[simp] theorem setCore_flds : (setCore t c s).flds = s.flds := rfl
@[simp] theorem setCore_cfgVals : (setCore t c s).cfgVals = s.cfgVals := rfl
@[simp] theorem setCore_mem : (setCore t c s).mem = s.mem := rfl
@[simp] theorem setCore_chk : (setCore t c s).chk = s.chk := rfl
@[simp] theorem setCore_storeErr : (setCore t c s).storeErr = s.storeErr := rfl
@[simp] theorem setCore_cxlPoison : (setCore t c s).cxlPoison = s.cxlPoison := rfl
@[simp] theorem setCore_stateWords : (setCore t c s).stateWords = s.stateWords := rfl
@[simp] theorem setCore_sweep : (setCore t c s).sweep = s.sweep := rfl
@[simp] theorem setCore_dens24 : (setCore t c s).dens24 = s.dens24 := rfl
@[simp] theorem setCore_boxes : (setCore t c s).boxes = s.boxes := rfl
@[simp] theorem setCore_hostOut : (setCore t c s).hostOut = s.hostOut := rfl
@[simp] theorem setCore_itgSeq : (setCore t c s).itgSeq = s.itgSeq := rfl
@[simp] theorem setCore_tagq : (setCore t c s).tagq = s.tagq := rfl
@[simp] theorem setCore_bar2Size : (setCore t c s).bar2Size = s.bar2Size := rfl
@[simp] theorem setCore_hist : (setCore t c s).hist = s.hist := rfl
@[simp] theorem setCore_checks : (setCore t c s).checks = s.checks := rfl
@[simp] theorem setCore_passes : (setCore t c s).passes = s.passes := rfl
@[simp] theorem setCore_dupNext : (setCore t c s).dupNext = s.dupNext := rfl
@[simp] theorem setCore_notices : (setCore t c s).notices = s.notices := rfl
@[simp] theorem setCore_shunts : (setCore t c s).shunts = s.shunts := rfl
@[simp] theorem setCore_signals : (setCore t c s).signals = s.signals := rfl
@[simp] theorem setCore_bucket : (setCore t c s).bucket = s.bucket := rfl
@[simp] theorem setCore_traceLost : (setCore t c s).traceLost = s.traceLost := rfl
@[simp] theorem setCore_expVec : (setCore t c s).expVec = s.expVec := rfl
@[simp] theorem setCore_expK : (setCore t c s).expK = s.expK := rfl
@[simp] theorem setCore_xcmds : (setCore t c s).xcmds = s.xcmds := rfl
@[simp] theorem setCore_xunits : (setCore t c s).xunits = s.xunits := rfl
@[simp] theorem setCore_xparts : (setCore t c s).xparts = s.xparts := rfl
@[simp] theorem setCore_sidingShare : (setCore t c s).sidingShare = s.sidingShare := rfl
@[simp] theorem setCore_stations : (setCore t c s).stations = s.stations := rfl
@[simp] theorem setCore_ports : (setCore t c s).ports = s.ports := rfl
@[simp] theorem setCore_injq : (setCore t c s).injq = s.injq := rfl
@[simp] theorem setCore_ejq : (setCore t c s).ejq = s.ejq := rfl
@[simp] theorem setCore_colls : (setCore t c s).colls = s.colls := rfl
@[simp] theorem setCore_heldq : (setCore t c s).heldq = s.heldq := rfl
@[simp] theorem setCore_router : (setCore t c s).router = s.router := rfl
@[simp] theorem setCore_cut : (setCore t c s).cut = s.cut := rfl
@[simp] theorem setCore_tags : (setCore t c s).tags = s.tags := rfl
@[simp] theorem setCore_host : (setCore t c s).host = s.host := rfl
@[simp] theorem setCore_itg : (setCore t c s).itg = s.itg := rfl
@[simp] theorem setCore_boot : (setCore t c s).boot = s.boot := rfl
@[simp] theorem setCore_power : (setCore t c s).power = s.power := rfl
@[simp] theorem setCore_phys : (setCore t c s).phys = s.phys := rfl
@[simp] theorem setCore_bar2 : (setCore t c s).bar2 = s.bar2 := rfl
@[simp] theorem setCore_smTraced : (setCore t c s).smTraced = s.smTraced := rfl

end

/-! ### setLr -/

section
variable (t : Nat) (l : LaneRow)

@[simp] theorem setLr_pending : (setLr t l s).pending = s.pending := rfl
@[simp] theorem setLr_cycle : (setLr t l s).cycle = s.cycle := rfl
@[simp] theorem setLr_rtFrac : (setLr t l s).rtFrac = s.rtFrac := rfl
@[simp] theorem setLr_freeCount : (setLr t l s).freeCount = s.freeCount := rfl
@[simp] theorem setLr_flds : (setLr t l s).flds = s.flds := rfl
@[simp] theorem setLr_cfgVals : (setLr t l s).cfgVals = s.cfgVals := rfl
@[simp] theorem setLr_mem : (setLr t l s).mem = s.mem := rfl
@[simp] theorem setLr_chk : (setLr t l s).chk = s.chk := rfl
@[simp] theorem setLr_storeErr : (setLr t l s).storeErr = s.storeErr := rfl
@[simp] theorem setLr_cxlPoison : (setLr t l s).cxlPoison = s.cxlPoison := rfl
@[simp] theorem setLr_stateWords : (setLr t l s).stateWords = s.stateWords := rfl
@[simp] theorem setLr_sweep : (setLr t l s).sweep = s.sweep := rfl
@[simp] theorem setLr_dens24 : (setLr t l s).dens24 = s.dens24 := rfl
@[simp] theorem setLr_boxes : (setLr t l s).boxes = s.boxes := rfl
@[simp] theorem setLr_hostOut : (setLr t l s).hostOut = s.hostOut := rfl
@[simp] theorem setLr_itgSeq : (setLr t l s).itgSeq = s.itgSeq := rfl
@[simp] theorem setLr_tagq : (setLr t l s).tagq = s.tagq := rfl
@[simp] theorem setLr_bar2Size : (setLr t l s).bar2Size = s.bar2Size := rfl
@[simp] theorem setLr_hist : (setLr t l s).hist = s.hist := rfl
@[simp] theorem setLr_checks : (setLr t l s).checks = s.checks := rfl
@[simp] theorem setLr_passes : (setLr t l s).passes = s.passes := rfl
@[simp] theorem setLr_dupNext : (setLr t l s).dupNext = s.dupNext := rfl
@[simp] theorem setLr_notices : (setLr t l s).notices = s.notices := rfl
@[simp] theorem setLr_shunts : (setLr t l s).shunts = s.shunts := rfl
@[simp] theorem setLr_signals : (setLr t l s).signals = s.signals := rfl
@[simp] theorem setLr_bucket : (setLr t l s).bucket = s.bucket := rfl
@[simp] theorem setLr_traceLost : (setLr t l s).traceLost = s.traceLost := rfl
@[simp] theorem setLr_expVec : (setLr t l s).expVec = s.expVec := rfl
@[simp] theorem setLr_expK : (setLr t l s).expK = s.expK := rfl
@[simp] theorem setLr_xcmds : (setLr t l s).xcmds = s.xcmds := rfl
@[simp] theorem setLr_xunits : (setLr t l s).xunits = s.xunits := rfl
@[simp] theorem setLr_xparts : (setLr t l s).xparts = s.xparts := rfl
@[simp] theorem setLr_sidingShare : (setLr t l s).sidingShare = s.sidingShare := rfl
@[simp] theorem setLr_stations : (setLr t l s).stations = s.stations := rfl
@[simp] theorem setLr_ports : (setLr t l s).ports = s.ports := rfl
@[simp] theorem setLr_injq : (setLr t l s).injq = s.injq := rfl
@[simp] theorem setLr_ejq : (setLr t l s).ejq = s.ejq := rfl
@[simp] theorem setLr_colls : (setLr t l s).colls = s.colls := rfl
@[simp] theorem setLr_heldq : (setLr t l s).heldq = s.heldq := rfl
@[simp] theorem setLr_router : (setLr t l s).router = s.router := rfl
@[simp] theorem setLr_cut : (setLr t l s).cut = s.cut := rfl
@[simp] theorem setLr_tags : (setLr t l s).tags = s.tags := rfl
@[simp] theorem setLr_host : (setLr t l s).host = s.host := rfl
@[simp] theorem setLr_itg : (setLr t l s).itg = s.itg := rfl
@[simp] theorem setLr_boot : (setLr t l s).boot = s.boot := rfl
@[simp] theorem setLr_power : (setLr t l s).power = s.power := rfl
@[simp] theorem setLr_phys : (setLr t l s).phys = s.phys := rfl
@[simp] theorem setLr_bar2 : (setLr t l s).bar2 = s.bar2 := rfl
@[simp] theorem setLr_smTraced : (setLr t l s).smTraced = s.smTraced := rfl

end

/-! ### setStation -/

section
variable (n : Nat) (x : StationSt)

@[simp] theorem setStation_pending : (setStation n x s).pending = s.pending := rfl
@[simp] theorem setStation_cycle : (setStation n x s).cycle = s.cycle := rfl
@[simp] theorem setStation_rtFrac : (setStation n x s).rtFrac = s.rtFrac := rfl
@[simp] theorem setStation_freeCount : (setStation n x s).freeCount = s.freeCount := rfl
@[simp] theorem setStation_flds : (setStation n x s).flds = s.flds := rfl
@[simp] theorem setStation_cfgVals : (setStation n x s).cfgVals = s.cfgVals := rfl
@[simp] theorem setStation_mem : (setStation n x s).mem = s.mem := rfl
@[simp] theorem setStation_chk : (setStation n x s).chk = s.chk := rfl
@[simp] theorem setStation_storeErr : (setStation n x s).storeErr = s.storeErr := rfl
@[simp] theorem setStation_cxlPoison : (setStation n x s).cxlPoison = s.cxlPoison := rfl
@[simp] theorem setStation_stateWords : (setStation n x s).stateWords = s.stateWords := rfl
@[simp] theorem setStation_sweep : (setStation n x s).sweep = s.sweep := rfl
@[simp] theorem setStation_dens24 : (setStation n x s).dens24 = s.dens24 := rfl
@[simp] theorem setStation_boxes : (setStation n x s).boxes = s.boxes := rfl
@[simp] theorem setStation_hostOut : (setStation n x s).hostOut = s.hostOut := rfl
@[simp] theorem setStation_itgSeq : (setStation n x s).itgSeq = s.itgSeq := rfl
@[simp] theorem setStation_tagq : (setStation n x s).tagq = s.tagq := rfl
@[simp] theorem setStation_bar2Size : (setStation n x s).bar2Size = s.bar2Size := rfl
@[simp] theorem setStation_hist : (setStation n x s).hist = s.hist := rfl
@[simp] theorem setStation_checks : (setStation n x s).checks = s.checks := rfl
@[simp] theorem setStation_passes : (setStation n x s).passes = s.passes := rfl
@[simp] theorem setStation_dupNext : (setStation n x s).dupNext = s.dupNext := rfl
@[simp] theorem setStation_notices : (setStation n x s).notices = s.notices := rfl
@[simp] theorem setStation_shunts : (setStation n x s).shunts = s.shunts := rfl
@[simp] theorem setStation_signals : (setStation n x s).signals = s.signals := rfl
@[simp] theorem setStation_bucket : (setStation n x s).bucket = s.bucket := rfl
@[simp] theorem setStation_traceLost : (setStation n x s).traceLost = s.traceLost := rfl
@[simp] theorem setStation_tiles : (setStation n x s).tiles = s.tiles := rfl
@[simp] theorem setStation_expVec : (setStation n x s).expVec = s.expVec := rfl
@[simp] theorem setStation_expK : (setStation n x s).expK = s.expK := rfl
@[simp] theorem setStation_xcmds : (setStation n x s).xcmds = s.xcmds := rfl
@[simp] theorem setStation_xunits : (setStation n x s).xunits = s.xunits := rfl
@[simp] theorem setStation_xparts : (setStation n x s).xparts = s.xparts := rfl
@[simp] theorem setStation_sidingShare : (setStation n x s).sidingShare = s.sidingShare := rfl
@[simp] theorem setStation_ports : (setStation n x s).ports = s.ports := rfl
@[simp] theorem setStation_injq : (setStation n x s).injq = s.injq := rfl
@[simp] theorem setStation_ejq : (setStation n x s).ejq = s.ejq := rfl
@[simp] theorem setStation_colls : (setStation n x s).colls = s.colls := rfl
@[simp] theorem setStation_heldq : (setStation n x s).heldq = s.heldq := rfl
@[simp] theorem setStation_router : (setStation n x s).router = s.router := rfl
@[simp] theorem setStation_cut : (setStation n x s).cut = s.cut := rfl
@[simp] theorem setStation_tags : (setStation n x s).tags = s.tags := rfl
@[simp] theorem setStation_host : (setStation n x s).host = s.host := rfl
@[simp] theorem setStation_itg : (setStation n x s).itg = s.itg := rfl
@[simp] theorem setStation_boot : (setStation n x s).boot = s.boot := rfl
@[simp] theorem setStation_power : (setStation n x s).power = s.power := rfl
@[simp] theorem setStation_phys : (setStation n x s).phys = s.phys := rfl
@[simp] theorem setStation_bar2 : (setStation n x s).bar2 = s.bar2 := rfl
@[simp] theorem setStation_smTraced : (setStation n x s).smTraced = s.smTraced := rfl

end

/-! ### setPort -/

section
variable (p : Nat) (x : Port)

@[simp] theorem setPort_pending : (setPort p x s).pending = s.pending := rfl
@[simp] theorem setPort_cycle : (setPort p x s).cycle = s.cycle := rfl
@[simp] theorem setPort_rtFrac : (setPort p x s).rtFrac = s.rtFrac := rfl
@[simp] theorem setPort_freeCount : (setPort p x s).freeCount = s.freeCount := rfl
@[simp] theorem setPort_flds : (setPort p x s).flds = s.flds := rfl
@[simp] theorem setPort_cfgVals : (setPort p x s).cfgVals = s.cfgVals := rfl
@[simp] theorem setPort_mem : (setPort p x s).mem = s.mem := rfl
@[simp] theorem setPort_chk : (setPort p x s).chk = s.chk := rfl
@[simp] theorem setPort_storeErr : (setPort p x s).storeErr = s.storeErr := rfl
@[simp] theorem setPort_cxlPoison : (setPort p x s).cxlPoison = s.cxlPoison := rfl
@[simp] theorem setPort_stateWords : (setPort p x s).stateWords = s.stateWords := rfl
@[simp] theorem setPort_sweep : (setPort p x s).sweep = s.sweep := rfl
@[simp] theorem setPort_dens24 : (setPort p x s).dens24 = s.dens24 := rfl
@[simp] theorem setPort_boxes : (setPort p x s).boxes = s.boxes := rfl
@[simp] theorem setPort_hostOut : (setPort p x s).hostOut = s.hostOut := rfl
@[simp] theorem setPort_itgSeq : (setPort p x s).itgSeq = s.itgSeq := rfl
@[simp] theorem setPort_tagq : (setPort p x s).tagq = s.tagq := rfl
@[simp] theorem setPort_bar2Size : (setPort p x s).bar2Size = s.bar2Size := rfl
@[simp] theorem setPort_hist : (setPort p x s).hist = s.hist := rfl
@[simp] theorem setPort_checks : (setPort p x s).checks = s.checks := rfl
@[simp] theorem setPort_passes : (setPort p x s).passes = s.passes := rfl
@[simp] theorem setPort_dupNext : (setPort p x s).dupNext = s.dupNext := rfl
@[simp] theorem setPort_notices : (setPort p x s).notices = s.notices := rfl
@[simp] theorem setPort_shunts : (setPort p x s).shunts = s.shunts := rfl
@[simp] theorem setPort_signals : (setPort p x s).signals = s.signals := rfl
@[simp] theorem setPort_bucket : (setPort p x s).bucket = s.bucket := rfl
@[simp] theorem setPort_traceLost : (setPort p x s).traceLost = s.traceLost := rfl
@[simp] theorem setPort_tiles : (setPort p x s).tiles = s.tiles := rfl
@[simp] theorem setPort_expVec : (setPort p x s).expVec = s.expVec := rfl
@[simp] theorem setPort_expK : (setPort p x s).expK = s.expK := rfl
@[simp] theorem setPort_xcmds : (setPort p x s).xcmds = s.xcmds := rfl
@[simp] theorem setPort_xunits : (setPort p x s).xunits = s.xunits := rfl
@[simp] theorem setPort_xparts : (setPort p x s).xparts = s.xparts := rfl
@[simp] theorem setPort_sidingShare : (setPort p x s).sidingShare = s.sidingShare := rfl
@[simp] theorem setPort_stations : (setPort p x s).stations = s.stations := rfl
@[simp] theorem setPort_injq : (setPort p x s).injq = s.injq := rfl
@[simp] theorem setPort_ejq : (setPort p x s).ejq = s.ejq := rfl
@[simp] theorem setPort_colls : (setPort p x s).colls = s.colls := rfl
@[simp] theorem setPort_heldq : (setPort p x s).heldq = s.heldq := rfl
@[simp] theorem setPort_router : (setPort p x s).router = s.router := rfl
@[simp] theorem setPort_cut : (setPort p x s).cut = s.cut := rfl
@[simp] theorem setPort_tags : (setPort p x s).tags = s.tags := rfl
@[simp] theorem setPort_host : (setPort p x s).host = s.host := rfl
@[simp] theorem setPort_itg : (setPort p x s).itg = s.itg := rfl
@[simp] theorem setPort_boot : (setPort p x s).boot = s.boot := rfl
@[simp] theorem setPort_power : (setPort p x s).power = s.power := rfl
@[simp] theorem setPort_phys : (setPort p x s).phys = s.phys := rfl
@[simp] theorem setPort_bar2 : (setPort p x s).bar2 = s.bar2 := rfl
@[simp] theorem setPort_smTraced : (setPort p x s).smTraced = s.smTraced := rfl

end

/-! ### setShunt -/

section
variable (c : Nat) (x : Machine.Shunt)

@[simp] theorem setShunt_pending : (setShunt c x s).pending = s.pending := rfl
@[simp] theorem setShunt_cycle : (setShunt c x s).cycle = s.cycle := rfl
@[simp] theorem setShunt_rtFrac : (setShunt c x s).rtFrac = s.rtFrac := rfl
@[simp] theorem setShunt_freeCount : (setShunt c x s).freeCount = s.freeCount := rfl
@[simp] theorem setShunt_flds : (setShunt c x s).flds = s.flds := rfl
@[simp] theorem setShunt_cfgVals : (setShunt c x s).cfgVals = s.cfgVals := rfl
@[simp] theorem setShunt_mem : (setShunt c x s).mem = s.mem := rfl
@[simp] theorem setShunt_chk : (setShunt c x s).chk = s.chk := rfl
@[simp] theorem setShunt_storeErr : (setShunt c x s).storeErr = s.storeErr := rfl
@[simp] theorem setShunt_cxlPoison : (setShunt c x s).cxlPoison = s.cxlPoison := rfl
@[simp] theorem setShunt_stateWords : (setShunt c x s).stateWords = s.stateWords := rfl
@[simp] theorem setShunt_sweep : (setShunt c x s).sweep = s.sweep := rfl
@[simp] theorem setShunt_dens24 : (setShunt c x s).dens24 = s.dens24 := rfl
@[simp] theorem setShunt_boxes : (setShunt c x s).boxes = s.boxes := rfl
@[simp] theorem setShunt_hostOut : (setShunt c x s).hostOut = s.hostOut := rfl
@[simp] theorem setShunt_itgSeq : (setShunt c x s).itgSeq = s.itgSeq := rfl
@[simp] theorem setShunt_tagq : (setShunt c x s).tagq = s.tagq := rfl
@[simp] theorem setShunt_bar2Size : (setShunt c x s).bar2Size = s.bar2Size := rfl
@[simp] theorem setShunt_hist : (setShunt c x s).hist = s.hist := rfl
@[simp] theorem setShunt_checks : (setShunt c x s).checks = s.checks := rfl
@[simp] theorem setShunt_passes : (setShunt c x s).passes = s.passes := rfl
@[simp] theorem setShunt_dupNext : (setShunt c x s).dupNext = s.dupNext := rfl
@[simp] theorem setShunt_notices : (setShunt c x s).notices = s.notices := rfl
@[simp] theorem setShunt_signals : (setShunt c x s).signals = s.signals := rfl
@[simp] theorem setShunt_bucket : (setShunt c x s).bucket = s.bucket := rfl
@[simp] theorem setShunt_traceLost : (setShunt c x s).traceLost = s.traceLost := rfl
@[simp] theorem setShunt_tiles : (setShunt c x s).tiles = s.tiles := rfl
@[simp] theorem setShunt_expVec : (setShunt c x s).expVec = s.expVec := rfl
@[simp] theorem setShunt_expK : (setShunt c x s).expK = s.expK := rfl
@[simp] theorem setShunt_xcmds : (setShunt c x s).xcmds = s.xcmds := rfl
@[simp] theorem setShunt_xunits : (setShunt c x s).xunits = s.xunits := rfl
@[simp] theorem setShunt_xparts : (setShunt c x s).xparts = s.xparts := rfl
@[simp] theorem setShunt_sidingShare : (setShunt c x s).sidingShare = s.sidingShare := rfl
@[simp] theorem setShunt_stations : (setShunt c x s).stations = s.stations := rfl
@[simp] theorem setShunt_ports : (setShunt c x s).ports = s.ports := rfl
@[simp] theorem setShunt_injq : (setShunt c x s).injq = s.injq := rfl
@[simp] theorem setShunt_ejq : (setShunt c x s).ejq = s.ejq := rfl
@[simp] theorem setShunt_colls : (setShunt c x s).colls = s.colls := rfl
@[simp] theorem setShunt_heldq : (setShunt c x s).heldq = s.heldq := rfl
@[simp] theorem setShunt_router : (setShunt c x s).router = s.router := rfl
@[simp] theorem setShunt_cut : (setShunt c x s).cut = s.cut := rfl
@[simp] theorem setShunt_tags : (setShunt c x s).tags = s.tags := rfl
@[simp] theorem setShunt_host : (setShunt c x s).host = s.host := rfl
@[simp] theorem setShunt_itg : (setShunt c x s).itg = s.itg := rfl
@[simp] theorem setShunt_boot : (setShunt c x s).boot = s.boot := rfl
@[simp] theorem setShunt_power : (setShunt c x s).power = s.power := rfl
@[simp] theorem setShunt_phys : (setShunt c x s).phys = s.phys := rfl
@[simp] theorem setShunt_bar2 : (setShunt c x s).bar2 = s.bar2 := rfl
@[simp] theorem setShunt_smTraced : (setShunt c x s).smTraced = s.smTraced := rfl

end

/-! ### setColl -/

section
variable (k : Nat) (x : Machine.Coll)

@[simp] theorem setColl_pending : (setColl k x s).pending = s.pending := rfl
@[simp] theorem setColl_cycle : (setColl k x s).cycle = s.cycle := rfl
@[simp] theorem setColl_rtFrac : (setColl k x s).rtFrac = s.rtFrac := rfl
@[simp] theorem setColl_freeCount : (setColl k x s).freeCount = s.freeCount := rfl
@[simp] theorem setColl_flds : (setColl k x s).flds = s.flds := rfl
@[simp] theorem setColl_cfgVals : (setColl k x s).cfgVals = s.cfgVals := rfl
@[simp] theorem setColl_mem : (setColl k x s).mem = s.mem := rfl
@[simp] theorem setColl_chk : (setColl k x s).chk = s.chk := rfl
@[simp] theorem setColl_storeErr : (setColl k x s).storeErr = s.storeErr := rfl
@[simp] theorem setColl_cxlPoison : (setColl k x s).cxlPoison = s.cxlPoison := rfl
@[simp] theorem setColl_stateWords : (setColl k x s).stateWords = s.stateWords := rfl
@[simp] theorem setColl_sweep : (setColl k x s).sweep = s.sweep := rfl
@[simp] theorem setColl_dens24 : (setColl k x s).dens24 = s.dens24 := rfl
@[simp] theorem setColl_boxes : (setColl k x s).boxes = s.boxes := rfl
@[simp] theorem setColl_hostOut : (setColl k x s).hostOut = s.hostOut := rfl
@[simp] theorem setColl_itgSeq : (setColl k x s).itgSeq = s.itgSeq := rfl
@[simp] theorem setColl_tagq : (setColl k x s).tagq = s.tagq := rfl
@[simp] theorem setColl_bar2Size : (setColl k x s).bar2Size = s.bar2Size := rfl
@[simp] theorem setColl_hist : (setColl k x s).hist = s.hist := rfl
@[simp] theorem setColl_checks : (setColl k x s).checks = s.checks := rfl
@[simp] theorem setColl_passes : (setColl k x s).passes = s.passes := rfl
@[simp] theorem setColl_dupNext : (setColl k x s).dupNext = s.dupNext := rfl
@[simp] theorem setColl_notices : (setColl k x s).notices = s.notices := rfl
@[simp] theorem setColl_shunts : (setColl k x s).shunts = s.shunts := rfl
@[simp] theorem setColl_signals : (setColl k x s).signals = s.signals := rfl
@[simp] theorem setColl_bucket : (setColl k x s).bucket = s.bucket := rfl
@[simp] theorem setColl_traceLost : (setColl k x s).traceLost = s.traceLost := rfl
@[simp] theorem setColl_tiles : (setColl k x s).tiles = s.tiles := rfl
@[simp] theorem setColl_expVec : (setColl k x s).expVec = s.expVec := rfl
@[simp] theorem setColl_expK : (setColl k x s).expK = s.expK := rfl
@[simp] theorem setColl_xcmds : (setColl k x s).xcmds = s.xcmds := rfl
@[simp] theorem setColl_xunits : (setColl k x s).xunits = s.xunits := rfl
@[simp] theorem setColl_xparts : (setColl k x s).xparts = s.xparts := rfl
@[simp] theorem setColl_sidingShare : (setColl k x s).sidingShare = s.sidingShare := rfl
@[simp] theorem setColl_stations : (setColl k x s).stations = s.stations := rfl
@[simp] theorem setColl_ports : (setColl k x s).ports = s.ports := rfl
@[simp] theorem setColl_injq : (setColl k x s).injq = s.injq := rfl
@[simp] theorem setColl_ejq : (setColl k x s).ejq = s.ejq := rfl
@[simp] theorem setColl_heldq : (setColl k x s).heldq = s.heldq := rfl
@[simp] theorem setColl_router : (setColl k x s).router = s.router := rfl
@[simp] theorem setColl_cut : (setColl k x s).cut = s.cut := rfl
@[simp] theorem setColl_tags : (setColl k x s).tags = s.tags := rfl
@[simp] theorem setColl_host : (setColl k x s).host = s.host := rfl
@[simp] theorem setColl_itg : (setColl k x s).itg = s.itg := rfl
@[simp] theorem setColl_boot : (setColl k x s).boot = s.boot := rfl
@[simp] theorem setColl_power : (setColl k x s).power = s.power := rfl
@[simp] theorem setColl_phys : (setColl k x s).phys = s.phys := rfl
@[simp] theorem setColl_bar2 : (setColl k x s).bar2 = s.bar2 := rfl
@[simp] theorem setColl_smTraced : (setColl k x s).smTraced = s.smTraced := rfl

end

/-! ### setTag -/

section
variable (k : Nat) (u : Option TagUse)

@[simp] theorem setTag_pending : (setTag k u s).pending = s.pending := rfl
@[simp] theorem setTag_cycle : (setTag k u s).cycle = s.cycle := rfl
@[simp] theorem setTag_rtFrac : (setTag k u s).rtFrac = s.rtFrac := rfl
@[simp] theorem setTag_freeCount : (setTag k u s).freeCount = s.freeCount := rfl
@[simp] theorem setTag_flds : (setTag k u s).flds = s.flds := rfl
@[simp] theorem setTag_cfgVals : (setTag k u s).cfgVals = s.cfgVals := rfl
@[simp] theorem setTag_mem : (setTag k u s).mem = s.mem := rfl
@[simp] theorem setTag_chk : (setTag k u s).chk = s.chk := rfl
@[simp] theorem setTag_storeErr : (setTag k u s).storeErr = s.storeErr := rfl
@[simp] theorem setTag_cxlPoison : (setTag k u s).cxlPoison = s.cxlPoison := rfl
@[simp] theorem setTag_stateWords : (setTag k u s).stateWords = s.stateWords := rfl
@[simp] theorem setTag_sweep : (setTag k u s).sweep = s.sweep := rfl
@[simp] theorem setTag_dens24 : (setTag k u s).dens24 = s.dens24 := rfl
@[simp] theorem setTag_boxes : (setTag k u s).boxes = s.boxes := rfl
@[simp] theorem setTag_hostOut : (setTag k u s).hostOut = s.hostOut := rfl
@[simp] theorem setTag_itgSeq : (setTag k u s).itgSeq = s.itgSeq := rfl
@[simp] theorem setTag_tagq : (setTag k u s).tagq = s.tagq := rfl
@[simp] theorem setTag_bar2Size : (setTag k u s).bar2Size = s.bar2Size := rfl
@[simp] theorem setTag_hist : (setTag k u s).hist = s.hist := rfl
@[simp] theorem setTag_checks : (setTag k u s).checks = s.checks := rfl
@[simp] theorem setTag_passes : (setTag k u s).passes = s.passes := rfl
@[simp] theorem setTag_dupNext : (setTag k u s).dupNext = s.dupNext := rfl
@[simp] theorem setTag_notices : (setTag k u s).notices = s.notices := rfl
@[simp] theorem setTag_shunts : (setTag k u s).shunts = s.shunts := rfl
@[simp] theorem setTag_signals : (setTag k u s).signals = s.signals := rfl
@[simp] theorem setTag_bucket : (setTag k u s).bucket = s.bucket := rfl
@[simp] theorem setTag_traceLost : (setTag k u s).traceLost = s.traceLost := rfl
@[simp] theorem setTag_tiles : (setTag k u s).tiles = s.tiles := rfl
@[simp] theorem setTag_expVec : (setTag k u s).expVec = s.expVec := rfl
@[simp] theorem setTag_expK : (setTag k u s).expK = s.expK := rfl
@[simp] theorem setTag_xcmds : (setTag k u s).xcmds = s.xcmds := rfl
@[simp] theorem setTag_xunits : (setTag k u s).xunits = s.xunits := rfl
@[simp] theorem setTag_xparts : (setTag k u s).xparts = s.xparts := rfl
@[simp] theorem setTag_sidingShare : (setTag k u s).sidingShare = s.sidingShare := rfl
@[simp] theorem setTag_stations : (setTag k u s).stations = s.stations := rfl
@[simp] theorem setTag_ports : (setTag k u s).ports = s.ports := rfl
@[simp] theorem setTag_injq : (setTag k u s).injq = s.injq := rfl
@[simp] theorem setTag_ejq : (setTag k u s).ejq = s.ejq := rfl
@[simp] theorem setTag_colls : (setTag k u s).colls = s.colls := rfl
@[simp] theorem setTag_heldq : (setTag k u s).heldq = s.heldq := rfl
@[simp] theorem setTag_router : (setTag k u s).router = s.router := rfl
@[simp] theorem setTag_cut : (setTag k u s).cut = s.cut := rfl
@[simp] theorem setTag_host : (setTag k u s).host = s.host := rfl
@[simp] theorem setTag_itg : (setTag k u s).itg = s.itg := rfl
@[simp] theorem setTag_boot : (setTag k u s).boot = s.boot := rfl
@[simp] theorem setTag_power : (setTag k u s).power = s.power := rfl
@[simp] theorem setTag_phys : (setTag k u s).phys = s.phys := rfl
@[simp] theorem setTag_bar2 : (setTag k u s).bar2 = s.bar2 := rfl
@[simp] theorem setTag_smTraced : (setTag k u s).smTraced = s.smTraced := rfl

end

/-! ### setCells -/

section
variable (l : List (Nat × Byte))

@[simp] theorem setCells_pending : (setCells l s).pending = s.pending := rfl
@[simp] theorem setCells_cycle : (setCells l s).cycle = s.cycle := rfl
@[simp] theorem setCells_rtFrac : (setCells l s).rtFrac = s.rtFrac := rfl
@[simp] theorem setCells_freeCount : (setCells l s).freeCount = s.freeCount := rfl
@[simp] theorem setCells_flds : (setCells l s).flds = s.flds := rfl
@[simp] theorem setCells_cfgVals : (setCells l s).cfgVals = s.cfgVals := rfl
@[simp] theorem setCells_chk : (setCells l s).chk = s.chk := rfl
@[simp] theorem setCells_storeErr : (setCells l s).storeErr = s.storeErr := rfl
@[simp] theorem setCells_cxlPoison : (setCells l s).cxlPoison = s.cxlPoison := rfl
@[simp] theorem setCells_stateWords : (setCells l s).stateWords = s.stateWords := rfl
@[simp] theorem setCells_sweep : (setCells l s).sweep = s.sweep := rfl
@[simp] theorem setCells_dens24 : (setCells l s).dens24 = s.dens24 := rfl
@[simp] theorem setCells_boxes : (setCells l s).boxes = s.boxes := rfl
@[simp] theorem setCells_hostOut : (setCells l s).hostOut = s.hostOut := rfl
@[simp] theorem setCells_itgSeq : (setCells l s).itgSeq = s.itgSeq := rfl
@[simp] theorem setCells_tagq : (setCells l s).tagq = s.tagq := rfl
@[simp] theorem setCells_bar2Size : (setCells l s).bar2Size = s.bar2Size := rfl
@[simp] theorem setCells_hist : (setCells l s).hist = s.hist := rfl
@[simp] theorem setCells_checks : (setCells l s).checks = s.checks := rfl
@[simp] theorem setCells_passes : (setCells l s).passes = s.passes := rfl
@[simp] theorem setCells_dupNext : (setCells l s).dupNext = s.dupNext := rfl
@[simp] theorem setCells_notices : (setCells l s).notices = s.notices := rfl
@[simp] theorem setCells_shunts : (setCells l s).shunts = s.shunts := rfl
@[simp] theorem setCells_signals : (setCells l s).signals = s.signals := rfl
@[simp] theorem setCells_bucket : (setCells l s).bucket = s.bucket := rfl
@[simp] theorem setCells_traceLost : (setCells l s).traceLost = s.traceLost := rfl
@[simp] theorem setCells_tiles : (setCells l s).tiles = s.tiles := rfl
@[simp] theorem setCells_expVec : (setCells l s).expVec = s.expVec := rfl
@[simp] theorem setCells_expK : (setCells l s).expK = s.expK := rfl
@[simp] theorem setCells_xcmds : (setCells l s).xcmds = s.xcmds := rfl
@[simp] theorem setCells_xunits : (setCells l s).xunits = s.xunits := rfl
@[simp] theorem setCells_xparts : (setCells l s).xparts = s.xparts := rfl
@[simp] theorem setCells_sidingShare : (setCells l s).sidingShare = s.sidingShare := rfl
@[simp] theorem setCells_stations : (setCells l s).stations = s.stations := rfl
@[simp] theorem setCells_ports : (setCells l s).ports = s.ports := rfl
@[simp] theorem setCells_injq : (setCells l s).injq = s.injq := rfl
@[simp] theorem setCells_ejq : (setCells l s).ejq = s.ejq := rfl
@[simp] theorem setCells_colls : (setCells l s).colls = s.colls := rfl
@[simp] theorem setCells_heldq : (setCells l s).heldq = s.heldq := rfl
@[simp] theorem setCells_router : (setCells l s).router = s.router := rfl
@[simp] theorem setCells_cut : (setCells l s).cut = s.cut := rfl
@[simp] theorem setCells_tags : (setCells l s).tags = s.tags := rfl
@[simp] theorem setCells_host : (setCells l s).host = s.host := rfl
@[simp] theorem setCells_itg : (setCells l s).itg = s.itg := rfl
@[simp] theorem setCells_boot : (setCells l s).boot = s.boot := rfl
@[simp] theorem setCells_power : (setCells l s).power = s.power := rfl
@[simp] theorem setCells_phys : (setCells l s).phys = s.phys := rfl
@[simp] theorem setCells_bar2 : (setCells l s).bar2 = s.bar2 := rfl
@[simp] theorem setCells_smTraced : (setCells l s).smTraced = s.smTraced := rfl

end

/-! ### hostWrite -/

section
variable (a : Nat) (d : List Byte)

@[simp] theorem hostWrite_pending : (hostWrite a d s).pending = s.pending := rfl
@[simp] theorem hostWrite_cycle : (hostWrite a d s).cycle = s.cycle := rfl
@[simp] theorem hostWrite_rtFrac : (hostWrite a d s).rtFrac = s.rtFrac := rfl
@[simp] theorem hostWrite_freeCount : (hostWrite a d s).freeCount = s.freeCount := rfl
@[simp] theorem hostWrite_flds : (hostWrite a d s).flds = s.flds := rfl
@[simp] theorem hostWrite_cfgVals : (hostWrite a d s).cfgVals = s.cfgVals := rfl
@[simp] theorem hostWrite_mem : (hostWrite a d s).mem = s.mem := rfl
@[simp] theorem hostWrite_chk : (hostWrite a d s).chk = s.chk := rfl
@[simp] theorem hostWrite_storeErr : (hostWrite a d s).storeErr = s.storeErr := rfl
@[simp] theorem hostWrite_cxlPoison : (hostWrite a d s).cxlPoison = s.cxlPoison := rfl
@[simp] theorem hostWrite_stateWords : (hostWrite a d s).stateWords = s.stateWords := rfl
@[simp] theorem hostWrite_sweep : (hostWrite a d s).sweep = s.sweep := rfl
@[simp] theorem hostWrite_dens24 : (hostWrite a d s).dens24 = s.dens24 := rfl
@[simp] theorem hostWrite_boxes : (hostWrite a d s).boxes = s.boxes := rfl
@[simp] theorem hostWrite_itgSeq : (hostWrite a d s).itgSeq = s.itgSeq := rfl
@[simp] theorem hostWrite_tagq : (hostWrite a d s).tagq = s.tagq := rfl
@[simp] theorem hostWrite_bar2Size : (hostWrite a d s).bar2Size = s.bar2Size := rfl
@[simp] theorem hostWrite_hist : (hostWrite a d s).hist = s.hist := rfl
@[simp] theorem hostWrite_checks : (hostWrite a d s).checks = s.checks := rfl
@[simp] theorem hostWrite_passes : (hostWrite a d s).passes = s.passes := rfl
@[simp] theorem hostWrite_dupNext : (hostWrite a d s).dupNext = s.dupNext := rfl
@[simp] theorem hostWrite_notices : (hostWrite a d s).notices = s.notices := rfl
@[simp] theorem hostWrite_shunts : (hostWrite a d s).shunts = s.shunts := rfl
@[simp] theorem hostWrite_signals : (hostWrite a d s).signals = s.signals := rfl
@[simp] theorem hostWrite_bucket : (hostWrite a d s).bucket = s.bucket := rfl
@[simp] theorem hostWrite_traceLost : (hostWrite a d s).traceLost = s.traceLost := rfl
@[simp] theorem hostWrite_tiles : (hostWrite a d s).tiles = s.tiles := rfl
@[simp] theorem hostWrite_expVec : (hostWrite a d s).expVec = s.expVec := rfl
@[simp] theorem hostWrite_expK : (hostWrite a d s).expK = s.expK := rfl
@[simp] theorem hostWrite_xcmds : (hostWrite a d s).xcmds = s.xcmds := rfl
@[simp] theorem hostWrite_xunits : (hostWrite a d s).xunits = s.xunits := rfl
@[simp] theorem hostWrite_xparts : (hostWrite a d s).xparts = s.xparts := rfl
@[simp] theorem hostWrite_sidingShare : (hostWrite a d s).sidingShare = s.sidingShare := rfl
@[simp] theorem hostWrite_stations : (hostWrite a d s).stations = s.stations := rfl
@[simp] theorem hostWrite_ports : (hostWrite a d s).ports = s.ports := rfl
@[simp] theorem hostWrite_injq : (hostWrite a d s).injq = s.injq := rfl
@[simp] theorem hostWrite_ejq : (hostWrite a d s).ejq = s.ejq := rfl
@[simp] theorem hostWrite_colls : (hostWrite a d s).colls = s.colls := rfl
@[simp] theorem hostWrite_heldq : (hostWrite a d s).heldq = s.heldq := rfl
@[simp] theorem hostWrite_router : (hostWrite a d s).router = s.router := rfl
@[simp] theorem hostWrite_cut : (hostWrite a d s).cut = s.cut := rfl
@[simp] theorem hostWrite_tags : (hostWrite a d s).tags = s.tags := rfl
@[simp] theorem hostWrite_host : (hostWrite a d s).host = s.host := rfl
@[simp] theorem hostWrite_itg : (hostWrite a d s).itg = s.itg := rfl
@[simp] theorem hostWrite_boot : (hostWrite a d s).boot = s.boot := rfl
@[simp] theorem hostWrite_power : (hostWrite a d s).power = s.power := rfl
@[simp] theorem hostWrite_phys : (hostWrite a d s).phys = s.phys := rfl
@[simp] theorem hostWrite_bar2 : (hostWrite a d s).bar2 = s.bar2 := rfl
@[simp] theorem hostWrite_smTraced : (hostWrite a d s).smTraced = s.smTraced := rfl

end

end Sys2Proof.Laws
end

