-- ==== Sys2Proof/Laws/Ops.lean ====
section
/-! SUPPORT. What the shared operations do: fields and sub-states read after they are written, and for each operation the parts of the state it may change (everything else is as it was). -/

namespace Sys2Proof.Laws
open Sys2Proof Sys2Proof.Machine

/-! ### Register fields -/

theorem wr_flds_wf {s : State} (h : Map.wf (fun _ => 0) s.flds = true) (f : Fld) (i v : Nat) : Map.wf (fun _ => 0) (wr f i v s).flds = true :=
  map_set_wf _ _ _ h

/-- A field read after it is written: the value cut to its width. -/
theorem rd_wr_self {s : State} (h : Map.wf (fun _ => 0) s.flds = true) (f : Fld) (i v : Nat) : rd f i (wr f i v s) = v % 2 ^ f.w := by
  simp only [rd, wr]
  rw [map_get_set_self _ h, Nat.xor_assoc, Nat.xor_self, Nat.xor_zero]

/-- Every other field reads as before. -/
theorem rd_wr_ne {s : State} (h : Map.wf (fun _ => 0) s.flds = true) {f g : Fld} {i j : Nat} (hk : g.key j ≠ f.key i) (v : Nat) :
    rd g j (wr f i v s) = rd g j s := by
  simp only [rd, wr]
  rw [map_get_set_ne _ h hk]

/-- Fields of different identity, at indexes within the table, are held under different keys. -/
theorem key_ne {f g : Fld} (h : g.id ≠ f.id) {i j : Nat} (hi : i < 65536) (hj : j < 65536) : g.key j ≠ f.key i := by
  simp only [Fld.key]; omega

theorem key_index_ne (f : Fld) {i j : Nat} (h : i ≠ j) : f.key i ≠ f.key j := by
  simp only [Fld.key]; omega

/-- A read depends on the fields alone. -/
theorem rd_congr {s u : State} (h : u.flds = s.flds) (f : Fld) (i : Nat) : rd f i u = rd f i s := by
  simp only [rd, h]

/-- Writing what a field reads as changes nothing. -/
theorem wr_same {s : State} (h : Map.wf (fun _ => 0) s.flds = true) (f : Fld) (i : Nat) (hw : rd f i s < 2 ^ f.w) : wr f i (rd f i s) s = s := by
  have e : (rd f i s % 2 ^ f.w) ^^^ f.rst0 i = Map.get (fun _ => 0) s.flds (f.key i) := by
    rw [Nat.mod_eq_of_lt hw]; simp only [rd]; rw [Nat.xor_assoc, Nat.xor_self, Nat.xor_zero]
  simp only [wr, e, map_set_same _ h]

/-! ### Sub-states -/

theorem tile_setTile {s : State} (h : Map.wf (fun _ => ({} : TileSt)) s.tiles = true) (t r : Nat) (x : TileSt) :
    tile r (setTile t x s) = if r = t then x else tile r s := map_get_set _ h t r x

theorem station_setStation {s : State} (h : Map.wf (fun _ => ({} : StationSt)) s.stations = true) (n m : Nat) (x : StationSt) :
    station m (setStation n x s) = if m = n then x else station m s := map_get_set _ h n m x

theorem port_setPort {s : State} (h : Map.wf (fun _ => ({} : Port)) s.ports = true) (p q : Nat) (x : Port) :
    port q (setPort p x s) = if q = p then x else port q s := map_get_set _ h p q x

theorem shunt_setShunt {s : State} (h : Map.wf (fun _ => ({} : Machine.Shunt)) s.shunts = true) (c k : Nat) (x : Machine.Shunt) :
    Machine.shunt k (setShunt c x s) = if k = c then x else Machine.shunt k s := map_get_set _ h c k x

theorem coll_setColl {s : State} (h : Map.wf (fun _ => ({} : Machine.Coll)) s.colls = true) (c k : Nat) (x : Machine.Coll) :
    Machine.coll k (setColl c x s) = if k = c then x else Machine.coll k s := map_get_set _ h c k x

theorem core_setCore {s : State} (h : Map.wf (fun _ => ({} : TileSt)) s.tiles = true) (t r : Nat) (c : Core) :
    Machine.core r (setCore t c s) = if r = t then c else Machine.core r s := by
  simp only [Machine.core, setCore]
  rw [tile_setTile h]
  split <;> simp_all

theorem lrow_setCore {s : State} (h : Map.wf (fun _ => ({} : TileSt)) s.tiles = true) (t r : Nat) (c : Core) : lrow r (setCore t c s) = lrow r s := by
  simp only [lrow, setCore]
  rw [tile_setTile h]
  split <;> simp_all

theorem lrow_setLr {s : State} (h : Map.wf (fun _ => ({} : TileSt)) s.tiles = true) (t r : Nat) (l : LaneRow) :
    lrow r (setLr t l s) = if r = t then l else lrow r s := by
  simp only [lrow, setLr]
  rw [tile_setTile h]
  split <;> simp_all

theorem core_setLr {s : State} (h : Map.wf (fun _ => ({} : TileSt)) s.tiles = true) (t r : Nat) (l : LaneRow) :
    Machine.core r (setLr t l s) = Machine.core r s := by
  simp only [Machine.core, setLr]
  rw [tile_setTile h]
  split <;> simp_all

@[simp] theorem tile_wr (r : Nat) (f : Fld) (i v : Nat) (s : State) : tile r (wr f i v s) = tile r s := rfl
@[simp] theorem core_wr (r : Nat) (f : Fld) (i v : Nat) (s : State) : Machine.core r (wr f i v s) = Machine.core r s := rfl
@[simp] theorem lrow_wr (r : Nat) (f : Fld) (i v : Nat) (s : State) : lrow r (wr f i v s) = lrow r s := rfl
@[simp] theorem station_wr (n : Nat) (f : Fld) (i v : Nat) (s : State) : station n (wr f i v s) = station n s := rfl
@[simp] theorem port_wr (p : Nat) (f : Fld) (i v : Nat) (s : State) : port p (wr f i v s) = port p s := rfl
@[simp] theorem shunt_wr (c : Nat) (f : Fld) (i v : Nat) (s : State) : Machine.shunt c (wr f i v s) = Machine.shunt c s := rfl
@[simp] theorem coll_wr (k : Nat) (f : Fld) (i v : Nat) (s : State) : Machine.coll k (wr f i v s) = Machine.coll k s := rfl
@[simp] theorem rd_setTile (f : Fld) (i t : Nat) (x : TileSt) (s : State) : rd f i (setTile t x s) = rd f i s := rfl
@[simp] theorem rd_setCore (f : Fld) (i t : Nat) (c : Core) (s : State) : rd f i (setCore t c s) = rd f i s := rfl
@[simp] theorem rd_setLr (f : Fld) (i t : Nat) (l : LaneRow) (s : State) : rd f i (setLr t l s) = rd f i s := rfl
@[simp] theorem rd_setStation (f : Fld) (i n : Nat) (x : StationSt) (s : State) : rd f i (setStation n x s) = rd f i s := rfl
@[simp] theorem rd_setPort (f : Fld) (i p : Nat) (x : Port) (s : State) : rd f i (setPort p x s) = rd f i s := rfl
@[simp] theorem rd_setShunt (f : Fld) (i c : Nat) (x : Machine.Shunt) (s : State) : rd f i (setShunt c x s) = rd f i s := rfl
@[simp] theorem rd_setColl (f : Fld) (i k : Nat) (x : Machine.Coll) (s : State) : rd f i (setColl k x s) = rd f i s := rfl
@[simp] theorem rd_setTag (f : Fld) (i k : Nat) (u : Option TagUse) (s : State) : rd f i (setTag k u s) = rd f i s := rfl
@[simp] theorem rd_setCells (f : Fld) (i : Nat) (l : List (Nat × Byte)) (s : State) : rd f i (setCells l s) = rd f i s := rfl
@[simp] theorem rd_hostWrite (f : Fld) (i a : Nat) (d : List Byte) (s : State) : rd f i (hostWrite a d s) = rd f i s := rfl

/-! ### What an operation may change -/

theorem bump_frame (f : Fld) (i n : Nat) (s : State) : { bump f i n s with flds := s.flds } = s := rfl
theorem satBump_frame (f : Fld) (i n : Nat) (s : State) : { satBump f i n s with flds := s.flds } = s := rfl
theorem wrBit_frame (f : Fld) (i k : Nat) (b : Bool) (s : State) : { wrBit f i k b s with flds := s.flds } = s := rfl

theorem event_frame (n code detail arg : Nat) (s : State) : { event n code detail arg s with flds := s.flds, boxes := s.boxes } = s := by
  unfold event; split <;> rfl

theorem msixSend_frame (v : Nat) (s : State) : { msixSend v s with flds := s.flds, hostOut := s.hostOut } = s := by
  unfold msixSend; split <;> rfl

theorem msix_frame (src : Nat) (s : State) : { msix src s with flds := s.flds, hostOut := s.hostOut } = s := msixSend_frame _ s

theorem inject_frame (p : Pkt) (s : State) : { inject p s with flds := s.flds, injq := s.injq } = s := rfl

theorem requestAs_frame (src : Nat) (who : Requester) (p : Pkt) (s : State) :
    { requestAs src who p s with flds := s.flds, injq := s.injq, tags := s.tags, tagq := s.tagq } = s := by
  unfold requestAs; split <;> rfl

theorem request_frame (who : Requester) (p : Pkt) (s : State) : { request who p s with flds := s.flds, injq := s.injq, tags := s.tags, tagq := s.tagq } = s :=
  requestAs_frame _ who p s

theorem tagFree_frame (k : Nat) (s : State) : { tagFree k s with flds := s.flds, injq := s.injq, tags := s.tags, tagq := s.tagq } = s := by
  unfold tagFree; dsimp only; split <;> rfl

theorem cutState_frame (v : Nat) (s : State) :
    { cutState v s with flds := s.flds, boxes := s.boxes, cut := { (cutState v s).cut with shown := s.cut.shown } } = s := by
  unfold cutState event; split <;> rfl

theorem cutEvent_frame (s : State) : { cutEvent s with flds := s.flds, hostOut := s.hostOut } = s := by
  unfold cutEvent msix msixSend; split <;> rfl

/-- From `s` to `u` nothing changes but register fields, signal boxes, what the host is sent, the sweep, event numbers, injected packets, tags and what waits for them, and the refusal that the cut status shows. -/
structure Book (s u : State) : Prop where
  same : { u with flds := s.flds, boxes := s.boxes, hostOut := s.hostOut, sweep := s.sweep, itgSeq := s.itgSeq, injq := s.injq, tags := s.tags, tagq := s.tagq,
                  cut := { u.cut with shown := s.cut.shown } } = s

theorem Book.refl (s : State) : Book s s := ⟨rfl⟩

theorem Book.trans {s u v : State} (h : Book s u) (h' : Book u v) : Book s v := by
  refine ⟨?_⟩
  have e := congrArg (fun x : State => { x with flds := s.flds, boxes := s.boxes, hostOut := s.hostOut, sweep := s.sweep, itgSeq := s.itgSeq, injq := s.injq, tags := s.tags, tagq := s.tagq, cut := { x.cut with shown := s.cut.shown } }) h'.same
  exact e.trans h.same

theorem Book.mem {s u : State} (h : Book s u) : u.mem = s.mem := by have e := congrArg State.mem h.same; exact e
theorem Book.tiles {s u : State} (h : Book s u) : u.tiles = s.tiles := by have e := congrArg State.tiles h.same; exact e
theorem Book.stations {s u : State} (h : Book s u) : u.stations = s.stations := by have e := congrArg State.stations h.same; exact e
theorem Book.ports {s u : State} (h : Book s u) : u.ports = s.ports := by have e := congrArg State.ports h.same; exact e
theorem Book.host {s u : State} (h : Book s u) : u.host = s.host := by have e := congrArg State.host h.same; exact e
theorem Book.cut {s u : State} (h : Book s u) : { u.cut with shown := s.cut.shown } = s.cut := by have e := congrArg State.cut h.same; exact e
theorem Book.itg {s u : State} (h : Book s u) : u.itg = s.itg := by have e := congrArg State.itg h.same; exact e
theorem Book.notices {s u : State} (h : Book s u) : u.notices = s.notices := by have e := congrArg State.notices h.same; exact e
theorem Book.pending {s u : State} (h : Book s u) : u.pending = s.pending := by have e := congrArg State.pending h.same; exact e
theorem Book.chk {s u : State} (h : Book s u) : u.chk = s.chk := by have e := congrArg State.chk h.same; exact e

theorem book_wr (f : Fld) (i v : Nat) (s : State) : Book s (wr f i v s) := ⟨rfl⟩
theorem book_bump (f : Fld) (i n : Nat) (s : State) : Book s (bump f i n s) := ⟨rfl⟩
theorem book_satBump (f : Fld) (i n : Nat) (s : State) : Book s (satBump f i n s) := ⟨rfl⟩
theorem book_wrBit (f : Fld) (i k : Nat) (b : Bool) (s : State) : Book s (wrBit f i k b s) := ⟨rfl⟩
theorem book_hostWrite (a : Nat) (d : List Byte) (s : State) : Book s (hostWrite a d s) := ⟨rfl⟩
theorem book_setTag (k : Nat) (u : Option TagUse) (s : State) : Book s (setTag k u s) := ⟨rfl⟩
theorem book_event (n code detail arg : Nat) (s : State) : Book s (event n code detail arg s) := by unfold event; split <;> exact ⟨rfl⟩
theorem book_msix (src : Nat) (s : State) : Book s (msix src s) := by unfold msix msixSend; split <;> exact ⟨rfl⟩
theorem book_request (who : Requester) (p : Pkt) (s : State) : Book s (request who p s) := by unfold request requestAs; split <;> exact ⟨rfl⟩
theorem book_inject (p : Pkt) (s : State) : Book s (inject p s) := ⟨rfl⟩
theorem book_shown (s : State) : Book s { s with cut := { s.cut with shown := none } } := ⟨rfl⟩
theorem book_cutState (v : Nat) (s : State) : Book s (cutState v s) := ((book_shown s).trans (book_wr _ _ _ _)).trans (book_event _ _ _ _ _)
theorem book_cutEvent (s : State) : Book s (cutEvent s) := (book_wr _ _ _ _).trans (book_msix _ _)

theorem book_sweepEnd (s : State) : Book s (sweepEnd s) := by
  unfold sweepEnd; split
  · exact ((book_wr _ _ _ _).trans (book_cutState _ _)).trans (book_cutEvent _)
  · exact Book.refl s

theorem book_sweepArmed (s : State) : Book s (sweepArmed s) := ⟨rfl⟩

theorem book_cutDamage (reason : Nat) (s : State) : Book s (cutDamage reason s) := by
  unfold cutDamage; simp only; split
  · exact Book.refl s
  · exact (((((book_wr _ _ _ _).trans (book_wr _ _ _ _)).trans (book_wr _ _ _ _)).trans (book_sweepArmed _)).trans (book_sweepEnd _))

theorem Book.wr {s u : State} (h : Book s u) (f : Fld) (i v : Nat) : Book s (Machine.wr f i v u) := h.trans (book_wr f i v u)
theorem Book.bump {s u : State} (h : Book s u) (f : Fld) (i n : Nat) : Book s (Machine.bump f i n u) := h.wr f i _

theorem book_errRecord (st kind addr symbol src : Nat) (s : State) : Book s (errRecord st kind addr symbol src s) := by
  unfold errRecord
  simp only
  generalize rd MST_ERR_HEAD_pending st s = p
  have h1 : Book s (if p ≥ 16 then wr MST_ERR_HEAD_overflow st 1 s else s) := by split <;> exact ⟨rfl⟩
  generalize (if p ≥ 16 then wr MST_ERR_HEAD_overflow st 1 s else s) = s1 at h1 ⊢
  have h2 : ∀ u, Book s u → Book s (if kind = 1 then u else msix (192 + st) u) := fun u h => by
    split
    · exact h
    · exact h.trans (book_msix _ _)
  apply h2
  apply Book.wr
  apply Book.bump
  repeat apply Book.wr
  exact h1

theorem itgEvent_frame (kind tile other detail cmd arg : Nat) (s : State) :
    { itgEvent kind tile other detail cmd arg s with flds := s.flds, hostOut := s.hostOut, itgSeq := s.itgSeq } = s := by
  unfold itgEvent; simp only; split
  · rfl
  · unfold msix msixSend; split <;> rfl

/-! ### What is sent to the host, and what waits for boot (R381, R395, R396) -/

theorem hostSend_on {s : State} (h : s.boot.masterOff = false) (w : HostWr) : hostSend w s = { s with hostOut := s.hostOut ++ [w] } := by
  simp [hostSend, h]

theorem hostSend_off {s : State} (h : s.boot.masterOff = true) (w : HostWr) : hostSend w s = s := by simp [hostSend, h]

theorem hostSend_frame (w : HostWr) (s : State) : { hostSend w s with hostOut := s.hostOut } = s := rfl

theorem afterLock_locked {s : State} (h : bootLocked s = true) (f : State → State) : afterLock f s = f s := by simp [afterLock, h]

theorem afterLock_early {s : State} (h : bootLocked s = false) (f : State → State) : afterLock f s = s := by simp [afterLock, h]

/-- A PING or ECHO cell finds its place within its own port (R251). -/
theorem cellNow_frame (p : Nat) (c : BitVec 128) (s : State) : { cellNow p c s with ports := s.ports } = s := by
  have hp (x : Port) : { setPort p x s with ports := s.ports } = s := rfl
  simp only [cellNow]
  repeat' split
  all_goals exact hp _

end Sys2Proof.Laws
end

