-- ==== Sys2Proof/Laws/Settle.lean ====
section
/-! SUPPORT. The end of a command: in a quiet state nothing follows, and after it no report waits. -/

namespace Sys2Proof.Laws
open Sys2Proof Sys2Proof.Machine

theorem on_eq_false {f : Fld} {i : Nat} {s : State} (h : rd f i s = 0) : on f i s = false := by simp [on, h]

theorem cutDead_quiet {s : State} (h : Quiet s) : cutDead s = s := by
  unfold cutDead; rw [h.1.2.1]; rfl

theorem logClose_quiet {s : State} (h : Quiet s) : logClose s = s := by
  unfold logClose; rw [on_eq_false h.2.1]; rfl

theorem drainBegin_quiet {s : State} (h : Quiet s) : drainBegin s = s := by
  unfold drainBegin cutSt
  rw [if_pos (by simp [h.2.2.1])]

theorem drainPump_quiet {s : State} (h : Quiet s) : drainPump s = s := by
  unfold drainPump cutSt
  rw [if_pos (by simp [h.2.2.2])]

theorem mirPump_quiet {s : State} (h : Quiet s) : mirPump s = s := by
  unfold mirPump; rw [h.1.2.2.1]; rfl

theorem xpendGo_quiet {s : State} (h : Quiet s) : xpendGo s = s := by
  unfold xpendGo; rw [h.1.2.2.2.2.2.2]

theorem repeatWaiting_quiet {s : State} (h : Quiet s) : repeatWaiting s = s := by
  unfold repeatWaiting
  have e : ∀ (l : List Cmd), (∀ c ∈ l, c.phase ≠ 2) → l.foldl (fun s c => if c.phase == 2 then repeatCmd c s else s) s = s := by
    intro l
    induction l with
    | nil => intro _; rfl
    | cons c l ih =>
      intro hl
      rw [List.foldl_cons, if_neg (by simpa using hl c (by simp))]
      exact ih fun x hx => hl x (by simp [hx])
  exact e _ h.1.2.2.2.2.1

theorem possForced_quiet {s : State} (h : Quiet s) (d : Nat) : possForced d s = s := by
  have e : ∀ m : Map Poss, (∀ e ∈ m, e.2.st = 1 → e.2.forced = false) → (Map.get (fun _ => ({} : Poss)) m d).st = 1 → (Map.get (fun _ => ({} : Poss)) m d).forced = false := by
    intro m
    induction m with
    | nil => intro _ _; rfl
    | cons x m ih =>
      intro hm
      simp only [Map.get]
      split
      · exact hm x (by simp)
      · split
        · intro _; rfl
        · exact ih fun y hy => hm y (by simp [hy])
  have e1 := e s.itg.poss h.1.2.2.2.2.2.1
  unfold possForced
  rw [h.1.2.2.2.1]
  simp only [List.find?_nil]
  split
  · rfl
  · rw [if_neg fun c => Bool.noConfusion ((e1 c.1).symm.trans c.2)]

theorem goOn_quiet {s : State} (h : Quiet s) : goOn s = s := by
  unfold goOn
  rw [cutDead_quiet h, logClose_quiet h, drainBegin_quiet h, drainPump_quiet h, mirPump_quiet h, xpendGo_quiet h, repeatWaiting_quiet h, possForced_quiet h, possForced_quiet h]

theorem handleAll_quiet {s : State} (h : s.notices = []) : handleAll s = s := by
  unfold handleAll; rw [h, List.foldl_nil]
  cases s; simp only at h; subst h; rfl

theorem settleN_quiet {s : State} (h : Quiet s) (n : Nat) : settleN n s = s := by
  cases n with
  | zero => unfold settleN; cases s; have := h.1.1; simp only at this; subst this; rfl
  | succ n =>
    unfold settleN
    simp only [handleAll_quiet h.1.1, goOn_quiet h]
    rw [if_pos (by simp [h.1.1])]

/-- In a quiet state nothing follows when a command ends. -/
theorem settleAll_quiet {s : State} (h : Quiet s) : settleAll s = s := settleN_quiet h settleFuel

/-- With no report, nothing follows. -/
theorem settle_none {s : State} (h : s.notices = []) : settle s = s := by
  unfold settle; rw [h]; rfl

theorem settleN_notices (n : Nat) (s : State) : (settleN n s).notices = [] := by
  induction n generalizing s with
  | zero => rfl
  | succ n ih =>
    unfold settleN
    simp only
    split
    · exact List.isEmpty_iff.mp ‹_›
    · split
      · rfl
      · exact ih _

theorem settleAll_notices (s : State) : (settleAll s).notices = [] := settleN_notices _ s

theorem settle_notices (s : State) : (settle s).notices = [] := by
  unfold settle; split
  · exact List.isEmpty_iff.mp ‹_›
  · exact settleAll_notices s

/-- Quiet depends on the parts of the state that it names. -/
theorem quiet_congr {s u : State} (h : Quiet s) (hn : u.notices = s.notices) (hc : u.cut = s.cut) (hi : u.itg = s.itg) (hh : u.host = s.host)
    (h1 : rd CUT_STATUS_log_open 0 u = rd CUT_STATUS_log_open 0 s) (h2 : rd CUT_STATUS_state 0 u = rd CUT_STATUS_state 0 s) : Quiet u := by
  unfold Quiet NoneWaits at h ⊢
  rw [hn, hc, hi, hh, h1, h2]; exact h

end Sys2Proof.Laws
end

