-- ==== Sys2Proof/Laws/Issue.lean ====
section
/-! SUPPORT. Issue of a slot instruction that stands alone in its long word: when it decodes, raises, is held, and what its issue does. -/

namespace Sys2Proof.Laws
open Sys2Proof Sys2Proof.Machine

theorem interval8 {k : Nat} (h : k < 8) : k = 0 ∨ k = 1 ∨ k = 2 ∨ k = 3 ∨ k = 4 ∨ k = 5 ∨ k = 6 ∨ k = 7 := by omega

/-- Every slot stands in one of the eight. -/
theorem wf_slot_lt {x : SlotIn} (h : x.wf = true) : x.k < 8 := by
  simp only [SlotIn.wf, Bool.and_eq_true] at h
  have h1 := h.1
  rw [List.contains_iff_mem] at h1
  revert h1
  cases x.op <;> simp only [SlotOp.slots] <;> (try split) <;> simp <;> omega

theorem range8 : List.range 8 = [0, 1, 2, 3, 4, 5, 6, 7] := by decide

theorem foldl_slot {α : Type} {x : SlotIn} (hk : x.k < 8) (F : SlotIn → α → α) (s : α) :
    slotOrder.foldl (fun s k => [x].foldl (fun s x => if x.k == k then F x s else s) s) s = F x s := by
  simp only [slotOrder, List.foldl_cons, List.foldl_nil]
  rcases interval8 hk with h | h | h | h | h | h | h | h <;> rw [h] <;> rfl

/-- A well-formed slot that breaks no loop rule has no decoding fault (R115, R122). -/
theorem decFault_one {c : Core} {idx : Nat} {x : SlotIn} (hw : x.wf = true) (hl : loopFault c idx x = false) : decFault c idx [] [x] = none := by
  unfold decFault
  rw [List.find?_eq_none]
  intro k _
  simp [hw, hl]
  intro e h; omega

/-- A slot that raises nothing: the long word raises nothing. -/
theorem opFault_one {t : Nat} {c : Core} {x : SlotIn} {s : State} (h : slotFault t c x s = none) : opFault t c [x] s = none := by
  unfold opFault
  rw [List.findSome?_eq_none_iff]
  intro k _
  simp [h]

/-- A slot that raises: the long word raises it at that slot. -/
theorem opFault_raises {t : Nat} {c : Core} {x : SlotIn} {s : State} (hk : x.k < 8) {code : Nat} {a : Option Nat} (h : slotFault t c x s = some (code, a)) :
    opFault t c [x] s = some (x.k, code, a) := by
  unfold opFault
  rw [range8]
  rcases interval8 hk with e | e | e | e | e | e | e | e <;> simp [List.findSome?, h, e]

theorem wordHold_one {t : Nat} {c : Core} {x : SlotIn} {s : State} (h : slotHold t c x s = none) : wordHold t c [x] s = none := by
  unfold wordHold
  simp [h]

/-- A ready slot issues: it takes effect, and the index goes on. -/
theorem slot_issues {t : Nat} {x : SlotIn} {s : State} (h : Ready t x s) (hl : loopFault (Machine.core t s) (nextIx t s) x = false)
    (hf : slotFault t (Machine.core t s) x s = none) (hh : slotHold t (Machine.core t s) x s = none) :
    slot t x.k x.pg x.pn x.op s = doIssue t [x] s := by
  obtain ⟨_, hw, hc, hn, hp, hi, hil, _, _⟩ := h
  unfold slot issue
  simp only [hc, hn, hw, hp, decFault_one hw hl, hil, opFault_one hf, wordHold_one hh]
  simp [Nat.not_lt.mpr hi]

/-- A ready slot that raises an operand exception (R134). -/
theorem slot_raises {t : Nat} {x : SlotIn} {s : State} (h : Ready t x s) (hl : loopFault (Machine.core t s) (nextIx t s) x = false)
    {code : Nat} {a : Option Nat} (hf : slotFault t (Machine.core t s) x s = some (code, a)) :
    slot t x.k x.pg x.pn x.op s = precise t x.k code a (Machine.core t s) [x] s := by
  obtain ⟨_, hw, hc, hn, hp, hi, hil, _, _⟩ := h
  unfold slot issue
  simp only [hc, hn, hw, hp, decFault_one hw hl, hil, opFault_raises (wf_slot_lt hw) hf]
  simp [Nat.not_lt.mpr hi]

theorem traceWord_untraced {t : Nat} {u : State} (h : traced t u = false) (idx slots : Nat) (taken exc : Bool) : traceWord t idx slots taken exc u = u := by
  unfold traceWord; rw [h]; rfl

/-- Whether a tile is traced depends on the fields alone. -/
theorem traced_congr {s u : State} (h : u.flds = s.flds) (t : Nat) : traced t u = traced t s := by
  simp only [traced, on, rd, h]

/-- A slot that accesses nothing meets no watchpoint. -/
theorem wordWatch_none {t : Nat} {c : Core} {x : SlotIn} (h : accOf c x.op = none) (s : State) : wordWatch t c [x] s = s := by
  unfold wordWatch; simp [h]

/-- An issued slot outside the branch slot of a tile that is neither traced nor stepped: its effect, then the next index, or the start of a loop that ends here (R122). -/
theorem doIssue_one {t : Nat} {x : SlotIn} {s : State} (hk : x.k < 8) (h2 : x.k ≠ 2) 
    (ht : traced t (wordWatch t (Machine.core t s) [x] (runSlot t (nextIx t s) s (Machine.core t s) x s)) = false) :
    doIssue t [x] s =
      (let u := wordWatch t (Machine.core t s) [x] (runSlot t (nextIx t s) s (Machine.core t s) x s)
       let e := loopEnds (nextIx t s) (Machine.core t s).loops
       let v := setCoreState t 1 (setNext t e.1 (modCore t (fun q => { q with loops := e.2, longWords := q.longWords + 1, heldTotal := q.heldTotal + q.heldCycles, heldCycles := 0, hold := none }) u))
       if (Machine.core t v).stepping then stopCore t v else v) := by
  unfold doIssue branchFlow
  have e : ([x].find? fun x => x.k == 2 && (Machine.core t s).takes x.pg x.pn) = none := by simp [h2]
  have ef := foldl_slot hk (fun x u => runSlot t (nextIx t s) s (Machine.core t s) x u) s
  simp only [e]
  rw [ef]
  simp only [Option.isSome_none, traceWord_untraced ht]

end Sys2Proof.Laws
end

