-- ==== Sys2Proof/Laws/Mem.lean ====
section
/-! SUPPORT. Device memory: every memory operation keeps its canonical form, which reset has; and what a byte reads as after bytes are written. -/

namespace Sys2Proof.Laws
open Sys2Proof Sys2Proof.Machine

/-! ### The canonical form -/

theorem reset_mem_wf : Memory.wf State.reset.mem = true := rfl

theorem Book.memWf {s u : State} (h : Book s u) (hw : Memory.wf s.mem = true) : Memory.wf u.mem = true := by rw [h.mem]; exact hw

theorem setCells_memWf {s : State} (l : List (Nat × Byte)) (h : Memory.wf s.mem = true) : Memory.wf (setCells l s).mem = true := by
  have e := map_foldl_set_wf (fun _ => 0#8) l (fun _ c => c.1) (fun _ c => c.2) h
  exact e

theorem readSector_memWf {s : State} (cls x : Nat) (h : Memory.wf s.mem = true) : Memory.wf (readSector cls x s).2.mem = true := by
  unfold readSector
  split
  · exact h
  · dsimp only
    refine Book.memWf (book_errRecord _ _ _ _ _ _) (Book.memWf (book_bump _ _ _ _) ?_)
    have e : ∀ u : State, Memory.wf u.mem = true → Memory.wf (setChk x 0#32 u).mem = true := fun _ h => h
    apply e
    split
    · exact setCells_memWf _ h
    · exact h
  · dsimp only
    exact Book.memWf (book_errRecord _ _ _ _ _ _) (Book.memWf (book_bump _ _ _ _) h)
  · dsimp only
    exact Book.memWf (book_errRecord _ _ _ _ _ _) (Book.memWf (book_bump _ _ _ _) h)

theorem readStateWord_mem (x : Nat) (s : State) : (readStateWord x s).2.mem = s.mem := by
  unfold readStateWord
  simp only
  split
  · rfl
  · simp only
    split
    · rw [(book_cutDamage _ _).mem]; exact (book_errRecord _ _ _ _ _ _).mem
    · exact (book_errRecord _ _ _ _ _ _).mem

theorem setPushed_mem (x : Nat) (b : Bool) (s : State) : (setPushed x b s).mem = s.mem := readStateWord_mem x s

theorem isPushed_mem (x : Nat) (s : State) : (isPushed x s).2.mem = s.mem := readStateWord_mem x s

/-- A fold of operations that keep the canonical form keeps it. -/
theorem foldl_memWf {α : Type} (f : State → α → State) (hf : ∀ s x, Memory.wf s.mem = true → Memory.wf (f s x).mem = true) (l : List α) {s : State}
    (h : Memory.wf s.mem = true) : Memory.wf (l.foldl f s).mem = true := by
  induction l generalizing s with
  | nil => exact h
  | cons x l ih => exact ih (hf s x h)

/-- What wakes the islands that hold memory leaves its bytes as they are. -/
theorem refresh_mem (st d : Nat) (s : State) : (refresh st d s).mem = s.mem := by
  unfold refresh; dsimp only; split <;> rfl

theorem wakeIsl_mem (i : Nat) (s : State) : (wakeIsl i s).mem = s.mem := by
  unfold wakeIsl
  dsimp only
  split
  · rfl
  · show (if _ then _ else s : State).mem = s.mem
    split
    · have h : ∀ (l : List Nat) (u : State), u.mem = s.mem → (l.foldl (fun s d => refresh i d s) u).mem = s.mem := by
        intro l
        induction l with
        | nil => exact fun u h => h
        | cons d l ih => exact fun u h => ih _ ((refresh_mem i d u).trans h)
      exact h _ _ rfl
    · rfl

/-- A wake leaves the bytes of memory as they are. -/
theorem wakeMem_mem (a : Nat) (s : State) : (wakeMem a s).mem = s.mem := by
  unfold wakeMem; split <;> first | exact wakeIsl_mem _ _ | rfl

theorem wakeMem_memWf {s : State} (a : Nat) (h : Memory.wf s.mem = true) : Memory.wf (wakeMem a s).mem = true := by rw [wakeMem_mem]; exact h

theorem imgStore_memWf {s : State} (a : Nat) (d : List Byte) (poison : Bool) (h : Memory.wf s.mem = true) : Memory.wf (imgStore a d poison s).mem = true := by
  unfold imgStore
  refine setCells_memWf _ (foldl_memWf _ (fun s x h => ?_) _ h)
  replace h := wakeMem_memWf x h
  generalize wakeMem x s = s at h ⊢
  dsimp only
  split
  · split
    · exact h
    · exact readSector_memWf 6 x h
  · exact h
  · exact h

theorem imgWrite_memWf {s : State} (who : Requester) (kind coord a : Nat) (d : List Byte) (poison : Bool) (h : Memory.wf s.mem = true) :
    Memory.wf (imgWrite who kind coord a d poison s).mem = true := by
  unfold imgWrite
  split_ifs
  · exact h
  · exact Book.memWf (book_request _ _ _) h
  · exact Book.memWf (book_cutDamage _ _) h
  · exact imgStore_memWf _ _ _ h

theorem sendPush_memWf {s : State} (st : Nat) (h : Memory.wf s.mem = true) : Memory.wf (sendPush st s).mem = true := by
  unfold sendPush
  split
  · exact h
  · exact imgWrite_memWf _ _ _ _ _ _ h

theorem cowPush_memWf {s : State} (cls x : Nat) (h : Memory.wf s.mem = true) : Memory.wf (cowPush cls x s).mem = true := by
  unfold cowPush
  split
  · exact h
  · simp only
    have h1 : Memory.wf (isPushed x s).2.mem = true := by rw [isPushed_mem]; exact h
    split
    · exact h1
    · refine Book.memWf (book_bump _ _ _ _) ?_
      rw [setPushed_mem, wr_mem, setStation_mem]
      split
      · exact sendPush_memWf _ (readSector_memWf _ _ h1)
      · exact readSector_memWf _ _ h1

theorem book_wakeTile (t : Nat) (s : State) : Book s (wakeTile t s) := by
  unfold wakeTile; split
  · exact Book.refl s
  · exact (book_wr _ _ _ _).bump _ _ _

theorem book_wakeWindow (a : Nat) (s : State) : Book s (wakeWindow a s) := by
  unfold wakeWindow; split <;> first | exact book_wakeTile _ _ | exact Book.refl s

theorem mirPost_memWf {s : State} (m : MirWait) (h : Memory.wf s.mem = true) : Memory.wf (mirPost m s).mem = true := by
  unfold mirPost
  exact Book.memWf ((book_request _ _ _).bump _ _ _) h

theorem mirTo_memWf {s : State} (k x : Nat) (b : Bool) (h : Memory.wf s.mem = true) : Memory.wf (mirTo k x b s).mem = true := by
  unfold mirTo
  dsimp only
  split
  · exact h
  · exact mirPost_memWf _ h

theorem mirSend_memWf {s : State} (x : Nat) (h : Memory.wf s.mem = true) : Memory.wf (mirSend x s).mem = true :=
  foldl_memWf _ (fun _ k h => mirTo_memWf k x _ h) _ h

theorem readStoreWord_mem (a : Nat) (s : State) : (readStoreWord a s).2.mem = s.mem := by
  unfold readStoreWord
  split
  · rfl
  · exact (book_event _ _ _ _ _).mem
  · rfl

/-- A fold of reads that keep the canonical form keeps it. -/
theorem foldl_readWf {α : Type} (f : Bool × State → α → Bool × State) (hf : ∀ r x, Memory.wf r.2.mem = true → Memory.wf (f r x).2.mem = true)
    (l : List α) {r : Bool × State} (h : Memory.wf r.2.mem = true) : Memory.wf (l.foldl f r).2.mem = true := by
  induction l generalizing r with
  | nil => exact h
  | cons x l ih => exact ih (hf r x h)

theorem touchSector_memWf {s : State} (cls a n x : Nat) (h : Memory.wf s.mem = true) : Memory.wf (touchSector cls a n x s).2.mem = true := by
  unfold touchSector
  replace h := wakeMem_memWf x h
  generalize wakeMem x s = s at h ⊢
  dsimp only
  split
  · exact readSector_memWf cls x h
  · split <;> exact h
  · exact h
  · exact h
  · split
    · exact h
    · refine foldl_readWf _ (fun r i hr => ?_) _ (r := (false, s)) h
      split
      · simp only [readStoreWord_mem]; exact hr
      · exact hr

theorem touchRead_memWf {s : State} (cls a n : Nat) (h : Memory.wf s.mem = true) : Memory.wf (touchRead cls a n s).2.mem = true := by
  unfold touchRead
  refine foldl_readWf _ (fun r x hr => ?_) _ (r := (false, s)) h
  exact touchSector_memWf cls a n x hr

theorem rawRead_memWf {s : State} (cls a n : Nat) (h : Memory.wf s.mem = true) : Memory.wf (rawRead cls a n s).2.2.mem = true :=
  touchRead_memWf cls a n h

theorem writeSector_memWf {s : State} (cls x : Nat) (l : List (Nat × Byte)) (h : Memory.wf s.mem = true) : Memory.wf (writeSector cls x l s).mem = true := by
  unfold writeSector
  have h1 := cowPush_memWf cls x h
  refine mirSend_memWf _ ?_
  refine setCells_memWf _ ?_
  show Memory.wf (if _ then _ else _ : Bool × State).2.mem = true
  split
  · exact h1
  · exact readSector_memWf _ _ h1

theorem writePart_memWf {s : State} (cls x : Nat) (part : List (Nat × Byte)) (h : Memory.wf s.mem = true) : Memory.wf (writePart cls x part s).mem = true := by
  unfold writePart
  replace h := wakeMem_memWf x h
  generalize wakeMem x s = s at h ⊢
  dsimp only
  split
  · exact writeSector_memWf _ _ _ h
  · refine setCells_memWf _ ?_
    split <;> exact h
  · exact h
  · exact h
  · refine setCells_memWf _ ?_
    split
    · exact h
    · refine foldl_memWf _ (fun s i h => ?_) _ h
      split_ifs
      · exact h
      · rw [readStoreWord_mem]; exact h
      · exact h

theorem rawWrite_memWf {s : State} (cls : Nat) (l : List (Nat × Byte)) (h : Memory.wf s.mem = true) : Memory.wf (rawWrite cls l s).mem = true :=
  foldl_memWf _ (fun _ _ h => writePart_memWf _ _ _ h) _ h

theorem runWrite_memWf {s : State} (cls n a : Nat) (d : List Byte) (h : Memory.wf s.mem = true) : Memory.wf (runWrite cls n a d s).mem = true := by
  induction n generalizing a d s with
  | zero => exact h
  | succ n ih =>
    rw [runWrite]
    split
    · exact h
    · exact ih _ _ (writePart_memWf _ _ _ h)

theorem putBytes_memWf {s : State} (cls a : Nat) (d : List Byte) (h : Memory.wf s.mem = true) : Memory.wf (putBytes cls a d s).mem = true :=
  runWrite_memWf cls _ a d h

theorem book_foldl {α : Type} (f : State → α → State) (hf : ∀ s x, Book s (f s x)) (l : List α) (s : State) : Book s (l.foldl f s) := by
  induction l generalizing s with
  | nil => exact Book.refl s
  | cons x l ih => exact (hf s x).trans (ih _)

theorem book_protRefused (cls a : Nat) (w : Bool) (s : State) : Book s (protRefused cls a w s) := by
  unfold protRefused
  simp only
  split
  · exact book_bump _ _ _ _
  · exact ((((book_bump _ _ _ _).wr _ _ _).wr _ _ _).wr _ _ _).wr _ _ _

theorem book_collectorStart (d : Nat) (s : State) : Book s (collectorStart d s) := by
  unfold collectorStart
  have h : Book s (if on DBG_TRACE_CTL_enable d s then s else wr DBG_TRACE_WP_offset d 0 (wr DBG_TRACE_WP_wrapped d 0 s)) := by
    split
    · exact Book.refl s
    · exact (book_wr _ _ _ _).wr _ _ _
  exact (h.wr _ _ _).wr _ _ _

theorem book_wpApply (box : Nat) (hits : List Nat) (a : Nat) (s : State) : Book s (wpApply box hits a s) := by
  unfold wpApply
  split
  · exact Book.refl s
  · simp only
    have h1 := book_foldl (fun s k => bump DBG_WP_COUNT_count k 1 (wrBit DBG_WP_HIT_hit 0 k true s)) (fun s k => (book_wrBit _ _ _ _ s).bump _ _ _) hits s
    generalize List.foldl _ s hits = u at h1 ⊢
    split_ifs
    · exact h1
    · exact (h1.trans (((book_event _ _ _ _ _).wr _ _ _).trans (book_msix _ _))).trans (book_collectorStart _ _)
    · exact (h1.trans (((book_event _ _ _ _ _).wr _ _ _).trans (book_msix _ _))).wr _ _ _
    · exact h1.trans (((book_event _ _ _ _ _).wr _ _ _).trans (book_msix _ _))

/-- The checks of an access change no byte of memory and no unit: they count and latch, and a tile may begin to wake (R201, R407). -/
theorem book_access (cls a n : Nat) (r w : Bool) (s : State) : Book s (access cls a n r w s).2 := by
  unfold access
  split_ifs
  · exact Book.refl s
  · exact book_protRefused _ _ _ _
  · exact Book.refl s
  · exact book_wakeWindow _ _

theorem book_watched (wsrc a n : Nat) (r w : Bool) (s : State) : Book s (watched wsrc a n r w s) := by
  unfold watched; split
  · exact book_wpApply _ _ _ _
  · exact Book.refl s

theorem checkedRead_memWf {s : State} (cls src wsrc a n : Nat) (w : Bool) (h : Memory.wf s.mem = true) :
    Memory.wf (checkedRead cls src wsrc a n w s).2.2.mem = true := by
  unfold checkedRead
  have h1 := (book_access cls a n true w s).memWf h
  split <;> rename_i e <;> rw [e] at h1
  · exact (book_watched _ _ _ _ _ _).memWf (rawRead_memWf src a n h1)
  · exact (book_watched _ _ _ _ _ _).memWf h1
  · exact h1

theorem memRead_memWf {s : State} (cls wsrc a n : Nat) (h : Memory.wf s.mem = true) : Memory.wf (memRead cls wsrc a n s).2.2.mem = true :=
  checkedRead_memWf cls cls wsrc a n false h

theorem memWrite_memWf {s : State} (cls wsrc a : Nat) (d : List Byte) (h : Memory.wf s.mem = true) : Memory.wf (memWrite cls wsrc a d s).2.mem = true := by
  unfold memWrite
  have h1 := (book_access cls a d.length false true s).memWf h
  split <;> rename_i e <;> rw [e] at h1
  · exact (book_watched _ _ _ _ _ _).memWf (putBytes_memWf _ _ _ h1)
  · exact (book_watched _ _ _ _ _ _).memWf h1
  · exact h1

theorem rawAmo_memWf {s : State} (cls : Nat) (op : AmoOp) (a : Nat) (x : U64) (h : Memory.wf s.mem = true) : Memory.wf (rawAmo cls op a x s).2.2.mem = true := by
  unfold rawAmo
  simp only
  split
  · exact rawRead_memWf _ _ _ h
  · exact putBytes_memWf _ _ _ (rawRead_memWf _ _ _ h)

theorem memAmo_memWf {s : State} (cls wsrc : Nat) (op : AmoOp) (a : Nat) (x : U64) (h : Memory.wf s.mem = true) :
    Memory.wf (memAmo cls wsrc op a x s).2.2.mem = true := by
  unfold memAmo
  have h1 := (book_access cls a 8 true true s).memWf h
  split
  · exact h
  · split <;> rename_i e <;> rw [e] at h1
    · exact (book_watched _ _ _ _ _ _).memWf (rawAmo_memWf _ _ _ _ h1)
    · exact (book_watched _ _ _ _ _ _).memWf h1
    · exact h1

theorem ownNat_memWf {s : State} (a n : Nat) (h : Memory.wf s.mem = true) : Memory.wf (ownNat a n s).2.2.mem = true := rawRead_memWf 6 a n h

end Sys2Proof.Laws
end

