-- ==== Sys2Proof/Laws/Plain.lean ====
section
/-! SUPPORT. Plain memory (no mark, no poison, no error, no armed record, no mirror): a write changes the bytes written and nothing else, a read finds the bytes and changes nothing. -/

namespace Sys2Proof.Laws
open Sys2Proof Sys2Proof.Machine

/-! ### Bytes at consecutive addresses -/

theorem setCells_spread (a : Nat) (d : List Byte) (s : State) : setCells (spread a d) s = { s with mem := Map.setList (fun _ => 0#8) s.mem a d } := by
  have h : ∀ (a : Nat) (m : Map Byte), (spread a d).foldl (fun m c => Map.set (fun _ => 0#8) m c.1 c.2) m = Map.setList (fun _ => 0#8) m a d := by
    induction d with
    | nil => intro a m; rfl
    | cons b l ih => intro a m; exact ih (a + 1) _
  simp only [setCells, h]

/-- What a byte reads as after bytes are stored from `a` on. -/
theorem stored_setCells {s : State} (h : Memory.wf s.mem = true) (a : Nat) (d : List Byte) : Stored a d s (setCells (spread a d) s) := by
  intro x
  rw [setCells_spread]
  exact map_get_setList _ h a d x 0#8

theorem spread_append (a : Nat) (d e : List Byte) : spread a (d ++ e) = spread a d ++ spread (a + d.length) e := by
  induction d generalizing a with
  | nil => rfl
  | cons b l ih => simp only [List.cons_append, spread, ih, List.length_cons]; congr 2; congr 1; omega

theorem setCells_append (l m : List (Nat × Byte)) (s : State) : setCells (l ++ m) s = setCells m (setCells l s) := by
  simp only [setCells, List.foldl_append]

@[simp] theorem whereOf_setCells (x : Nat) (l : List (Nat × Byte)) (s : State) : whereOf x (setCells l s) = whereOf x s := rfl

theorem whereOf_congr {s u : State} (h : u.dens24 = s.dens24) (x : Nat) : whereOf x u = whereOf x s := by
  unfold whereOf gddrSize; rw [h]

theorem plainMem_setCells {s : State} (h : PlainMem s) (l : List (Nat × Byte)) : PlainMem (setCells l s) := h

/-! ### One sector -/

theorem stOf_lt (x : Nat) : stOf x < 28 := Nat.mod_lt _ (by decide)

theorem wakeIsl_plain {s : State} (h : PlainMem s) (i : Nat) : wakeIsl i s = s := by
  unfold wakeIsl
  have e : isl i s = 0 := by unfold isl; rw [h.2.2.2.2.2.1]; rfl
  rw [if_pos (by simp [e])]

theorem wakeMem_plain {s : State} (h : PlainMem s) (a : Nat) : wakeMem a s = s := by
  unfold wakeMem; split <;> first | exact wakeIsl_plain h _ | rfl

theorem wakeTile_plain {s : State} (h : PlainMem s) {t : Nat} (ht : t < 168) : wakeTile t s = s := by
  unfold wakeTile; rw [if_pos (by simp [h.2.2.2.2.2.2 t ht])]

theorem recOf_plain {s : State} (h : PlainMem s) (x : Nat) : recOf x s = none := by
  unfold recOf
  simp only [h.2.2.2.1 _ (stOf_lt x), Nat.zero_testBit, Bool.false_and, List.find?_eq_none]
  simp

theorem readSector_plain {s : State} (h : PlainMem s) (cls x : Nat) : readSector cls x s = (false, s) := by
  unfold readSector
  have e : decodeCw (chkAt x s) = .clean := by rw [chkAt, h.1]; rfl
  simp only [e]

theorem mirSend_plain {s : State} (h : PlainMem s) (x : Nat) : mirSend x s = s := by
  unfold mirSend mirRegions
  simp [on, h.2.2.2.2.1]

theorem setChk_plain {s : State} (h : s.chk = []) (x : Nat) : setChk x 0#32 s = s := by
  cases s; simp only at h; subst h; rfl

theorem setCxlPoison_plain {s : State} (h : s.cxlPoison = []) (x : Nat) : setCxlPoison x false s = s := by
  cases s; simp only at h; subst h; rfl

/-- Bytes written within a sector that exists: they are stored, and nothing else changes. -/
theorem writePart_plain {s : State} (h : PlainMem s) (cls x : Nat) (part : List (Nat × Byte)) (hw : whereOf x s ≠ .none ∧ whereOf x s ≠ .regs) :
    writePart cls x part s = setCells part s := by
  unfold writePart
  simp only [wakeMem_plain h]
  split
  · unfold writeSector cowPush
    simp only [recOf_plain h, readSector_plain h, ite_self]
    rw [if_neg (by simp), setChk_plain (plainMem_setCells h part).1, mirSend_plain (plainMem_setCells h part)]
  · split
    · rw [setCxlPoison_plain h.2.1]
    · rfl
  · exact absurd ‹_› hw.2
  · exact absurd ‹_› hw.1
  · simp [h.2.2.1]

theorem readStoreWord_plain {s : State} (h : PlainMem s) (a : Nat) : readStoreWord a s = (false, s) := by
  unfold readStoreWord storeErrAt
  rw [h.2.2.1]; rfl

theorem foldl_const {α β : Type} (f : β → α → β) (b : β) (l : List α) (h : ∀ x, f b x = b) : l.foldl f b = b := by
  induction l with
  | nil => rfl
  | cons x l ih => rw [List.foldl_cons, h, ih]

theorem touchSector_plain {s : State} (h : PlainMem s) (cls a n x : Nat) : touchSector cls a n x s = (false, s) := by
  unfold touchSector
  simp only [wakeMem_plain h]
  split
  · exact readSector_plain h _ _
  · simp [cxlPoisonAt, h.2.1, Map.get]
  · rfl
  · rfl
  · rw [if_pos (by simp [h.2.2.1])]

theorem rawRead_plain {s : State} (h : PlainMem s) (cls a n : Nat) : rawRead cls a n s = (cells a n s, false, s) := by
  have e : touchRead cls a n s = (false, s) := by
    unfold touchRead
    exact foldl_const _ _ _ fun x => by simp only [touchSector_plain h, Bool.false_or]
  simp only [rawRead, e]

/-! ### Runs of bytes -/

/-- First address of an area and the first address after it. -/
def areaOf (w : Where) (s : State) : Nat × Nat :=
  match w with
  | .gddr => (0, gddrSize s)
  | .cxl p => (0x100000000000 + p * 2 ^ 41, 0x100000000000 + p * 2 ^ 41 + 2 ^ 41)
  | .yard d => (0x200000000000 + d * 0x6000000, 0x200000000000 + d * 0x6000000 + 0x6000000)
  | .oper t => (0x210000000000 + t * 0x400000, 0x210000000000 + t * 0x400000 + 0x200000)
  | .prog t => (0x210000000000 + t * 0x400000 + 0x200000, 0x210000000000 + t * 0x400000 + 0x220000)
  | .regs => (0x300000000000, 0x300004000000)
  | .none => (0, 0)

theorem gddrSize_le (s : State) : gddrSize s ≤ 450971566080 ∧ gddrSize s % 64 = 0 := by
  unfold gddrSize; split <;> decide

theorem areaOf_mod (w : Where) (s : State) : (areaOf w s).1 % 64 = 0 ∧ (areaOf w s).2 % 64 = 0 := by
  have h := (gddrSize_le s).2
  cases w <;> simp only [areaOf] <;> first | omega | simp [h]

theorem whereOf_area (a : Nat) (s : State) (h0 : whereOf a s ≠ .none) : (areaOf (whereOf a s) s).1 ≤ a ∧ a < (areaOf (whereOf a s) s).2 := by
  have hg := (gddrSize_le s).1
  revert h0
  unfold whereOf
  simp only
  split_ifs <;> intro h0 <;> simp only [areaOf] <;> first | omega | exact absurd rfl h0

theorem window_at (q y : Nat) (h : y < 0x400000) :
    (0x210000000000 + (q * 0x400000 + y) - 0x210000000000) / 0x400000 = q ∧ (0x210000000000 + (q * 0x400000 + y) - 0x210000000000) % 0x400000 = y := by
  rw [Nat.add_sub_cancel_left]
  exact ⟨by rw [Nat.mul_comm, Nat.mul_add_div (by decide), Nat.div_eq_of_lt h, Nat.add_zero], by rw [Nat.mul_comm, Nat.mul_add_mod, Nat.mod_eq_of_lt h]⟩

theorem whereOf_in_area (a x : Nat) (s : State) (h0 : whereOf a s ≠ .none) (h1 : (areaOf (whereOf a s) s).1 ≤ x) (h2 : x < (areaOf (whereOf a s) s).2) :
    whereOf x s = whereOf a s := by
  have hg := (gddrSize_le s).1
  revert h0 h1 h2
  generalize e : whereOf a s = w
  unfold whereOf at e
  simp only at e
  intro h0 h1 h2
  unfold whereOf
  simp only
  split_ifs at e <;> subst e <;> simp only [areaOf] at h1 h2
  · rw [if_pos (by omega)]
  · rw [if_neg (by omega), if_pos (by omega)]; exact congrArg _ (by omega)
  · rw [if_neg (by omega), if_neg (by omega), if_pos (by omega)]; exact congrArg _ (by omega)
  · have hx : x < 0x21002A000000 := by omega
    obtain ⟨q, hq⟩ : ∃ q, q = (a - 0x210000000000) / 0x400000 := ⟨_, rfl⟩
    rw [← hq] at h1 h2 ⊢
    obtain ⟨y, rfl⟩ : ∃ y, x = 0x210000000000 + (q * 0x400000 + y) := ⟨x - (0x210000000000 + q * 0x400000), by omega⟩
    have hy : y < 0x200000 := by omega
    obtain ⟨e1, e2⟩ := window_at q y (by omega)
    rw [if_neg (by omega), if_neg (by omega), if_neg (by omega), if_pos ⟨by omega, hx⟩, e1, e2, if_pos hy]
  · have hx : x < 0x21002A000000 := by omega
    obtain ⟨q, hq⟩ : ∃ q, q = (a - 0x210000000000) / 0x400000 := ⟨_, rfl⟩
    rw [← hq] at h1 h2 ⊢
    obtain ⟨y, rfl⟩ : ∃ y, x = 0x210000000000 + (q * 0x400000 + y) := ⟨x - (0x210000000000 + q * 0x400000), by omega⟩
    have hy : 0x200000 ≤ y ∧ y < 0x220000 := by omega
    obtain ⟨e1, e2⟩ := window_at q y (by omega)
    rw [if_neg (by omega), if_neg (by omega), if_neg (by omega), if_pos ⟨by omega, hx⟩, e1, e2, if_neg (by omega), if_pos hy.2]
  · exact absurd rfl h0
  · rw [if_neg (by omega), if_neg (by omega), if_neg (by omega), if_neg (by omega), if_pos (by omega)]
  · exact absurd rfl h0

/-- Every byte of a yard half, of a tile's stores, of the GDDR7 tier or of a CXL window, and of the whole sector of its first byte, belongs to a store. -/
theorem areaEnd_where {a x : Nat} {s : State} (h : mapped1 a s = true) (h1 : a / 64 * 64 ≤ x) (h2 : x < areaEnd a s) : whereOf x s ≠ .none ∧ whereOf x s ≠ .regs := by
  have h0 : whereOf a s ≠ .none ∧ whereOf a s ≠ .regs := ⟨fun c => by simp [mapped1, c] at h, fun c => by simp [mapped1, c] at h⟩
  have ha := whereOf_area a s h0.1
  have hm := areaOf_mod (whereOf a s) s
  have hg := (gddrSize_le s).1
  have near : x < (areaOf (whereOf a s) s).2 → whereOf x s ≠ .none ∧ whereOf x s ≠ .regs := fun h => by
    rw [whereOf_in_area a x s h0.1 (by omega) h]; exact h0
  by_cases c : x < (areaOf (whereOf a s) s).2
  · exact near c
  · revert h2 c ha
    unfold areaEnd
    generalize hw : whereOf a s = w
    cases w with
    | gddr => intro h2 ha c; exact absurd h2 c
    | cxl p => intro h2 ha c; dsimp only at h2; simp only [areaOf] at c; omega
    | yard d =>
      intro h2 ha c
      dsimp only at h2
      simp only [areaOf] at ha c
      have e : whereOf x s = .yard ((x - 0x200000000000) / 0x6000000) := by
        unfold whereOf; rw [if_neg (by omega), if_neg (by omega), if_pos (by omega)]
      rw [e]; simp
    | oper t =>
      intro h2 ha c
      dsimp only at h2
      simp only [areaOf, winAddr] at ha h2 c
      have ht : t < 168 := by
        have hl : a < 0x21002A000000 := by
          by_contra hc
          unfold whereOf at hw
          rw [if_neg (by omega), if_neg (by omega), if_neg (by omega), if_neg (by omega)] at hw
          split at hw <;> exact Where.noConfusion hw
        omega
      obtain ⟨y, rfl⟩ : ∃ y, x = 0x210000000000 + (t * 0x400000 + y) := ⟨x - (0x210000000000 + t * 0x400000), by omega⟩
      obtain ⟨e1, e2⟩ := window_at t y (by omega)
      have e : whereOf (0x210000000000 + (t * 0x400000 + y)) s = .prog t := by
        unfold whereOf
        simp only
        rw [if_neg (by omega), if_neg (by omega), if_neg (by omega), if_pos (by omega), e1, e2, if_neg (by omega), if_pos (by omega)]
      rw [e]; simp
    | prog t => intro h2 ha c; dsimp only at h2; simp only [areaOf, winAddr] at h2 c; omega
    | regs => exact absurd hw h0.2
    | none => exact absurd hw h0.1

theorem mapEnd_where {n a x : Nat} {s : State} (h : mapped1 a s = true) (h1 : a / 64 * 64 ≤ x) (h2 : x < mapEnd n a s) :
    whereOf x s ≠ .none ∧ whereOf x s ≠ .regs := by
  induction n generalizing a with
  | zero => exact areaEnd_where h h1 h2
  | succ n ih =>
    by_cases c : x < areaEnd a s
    · exact areaEnd_where h h1 c
    · rw [mapEnd] at h2
      split at h2
      · exact ih ‹_› (by omega) h2
      · exact absurd h2 c

/-- Every byte of a mapped range, and of the whole sector of its first byte, belongs to a store. -/
theorem mapped_where {a n x : Nat} {s : State} (h : mapped a n s = true) (hn : n ≠ 0) (h1 : a / 64 * 64 ≤ x) (h2 : x < a + n) :
    whereOf x s ≠ .none ∧ whereOf x s ≠ .regs := by
  unfold mapped at h
  simp only [Bool.or_eq_true, Bool.and_eq_true, decide_eq_true_eq, beq_iff_eq, hn, false_or] at h
  exact mapEnd_where h.1 h1 (Nat.lt_of_lt_of_le h2 h.2)

theorem runWrite_plain {s : State} (h : PlainMem s) (cls n a : Nat) (d : List Byte) (hn : d.length + a % 64 ≤ 64 * n)
    (hw : ∀ x, a / 64 * 64 ≤ x → x < a + d.length → whereOf x s ≠ .none ∧ whereOf x s ≠ .regs) :
    runWrite cls n a d s = setCells (spread a d) s := by
  induction n generalizing a d s with
  | zero =>
    have : d = [] := List.eq_nil_of_length_eq_zero (by omega)
    subst this; rfl
  | succ n ih =>
    rw [runWrite]
    cases hd : d with
    | nil => rfl
    | cons b l =>
      rw [← hd]
      have hl : 0 < d.length := by simp [hd]
      rw [if_neg (by simp [hd])]
      dsimp only
      have hk : a % 64 < 64 := Nat.mod_lt _ (by decide)
      rw [writePart_plain h cls _ _ (hw _ (by unfold sectorOf; omega) (by unfold sectorOf; omega))]
      rw [ih (plainMem_setCells h _) (a + (64 - a % 64)) (d.drop (64 - a % 64)) ?_ ?_]
      · rw [← setCells_append]
        by_cases c : 64 - a % 64 ≤ d.length
        · conv_rhs => rw [← List.take_append_drop (64 - a % 64) d, spread_append, List.length_take, Nat.min_eq_left c]
        · rw [List.take_of_length_le (by omega), List.drop_eq_nil_of_le (by omega)]; simp [spread]
      · rw [List.length_drop]; omega
      · intro x h1 h2
        rw [List.length_drop] at h2
        rw [whereOf_setCells]
        exact hw x (by omega) (by omega)

/-- Bytes written from `a` on in a mapped range: they are stored, and nothing else of the module changes. -/
theorem putBytes_plain {s : State} (h : PlainMem s) (cls a : Nat) (d : List Byte) (hm : mapped a d.length s = true) :
    putBytes cls a d s = setCells (spread a d) s := by
  by_cases hd : d.length = 0
  · have : d = [] := List.eq_nil_of_length_eq_zero hd
    subst this; rfl
  refine runWrite_plain h cls _ a d (by have := Nat.div_add_mod d.length 64; have := Nat.mod_lt a (show 64 > 0 by decide); have := Nat.mod_lt d.length (show 64 > 0 by decide); omega) ?_
  exact fun x => mapped_where hm hd

theorem putBytes_stored {s : State} (hs : Memory.wf s.mem = true) (h : PlainMem s) (cls a : Nat) (d : List Byte) (hm : mapped a d.length s = true) :
    Stored a d s (putBytes cls a d s) := by
  rw [putBytes_plain h cls a d hm]; exact stored_setCells hs a d

/-- The windows of the map are those of the 168 tiles (R184). -/
theorem window_lt {a t : Nat} {s : State} (h : whereOf a s = .oper t ∨ whereOf a s = .prog t) : t < 168 := by
  unfold whereOf at h
  simp only at h
  split_ifs at h <;> simp at h <;> omega

theorem wakeWindow_plain {s : State} (h : PlainMem s) (a : Nat) : wakeWindow a s = s := by
  unfold wakeWindow
  split
  · exact wakeTile_plain h (window_lt (.inl ‹_›))
  · exact wakeTile_plain h (window_lt (.inr ‹_›))
  · rfl

theorem watched_none {s : State} {wsrc a n : Nat} {r w : Bool} (hh : wpHits (wsrc % 16) a n r w s = []) : watched wsrc a n r w s = s := by
  unfold watched; rw [hh]; split <;> rfl

/-- An access that passes its checks changes nothing where what holds the memory is awake. -/
theorem access_done {s : State} (h : PlainMem s) {cls a n : Nat} {r w : Bool} (hm : mapped a n s = true) (hp : protOk cls a n r w s = true)
    (hl : (w && progLocked a n s) = false) (hd : anyDown a n s = false) : access cls a n r w s = (0, s) := by
  unfold access
  simp only [hm, hp, hl, hd, wakeWindow_plain h, Bool.not_true, Bool.false_or, Bool.false_eq_true, if_false]

theorem checkedRead_plain {s : State} (h : PlainMem s) {cls src wsrc a n : Nat} {w : Bool} (hm : mapped a n s = true) (hp : protOk cls a n true w s = true)
    (hl : (w && progLocked a n s) = false) (hh : wpHits (wsrc % 16) a n true w s = []) (hd : anyDown a n s = false) :
    checkedRead cls src wsrc a n w s = (0, cells a n s, s) := by
  unfold checkedRead
  rw [access_done h hm hp hl hd]
  simp only [rawRead_plain h, watched_none hh]
  rfl

theorem memRead_plain {s : State} (h : PlainMem s) {cls wsrc a n : Nat} (hm : mapped a n s = true) (hp : protOk cls a n true false s = true)
    (hh : wpHits (wsrc % 16) a n true false s = []) (hd : anyDown a n s = false) : memRead cls wsrc a n s = (0, cells a n s, s) :=
  checkedRead_plain h hm hp rfl hh hd

theorem memWrite_plain {s : State} (h : PlainMem s) {cls wsrc a : Nat} {d : List Byte} (hm : mapped a d.length s = true)
    (hp : protOk cls a d.length false true s = true) (hl : progLocked a d.length s = false) (hh : wpHits (wsrc % 16) a d.length false true s = [])
    (hd : anyDown a d.length s = false) : memWrite cls wsrc a d s = (0, setCells (spread a d) s) := by
  unfold memWrite
  rw [access_done h hm hp (by simp [hl]) hd]
  simp only [putBytes_plain h cls a d hm]
  rw [watched_none]
  exact hh

end Sys2Proof.Laws
end

