-- ==== Sys2Proof/Laws/Tables.lean ====
section
/-! SUPPORT. The canonical form of the sparse tables: kept by every elementary update. -/

namespace Sys2Proof.Laws
open Sys2Proof Sys2Proof.Machine

/-- What every entry of a table satisfies, every entry satisfies after a write of a value that does. -/
theorem map_set_all {V : Type} [DecidableEq V] (d : Nat → V) (p : V → Bool) {m : Map V} (k : Nat) (v : V) (h : m.all (fun e => p e.2) = true) (hv : p v = true) :
    (Map.set d m k v).all (fun e => p e.2) = true := by
  induction m with
  | nil => simp only [Map.set]; split <;> simp [hv]
  | cons e m ih =>
    obtain ⟨a, w⟩ := e
    simp only [List.all_cons, Bool.and_eq_true] at h
    simp only [Map.set]
    split_ifs <;> simp [h.1, h.2, hv, ih h.2]

theorem map_get_all {V : Type} (d : Nat → V) (p : V → Bool) {m : Map V} (k : Nat) (h : m.all (fun e => p e.2) = true) (hd : p (d k) = true) : p (Map.get d m k) = true := by
  induction m with
  | nil => exact hd
  | cons e m ih =>
    obtain ⟨a, w⟩ := e
    simp only [List.all_cons, Bool.and_eq_true] at h
    simp only [Map.get]
    split
    · exact h.1
    · split
      · exact hd
      · exact ih h.2

theorem tablesWf_flds {s : State} (h : tablesWf s = true) : Map.wf (fun _ => 0) s.flds = true := by
  simp only [tablesWf, Bool.and_eq_true, and_assoc] at h; exact h.1

theorem tablesWf_tiles {s : State} (h : tablesWf s = true) : Map.wf (fun _ => ({} : TileSt)) s.tiles = true := by
  simp only [tablesWf, Bool.and_eq_true, and_assoc] at h; exact h.2.1

theorem tablesWf_core {s : State} (h : tablesWf s = true) (t : Nat) : coreWf (Machine.core t s) = true := by
  simp only [tablesWf, Bool.and_eq_true, and_assoc] at h
  have e := map_get_all (fun _ => ({} : TileSt)) (fun x => coreWf x.core && laneWf x.lr) t (m := s.tiles) (by simpa using h.2.2.1) rfl
  simp only [Bool.and_eq_true] at e
  exact coreWf_of (coreWf_parts (by simpa [Machine.core, tile] using e.1))

theorem tablesWf_lane {s : State} (h : tablesWf s = true) (t : Nat) : laneWf (lrow t s) = true := by
  simp only [tablesWf, Bool.and_eq_true, and_assoc] at h
  have e := map_get_all (fun _ => ({} : TileSt)) (fun x => coreWf x.core && laneWf x.lr) t (m := s.tiles) (by simpa using h.2.2.1) rfl
  simp only [Bool.and_eq_true] at e ⊢
  exact e.2

theorem tablesWf_wr {s : State} (h : tablesWf s = true) (f : Fld) (i v : Nat) : tablesWf (wr f i v s) = true := by
  have hw := wr_flds_wf (tablesWf_flds h) f i v
  simp only [tablesWf, Bool.and_eq_true, and_assoc] at h ⊢
  exact ⟨hw, h.2⟩

theorem tablesWf_setTile {s : State} (h : tablesWf s = true) (t : Nat) (x : TileSt) (hc : coreWf x.core = true) (hl : laneWf x.lr = true) :
    tablesWf (setTile t x s) = true := by
  have hw := map_set_wf (fun _ => ({} : TileSt)) t x (tablesWf_tiles h)
  have ha := h
  simp only [tablesWf, Bool.and_eq_true, and_assoc] at h ha ⊢
  have e := map_set_all (fun _ => ({} : TileSt)) (fun x => coreWf x.core && laneWf x.lr) t x (m := s.tiles) (by simpa using h.2.2.1) (by simp only [hc, hl, Bool.and_self])
  exact ⟨h.1, hw, by simpa [setTile] using e, h.2.2.2⟩

theorem tablesWf_setCore {s : State} (h : tablesWf s = true) (t : Nat) (c : Core) (hc : coreWf c = true) : tablesWf (setCore t c s) = true :=
  tablesWf_setTile h t _ hc (tablesWf_lane h t)

theorem tablesWf_setLr {s : State} (h : tablesWf s = true) (t : Nat) (l : LaneRow) (hl : laneWf l = true) : tablesWf (setLr t l s) = true :=
  tablesWf_setTile h t _ (tablesWf_core h t) hl

theorem tablesWf_setStation {s : State} (h : tablesWf s = true) (n : Nat) (x : StationSt) : tablesWf (setStation n x s) = true := by
  simp only [tablesWf, Bool.and_eq_true, and_assoc] at h ⊢
  exact ⟨h.1, h.2.1, h.2.2.1, h.2.2.2.1, map_set_wf _ n x h.2.2.2.2.1, h.2.2.2.2.2⟩

theorem tablesWf_setPort {s : State} (h : tablesWf s = true) (p : Nat) (x : Port) : tablesWf (setPort p x s) = true := by
  simp only [tablesWf, Bool.and_eq_true, and_assoc] at h ⊢
  exact ⟨h.1, h.2.1, h.2.2.1, h.2.2.2.1, h.2.2.2.2.1, map_set_wf _ p x h.2.2.2.2.2.1, h.2.2.2.2.2.2⟩

theorem tablesWf_setShunt {s : State} (h : tablesWf s = true) (c : Nat) (x : Machine.Shunt) : tablesWf (setShunt c x s) = true := by
  simp only [tablesWf, Bool.and_eq_true, and_assoc] at h ⊢
  exact ⟨h.1, h.2.1, h.2.2.1, h.2.2.2.1, h.2.2.2.2.1, h.2.2.2.2.2.1, map_set_wf _ c x h.2.2.2.2.2.2.1, h.2.2.2.2.2.2.2⟩

theorem tablesWf_setColl {s : State} (h : tablesWf s = true) (k : Nat) (x : Machine.Coll) : tablesWf (setColl k x s) = true := by
  simp only [tablesWf, Bool.and_eq_true, and_assoc] at h ⊢
  exact ⟨h.1, h.2.1, h.2.2.1, h.2.2.2.1, h.2.2.2.2.1, h.2.2.2.2.2.1, h.2.2.2.2.2.2.1, map_set_wf _ k x h.2.2.2.2.2.2.2.1, h.2.2.2.2.2.2.2.2⟩

theorem tablesWf_setTag {s : State} (h : tablesWf s = true) (k : Nat) (u : Option TagUse) : tablesWf (setTag k u s) = true := by
  simp only [tablesWf, Bool.and_eq_true, and_assoc] at h ⊢
  exact ⟨h.1, h.2.1, h.2.2.1, h.2.2.2.1, h.2.2.2.2.1, h.2.2.2.2.2.1, h.2.2.2.2.2.2.1, h.2.2.2.2.2.2.2.1, map_set_wf _ k u h.2.2.2.2.2.2.2.2.1, h.2.2.2.2.2.2.2.2.2⟩

@[simp] theorem tablesWf_setCells (l : List (Nat × Byte)) (s : State) : tablesWf (setCells l s) = tablesWf s := rfl
@[simp] theorem tablesWf_hostWrite (a : Nat) (d : List Byte) (s : State) : tablesWf (hostWrite a d s) = tablesWf s := rfl

theorem tablesWf_event {s : State} (h : tablesWf s = true) (n code detail arg : Nat) : tablesWf (event n code detail arg s) = true := by
  unfold event
  split
  · exact tablesWf_wr h _ _ _
  · refine tablesWf_wr ?_ _ _ _
    simp only [tablesWf, Bool.and_eq_true, and_assoc] at h ⊢
    exact ⟨h.1, h.2.1, h.2.2.1, map_set_wf _ _ _ h.2.2.2.1, h.2.2.2.2⟩

theorem tablesWf_msix {s : State} (h : tablesWf s = true) (src : Nat) : tablesWf (msix src s) = true := by
  unfold msix msixSend
  split
  · exact tablesWf_wr h _ _ _
  · exact h

theorem tablesWf_inject {s : State} (h : tablesWf s = true) (p : Pkt) : tablesWf (inject p s) = true := tablesWf_wr h _ _ _

theorem tablesWf_requestWith {s : State} (h : tablesWf s = true) (k src : Nat) (who : Requester) (p : Pkt) : tablesWf (requestWith k src who p s) = true :=
  tablesWf_inject (tablesWf_setTag h _ _) _

theorem tablesWf_request {s : State} (h : tablesWf s = true) (who : Requester) (p : Pkt) : tablesWf (request who p s) = true := by
  unfold request requestAs
  split
  · exact h
  · exact tablesWf_requestWith h _ _ _ _

end Sys2Proof.Laws
end

