-- ==== Sys2Proof/Tests/Slice0.lean ====
section
/-! SUPPORT. Tests: an ill-formed term for each check, slot words written out from the formats, one step on small states, and for every statement a state and operands that meet the hypotheses of each of its clauses. -/

set_option maxRecDepth 100000
-- One theorem after another: `decide +kernel` waits for the kernel's check of all that stands before it, and theorems elaborated beside each other
-- would each hold a thread and its stack while they wait.
set_option Elab.async false

namespace Sys2Proof.Tests
open Sys2Proof Sys2Proof.Machine Sys2Proof.Laws

/-! ### Small states -/

def sx (i : Instr) : SlotIn := ((slotOf i).getD (0, ⟨0,0,false,.nop⟩)).2
def hd3 : Hd := { t := 3, pg := 0, pn := false }
def r1 : State := wr TIL_CORE_STATUS_state 3 1 State.reset
def fl (l : List (Fld × Nat × Nat)) (s : State) : State := l.foldl (fun s e => wr e.1 e.2.1 e.2.2 s) s
def regs : Core := { s := [(1, 5#64), (2, 7#64), (4, 0xFFFFFFFFFFFFFFFF#64)], a := [(1, 0x210000000040#64), (2, 0x300#64)], v := [(1, 0x3F800000#2048)], p := [(1, 5#64)] }
def r2 : State := setCore 3 regs r1
def coreS (c : Core) : State := setCore 3 c r1
def openAll (s : State) : State := fl [(MST_PROT_HI_valid, 0, 1), (MST_PROT_HI_limit, 0, 2^36-1), (MST_PROT_LO_rd_mask, 0, 63), (MST_PROT_LO_wr_mask, 0, 63)] s
def after (o : Out) : State := match o with | .next u => u | _ => State.reset
def n3 : TileN := 3
def p5 : PortN := 5
def bodyC (d : List Byte) : List RxCell := (List.range ((d.length+15)/16)).map fun i => { kind := .body, c := BitVec.ofNat 128 (ofLe ((d.drop (16*i)).take 16)) }
def pcells (p : Pkt) : List RxCell := { kind := .head, c := BitVec.ofNat 128 p.header } :: bodyC p.payload
def pk (typ : Nat) (d : List Byte) : Pkt := { typ := typ, vc := vcOf typ, tt := 0, dst := 0x20041, src := 0x103, tag := 0x123, addr := 0x1008, payload := d }
def qp (p : Pkt) (f : Nat) : QPkt := { pkt := p, from_ := f, hdr := p.header }
def base (l : List (Fld × Nat × Nat)) : State := openAll (fl ([(RTR_COORD_coord, 0, 0x20041), (RTR_TT_CTL_valid, 0, 1), (RTR_TT_CTL_port_mask, 0, 0xFFFF), (BTC_STATUS_stage, 0, 6)] ++ (List.range 16).map (fun i => (ULP_STATUS_state, i, 6)) ++ l) { State.reset with boot := { pcie := true } })
def memOf (l : List (Nat × List Byte)) : List Host.Cell := (l.flatMap fun e => e.2.zipIdx.map fun x => (e.1 + x.2, x.1)).filter fun c => c.2 != 0#8
def gdesc (cid kind : Nat) (epoch : Bool) (m rank n p conv : Nat) : List Byte :=
  leBytes (cid + kind*2^8 + (if epoch then 2^10 else 0) + (m-1)*2^11 + rank*2^29 + 5*2^51) 8 ++ leBytes 0x10000 8 ++ leBytes (n + p*2^32) 8 ++ leBytes 0x20000 8 ++ leBytes 0x30000 8 ++ leBytes 0x40000 8 ++ leBytes 0x60000 8
  ++ leBytes (conv + 5*2^32) 8 ++ leBytes 7 8 ++ leBytes 0x80000 8 ++ leBytes 0xA0000 8 ++ leBytes 0xB0000 8 ++ leBytes 0x90000 8 ++ leBytes 0 8 ++ leBytes 0 16
def table : List Byte := leBytes 0x20041 4 ++ leBytes 0x20042 4
def withC (s : State) : State := fl [(HST_CQ_BASE_base, 0, 0x1234), (HST_RING_CONTROL_enable, 0, 1), (HST_RING_CONTROL_cq_log2_size, 0, 4), (HST_RING_CONTROL_log2_size, 0, 4)] s
def ring0 : CmdSel := .ring 0
def found (o : Option RxFound) : RxFound := o.getD { head := { kind := .frame, c := 0 }, body := [], before := [], after := [] }
def isNext (o : Out) : Bool := match o with | .next _ => true | _ => false

theorem next_of_isNext (o : Host.Outcome State Fault Refusal) (h : isNext o = true) : o = .next (after o) := by
  cases o <;> simp_all [isNext, after]

/-! ### Well-formedness: one ill-formed term for each check -/

def am0 : FAM := ⟨0, 1, 0, 2, 0⟩
def fv0 : FV := { vd := 1, va := 2, vb := 3, vc := 0, ctl := 0, imm := 0 }
def hdB : Hd := { t := 3, b := true }

/-- An instruction in a slot that does not list it (R114, R119). -/
theorem test_wf_slot : (⟨2, 0, false, .sr .add ⟨3, 1, 2⟩⟩ : SlotIn).wf = false ∧ (⟨0, 0, false, .sr .div ⟨3, 1, 2⟩⟩ : SlotIn).wf = false
    ∧ (⟨1, 0, false, .mfsr 3 0⟩ : SlotIn).wf = false ∧ (⟨8, 0, false, .nop⟩ : SlotIn).wf = false ∧ (⟨1, 0, false, .sr .div ⟨3, 1, 2⟩⟩ : SlotIn).wf = true := by
  decide +kernel

/-- Reserved fields of the scalar, address, vector and move slots (R115, R119, R124, R128, R131). -/
theorem test_wf_reserved : (Instr.clz hd3 ⟨3, 1, 2⟩).wf = false ∧ (Instr.clz hd3 ⟨3, 1, 0⟩).wf = true
    ∧ (Instr.ldd hd3 { am0 with mode := 3, imm := 1 }).wf = false ∧ (Instr.ldd hd3 { am0 with mode := 3 }).wf = true
    ∧ (Instr.wld hd3 { am0 with r := 4 }).wf = false ∧ (Instr.wst hd3 { am0 with r := 3 }).wf = true
    ∧ (Instr.vacc hd3 { fv0 with vd := 4 }).wf = false ∧ (Instr.vacsq hd3 { fv0 with vd := 31 }).wf = false ∧ (Instr.vacx hd3 { fv0 with vd := 4 }).wf = false
    ∧ (Instr.vwclr hd3 { fv0 with vd := 4 }).wf = false ∧ (Instr.vwrd hd3 { fv0 with va := 4 }).wf = false
    ∧ (Instr.vmoment hd3 { fv0 with va := 4 }).wf = false ∧ (Instr.vmoment hd3 { fv0 with vb := 4 }).wf = false ∧ (Instr.vmoment hd3 fv0).wf = true
    ∧ (Instr.fence hd3 3).wf = false ∧ (Instr.fence hd3 2).wf = true := by
  decide +kernel

/-- What events carry: lengths of accesses, records, lanes, symbols and identities. -/
theorem test_wf_events : (Instr.stationAccess (.smRead 0 0) [] 0 false).wf = false ∧ (Instr.stationAccess (.smRead 0 1) [] 4 false).wf = false
    ∧ (Instr.stationAccess (.smWrite 0 []) [] 0 false).wf = false ∧ (Instr.stationAccess (.smAmo .add 4 1) [] 0 false).wf = false
    ∧ (Instr.stationAccess (.smAmo .add 8 1) [] 3 false).wf = true ∧ (Instr.cxlAccess (.smRead 0 0) false).wf = false
    ∧ (Instr.cableIdentityRead 5 [1, 2]).wf = false ∧ (Instr.laneTrained 5 0 [1]).wf = false ∧ (Instr.codewordDecode 5 true []).wf = false
    ∧ (Instr.bar2Access (.read 0 0)).wf = false ∧ (Instr.bar2Access (.write 0 [] false)).wf = false ∧ (Instr.bar2Access (.read 0 1)).wf = true
    ∧ (Instr.bootTrainingDone ⟨true, 0, [], 0, 0, [], [], 0⟩).wf = false := by
  decide +kernel

/-! ### Slot words written out from the formats of R115, R118, R121, R124, R126, R128 and R131 -/

/-- ADD s3, s1, s2; SUBI s1, s31, -1 under the inverted predicate 2; CMPLT p2, s4, s1; PANDN p2, p0, p1; MFSR s3, 9; LI with the largest immediate. -/
theorem test_words_scalar :
    decodeSlot 0 0x0000000000823001#64 = some ⟨0, 0, false, .sr .add ⟨3, 1, 2⟩⟩ ∧
    decodeSlot 1 0xFFFFFFFFFFFE1A22#64 = some ⟨1, 2, true, .si .subi ⟨1, 31, BitVec.allOnes 42⟩⟩ ∧
    decodeSlot 0 0x0000000000482042#64 = some ⟨0, 0, false, .cmp .lt ⟨2, 4, 1⟩⟩ ∧
    decodeSlot 0 0x000000000040204B#64 = some ⟨0, 0, false, .pp .pandn ⟨2, 0, 1⟩⟩ ∧
    decodeSlot 0 0x0000000002403050#64 = some ⟨0, 0, false, .mfsr 3 9⟩ ∧
    decodeSlot 1 0x7FFFFFFFFFFE9030#64 = some ⟨1, 0, false, .li 9 0x3FFFFFFFFFFF⟩ := by
  decide +kernel

/-- JMP 2047; LOOPI with end 16 and the largest count; LDW with update by -8; AADDI a3, a4, -1; END 0x1234. -/
theorem test_words_control_and_address :
    decodeSlot 2 0x00000000007FF001#64 = some ⟨2, 0, false, .jmp 2047⟩ ∧
    decodeSlot 2 0x000FFFFE00010005#64 = some ⟨2, 0, false, .loopi 16 0x7FFFF⟩ ∧
    decodeSlot 2 0x000000000123400A#64 = some ⟨2, 0, false, .fin 0x1234⟩ ∧
    decodeSlot 3 0xFFFFFFFC00245005#64 = some ⟨3, 0, false, .ld .ldw ⟨5, 2, 1, 0, 0x1FFFFFFF8⟩⟩ ∧
    decodeSlot 4 0xFFFFFFFFFC083020#64 = some ⟨4, 0, false, .aaddi 3 4 (BitVec.allOnes 38)⟩ := by
  decide +kernel

/-- LRSTEP with every field set; VADD v5, v1, v2; VACC w1, v3 at floor 521; SHST on channel 127 with event bit 47; FENCE of both kinds. -/
theorem test_words_lane_vector_move :
    decodeSlot 5 0x01FFC0F413F21001#64 = some ⟨5, 0, false, .lrstep { aa := 1, ac := 2, index := 31, floor := 521, pb := 2, negate := true, first := true, inc := true, stride := 0xFFC0, sinc := true }⟩ ∧
    decodeSlot 6 0x0000000000825001#64 = some ⟨6, 0, false, .v .vadd { vd := 5, va := 1, vb := 2, vc := 0, ctl := 0, imm := 0 }⟩ ∧
    decodeSlot 6 0x0000020900061020#64 = some ⟨6, 0, false, .v .vacc { vd := 1, va := 3, vb := 0, vc := 0, ctl := 0x209, imm := 0 }⟩ ∧
    decodeSlot 7 0x000000002F97F008#64 = some ⟨7, 0, false, .shst 127 2 true 47⟩ ∧
    decodeSlot 7 0x0000000000002010#64 = some ⟨7, 0, false, .fence 2⟩ := by
  decide +kernel

/-- Words that R115 refuses: an opcode no slot lists (R119), a nonzero reserved field, MFSR in slot 1, a division in slot 0, FENCE kind 3. -/
theorem test_words_refused : decodeSlot 0 0x29#64 = none ∧ decodeSlot 2 0x107FF001#64 = none ∧ decodeSlot 1 0x2403050#64 = none
    ∧ decodeSlot 0 0x823010#64 = none ∧ decodeSlot 7 0x3010#64 = none ∧ decodeSlot 3 0x1000#64 = none := by
  decide +kernel

/-! ### One step on a small state -/

/-- 5 + 7 = 12 (R119); the same with s0 as destination leaves s0 at 0. -/
theorem test_add : ((Machine.core 3 (after (exec (.add hd3 ⟨3, 1, 2⟩) r2))).sg 3 = 12#64) ∧ (Machine.core 3 (after (exec (.add hd3 ⟨0, 1, 2⟩) r2))).sg 0 = 0#64 := by
  decide +kernel

/-- MULI: -1 times -1 is 1, with no overflow (R120). -/
theorem test_muli : (Machine.core 3 (after (exec (.muli hd3 ⟨6, 4, BitVec.allOnes 42⟩) r2))).sg 6 = 1#64
    ∧ rd TIL_CS_STATUS_sov 3 (after (exec (.muli hd3 ⟨6, 4, BitVec.allOnes 42⟩) r2)) = 0 := by
  decide +kernel

/-- A divisor of 0 gives all ones and sets dzero; the remainder equals the dividend (R120). -/
theorem test_div_by_zero : (Machine.core 3 (after (exec (.div hdB ⟨3, 1, 0⟩) r2))).sg 3 = BitVec.allOnes 64
    ∧ rd TIL_CS_STATUS_dzero 3 (after (exec (.div hdB ⟨3, 1, 0⟩) r2)) = 1
    ∧ (Machine.core 3 (after (exec (.rem hdB ⟨3, 1, 0⟩) r2))).sg 3 = 5#64 := by
  decide +kernel

/-- -2^63 divided by -1 gives -2^63, remainder 0, and sets sov (R120). -/
theorem test_div_overflow :
    let s := coreS { regs with s := [(1, BitVec.ofNat 64 (2 ^ 63)), (2, BitVec.allOnes 64)] }
    (Machine.core 3 (after (exec (.div hdB ⟨3, 1, 2⟩) s))).sg 3 = BitVec.ofNat 64 (2 ^ 63) ∧ rd TIL_CS_STATUS_sov 3 (after (exec (.div hdB ⟨3, 1, 2⟩) s)) = 1
      ∧ (Machine.core 3 (after (exec (.rem hdB ⟨3, 1, 2⟩) s))).sg 3 = 0#64 := by
  decide +kernel

/-- A shift count of 65 shifts by 1 (R119). -/
theorem test_shift_count : (Machine.core 3 (after (exec (.shli hd3 ⟨6, 2, 65⟩) r2))).sg 6 = 14#64
    ∧ (Machine.core 3 (after (exec (.srai hd3 ⟨6, 4, 65⟩) r2))).sg 6 = BitVec.allOnes 64 := by
  decide +kernel

/-- LIH of 1 over the low bits of -1: bits 46 to 0 stay (R119). -/
theorem test_lih : (Machine.core 3 (after (exec (.lih hd3 4 1) r2))).sg 4 = 0x0000FFFFFFFFFFFF#64 := by
  decide +kernel

/-- 7 ≤ 5 is false, signed -1 < 5 is true, unsigned it is not (R119). -/
theorem test_compare : (Machine.core 3 (after (exec (.cmple hd3 ⟨2, 2, 1⟩) r2))).pr 2 = 0#64 ∧ (Machine.core 3 (after (exec (.cmplt hd3 ⟨2, 4, 1⟩) r2))).pr 2 = BitVec.allOnes 64
    ∧ (Machine.core 3 (after (exec (.cmpltu hd3 ⟨2, 4, 1⟩) r2))).pr 2 = 0#64 := by
  decide +kernel

/-- A jump above 2,047 raises address and the core stops; a jump to 2,047 continues there (R121). -/
theorem test_jmp : rd TIL_CS_CAUSE_valid 3 (after (exec (.jmp hd3 2048) r2)) = 1 ∧ rd TIL_CS_CAUSE_slot 3 (after (exec (.jmp hd3 2048) r2)) = 2
    ∧ coreState 3 (after (exec (.jmp hd3 2048) r2)) = 3 ∧ nextIx 3 (after (exec (.jmp hd3 2047) r2)) = 2047 := by
  decide +kernel

/-- A count of 0 continues at end + 1 and holds no loop (R122). -/
theorem test_loop_of_zero : nextIx 3 (after (exec (.loopi hd3 9 0) r2)) = 10 ∧ (Machine.core 3 (after (exec (.loopi hd3 9 0) r2))).loops = [] := by
  decide +kernel

/-- A slot whose predicate fails changes nothing but the index (R115): bit 0 of p1 is 1 and pn inverts it. -/
theorem test_false_predicate : (Machine.core 3 (after (exec (.add { hd3 with pg := 1, pn := true } ⟨3, 1, 2⟩) r2))).sg 3 = 0#64
    ∧ nextIx 3 (after (exec (.add { hd3 with pg := 1, pn := true } ⟨3, 1, 2⟩) r2)) = 1 := by
  decide +kernel

/-- VSPLAT of 5 puts 5 in every one of the 64 lanes (R131). -/
theorem test_vsplat : (Machine.core 3 (after (exec (.vsplat hd3 7 1) r2))).vg 7 = BitVec.ofNat 2048 (5 * ((2 ^ 2048 - 1) / (2 ^ 32 - 1))) := by
  decide +kernel

/-- A write of the tail register by its offset reads back; an offset that names no register reads as 0 (R9). -/
theorem test_ring_tail : rd HST_RING_TAIL_tail 3 (after (exec (.ringTailWrite 3 7) (base []))) = 7 := by
  decide +kernel

/-- A BAR2 access that crosses its window faults (R364). -/
theorem test_bar2_crossing : exec (.bar2Access (.read 250 8)) { State.reset with bar2Size := 256 } = .fault .bar2WindowCrossed := by
  rfl

/-! ### States and operands that meet the hypotheses of the statements -/

namespace Scalar

def rl : State := coreS { regs with loops := [⟨0, 0, 3⟩, ⟨0,0,2⟩] }
def rst (s : State) : State := wr TIL_LR_STATUS_suspended 3 1 s
def rl4 : State := rst (coreS { regs with loops := List.replicate 4 ⟨0, 9, 3⟩ })
def sus : State := wr TIL_LR_STATUS_suspended 3 1 r2

theorem test_meets_StepRunsFrontCommand :
    (∃ (s : State), (s.pending = [])) ∧
    (∃ (s : State), (s.pending = []) ∧ (stage s = 0)) :=
  ⟨⟨r1, by decide +kernel⟩,
   ⟨r1, by decide +kernel⟩⟩

theorem test_meets_ScalarResults :
    (∃ (o : SrOp) (h : Hd) (f : FSR) (x : SlotIn) (s : State), (Fires (srInstr o h f) (↑h.t) x s)) ∧
    (∃ (o : SiOp) (h : Hd) (f : FSI) (x : SlotIn) (s : State), (Fires (siInstr o h f) (↑h.t) x s)) ∧
    (∃ (h : Hd) (sd : BitVec 5) (imm : BitVec 47) (x : SlotIn) (s : State), (Fires (Instr.li h sd imm) (↑h.t) x s)) ∧
    (∃ (h : Hd) (sd : BitVec 5) (imm : BitVec 17) (x : SlotIn) (s : State), (Fires (Instr.lih h sd imm) (↑h.t) x s)) :=
  ⟨⟨SrOp.add, hd3, (⟨3,1,2⟩ : FSR), (sx (.add hd3 ⟨3,1,2⟩)), r2, by decide +kernel⟩,
   ⟨SiOp.addi, hd3, (⟨0,4,7#42⟩ : FSI), (sx (.addi hd3 ⟨0,4,7#42⟩)), r2, by decide +kernel⟩,
   ⟨hd3, (0x9#5), (0x7FFFFFFFFFFF#47), (sx (.li hd3 9 0x7FFFFFFFFFFF#47)), r2, by decide +kernel⟩,
   ⟨hd3, (0x4#5), (0x3#17), (sx (.lih hd3 4 3#17)), r2, by decide +kernel⟩⟩

theorem test_meets_CompareAndSpecialRegisterResults :
    (∃ (o : CmpOp) (h : Hd) (f : FPR) (x : SlotIn) (s : State), (Fires (cmpInstr o h f) (↑h.t) x s)) ∧
    (∃ (o : CmpOp) (h : Hd) (f : FPI) (x : SlotIn) (s : State), (Fires (cmpiInstr o h f) (↑h.t) x s)) ∧
    (∃ (o : PpOp) (h : Hd) (f : FPP) (x : SlotIn) (s : State), (Fires (ppInstr o h f) (↑h.t) x s)) ∧
    (∃ (h : Hd) (sd : BitVec 5) (n : BitVec 8) (x : SlotIn) (s : State), (Fires (Instr.mfsr h sd n) (↑h.t) x s) ∧ (n.toNat < 16)) ∧
    (∃ (h : Hd) (sa : BitVec 5) (n : BitVec 8) (x : SlotIn) (s : State), (Fires (Instr.mtsr h sa n) (↑h.t) x s) ∧ (n = 0#8 ∨ n = 10#8 ∨ n = 11#8 ∨ n = 12#8)) ∧
    (∃ (h : Hd) (r : BitVec 5) (n : BitVec 8) (x : SlotIn) (s : State), (StopsAlone (↑h.t) s) ∧ (Fires (Instr.mtsr h r n) (↑h.t) x s) ∧ (n.toNat < 16) ∧ (¬n ∈ [0#8, 10#8, 11#8, 12#8])) ∧
    (∃ (h : Hd) (r : BitVec 5) (n : BitVec 8) (x : SlotIn) (s : State), (StopsAlone (↑h.t) s) ∧ (Fires (Instr.mtsr h r n) (↑h.t) x s) ∧ (16 ≤ n.toNat)) ∧
    (∃ (h : Hd) (r : BitVec 5) (n : BitVec 8) (x : SlotIn) (s : State), (StopsAlone (↑h.t) s) ∧ (Fires (Instr.mfsr h r n) (↑h.t) x s) ∧ (16 ≤ n.toNat)) :=
  ⟨⟨CmpOp.lt, hd3, (⟨2,4,1⟩ : FPR), (sx (.cmplt hd3 ⟨2,4,1⟩)), r2, by decide +kernel⟩,
   ⟨CmpOp.leu, hd3, (⟨0,4,1⟩ : FPI), (sx (.cmpleui hd3 ⟨0,4,1⟩)), r2, by decide +kernel⟩,
   ⟨PpOp.pandn, hd3, (⟨2,0,1⟩ : FPP), (sx (.pandn hd3 ⟨2,0,1⟩)), r2, by decide +kernel⟩,
   ⟨hd3, (3#5), (6#8), (sx (.mfsr hd3 3 6)), r2, by decide +kernel⟩,
   ⟨hd3, (1#5), (0#8), (sx (.mtsr hd3 1 0)), r2, by decide +kernel⟩,
   ⟨hd3, 2, 1#8, sx (.mtsr hd3 2 1#8), sus, by decide +kernel⟩,
   ⟨hd3, 2, 16#8, sx (.mtsr hd3 2 16#8), sus, by decide +kernel⟩,
   ⟨hd3, 2, 16#8, sx (.mfsr hd3 2 16#8), sus, by decide +kernel⟩⟩

theorem test_meets_BranchTargets :
    (∃ (h : Hd) (x : SlotIn) (s : State) (a : BitVec 16), (Fires (Instr.jmp h a) (↑h.t) x s) ∧ (a.toNat ≤ 2047)) ∧
    (∃ (h : Hd) (x : SlotIn) (s : State) (a : BitVec 16) (sd : BitVec 5), (Fires (Instr.call h a sd) (↑h.t) x s) ∧ (a.toNat ≤ 2047)) ∧
    (∃ (h : Hd) (x : SlotIn) (s : State) (sa : BitVec 5), (Fires (Instr.jmpr h sa) (↑h.t) x s) ∧ (BitVec.toNat ((Machine.core (↑h.t) s).sg sa) % 65536 ≤ 2047)) ∧
    (∃ (h : Hd) (x : SlotIn) (s : State) (e : BitVec 16) (sa : BitVec 5), (Fires (Instr.loop h e sa) (↑h.t) x s) ∧ (nextIx (↑h.t) s < e.toNat) ∧ ((Machine.core (↑h.t) s).loops.length < 4)) ∧
    (∃ (h : Hd) (x : SlotIn) (s : State) (e : BitVec 16) (n : BitVec 19), (Fires (Instr.loopi h e n) (↑h.t) x s) ∧ (nextIx (↑h.t) s < e.toNat) ∧ ((Machine.core (↑h.t) s).loops.length < 4)) ∧
    (∃ (h : Hd) (x : SlotIn) (s : State) (l : Loop) (ls : List Loop), (Fires (Instr.lpop h) (↑h.t) x s) ∧ ((Machine.core (↑h.t) s).loops = l :: ls)) ∧
    (∃ (h : Hd) (x : SlotIn) (s : State) (i : Instr), (StopsAlone (↑h.t) s) ∧ (Fires i (↑h.t) x s) ∧ (match x.op with | SlotOp.jmp a => 2047 < a.toNat | SlotOp.call a sd => 2047 < a.toNat | SlotOp.jmpr sa => 2047 < BitVec.toNat ((Machine.core (↑h.t) s).sg sa) % 65536 | x => False)) ∧
    (∃ (h : Hd) (x : SlotIn) (s : State) (i : Instr), (StopsAlone (↑h.t) s) ∧ (Fires i (↑h.t) x s) ∧ (match x.op with | SlotOp.jmp a => 2047 < a.toNat | SlotOp.call a sd => 2047 < a.toNat | SlotOp.jmpr sa => 2047 < BitVec.toNat ((Machine.core (↑h.t) s).sg sa) % 65536 | x => False)) ∧
    (∃ (h : Hd) (x : SlotIn) (s : State) (i : Instr), (StopsAlone (↑h.t) s) ∧ (Fires i (↑h.t) x s) ∧ (match x.op with | SlotOp.jmp a => 2047 < a.toNat | SlotOp.call a sd => 2047 < a.toNat | SlotOp.jmpr sa => 2047 < BitVec.toNat ((Machine.core (↑h.t) s).sg sa) % 65536 | x => False)) ∧
    (∃ (h : Hd) (x : SlotIn) (s : State) (i : Instr), (StopsAlone (↑h.t) s) ∧ (Fires i (↑h.t) x s) ∧ (match x.op with | SlotOp.loop e sa => e.toNat ≤ nextIx (↑h.t) s ∨ 4 ≤ (Machine.core (↑h.t) s).loops.length | SlotOp.loopi e count => e.toNat ≤ nextIx (↑h.t) s ∨ 4 ≤ (Machine.core (↑h.t) s).loops.length | SlotOp.lpop => (Machine.core (↑h.t) s).loops = [] | x => False)) ∧
    (∃ (h : Hd) (x : SlotIn) (s : State) (i : Instr), (StopsAlone (↑h.t) s) ∧ (Fires i (↑h.t) x s) ∧ (match x.op with | SlotOp.loop e sa => e.toNat ≤ nextIx (↑h.t) s ∨ 4 ≤ (Machine.core (↑h.t) s).loops.length | SlotOp.loopi e count => e.toNat ≤ nextIx (↑h.t) s ∨ 4 ≤ (Machine.core (↑h.t) s).loops.length | SlotOp.lpop => (Machine.core (↑h.t) s).loops = [] | x => False)) ∧
    (∃ (h : Hd) (x : SlotIn) (s : State) (i : Instr), (StopsAlone (↑h.t) s) ∧ (Fires i (↑h.t) x s) ∧ (match x.op with | SlotOp.loop e sa => e.toNat ≤ nextIx (↑h.t) s ∨ 4 ≤ (Machine.core (↑h.t) s).loops.length | SlotOp.loopi e count => e.toNat ≤ nextIx (↑h.t) s ∨ 4 ≤ (Machine.core (↑h.t) s).loops.length | SlotOp.lpop => (Machine.core (↑h.t) s).loops = [] | x => False)) ∧
    (∃ (h : Hd) (x : SlotIn) (s : State) (i : Instr), (StopsAlone (↑h.t) s) ∧ (slotOf i = some (↑h.t, x)) ∧ (Sound s) ∧ (coreState (↑h.t) s = 1) ∧ ((Machine.core (↑h.t) s).hold = none) ∧ (pendingDefer (↑h.t) s = none) ∧ (2047 < nextIx (↑h.t) s) ∧ (nextIx (↑h.t) s ≤ 65535)) :=
  ⟨⟨hd3, (sx (.jmp hd3 2047)), r2, (2047#16), by decide +kernel⟩,
   ⟨hd3, (sx (.call hd3 17 1)), r2, (17#16), (1#5), by decide +kernel⟩,
   ⟨hd3, (sx (.jmpr hd3 2)), r2, (2#5), by decide +kernel⟩,
   ⟨hd3, (sx (.loop hd3 2047 2)), r2, (2047#16), (2#5), by decide +kernel⟩,
   ⟨hd3, (sx (.loopi hd3 1 0)), r2, (1#16), (0#19), by decide +kernel⟩,
   ⟨hd3, (sx (.lpop hd3)), rl, ⟨0,0,3⟩, [⟨0,0,2⟩], by decide +kernel⟩,
   ⟨hd3, (sx (.jmp hd3 2048)), rst r2, (.jmp hd3 2048), by decide +kernel, by decide +kernel, (by decide +kernel : 2047 < (2048#16).toNat)⟩,
   ⟨hd3, (sx (.call hd3 0xFFFF 1)), rst r2, (.call hd3 0xFFFF 1), by decide +kernel, by decide +kernel, (by decide +kernel : 2047 < (0xFFFF#16).toNat)⟩,
   ⟨hd3, (sx (.jmpr hd3 4)), rst r2, (.jmpr hd3 4), by decide +kernel, by decide +kernel, (by decide +kernel : 2047 < ((Machine.core 3 (rst r2)).sg 4).toNat % 65536)⟩,
   ⟨hd3, (sx (.loop hd3 0 2)), rst r2, (.loop hd3 0 2), by decide +kernel, by decide +kernel, (by decide +kernel : (0#16).toNat ≤ nextIx 3 (rst r2) ∨ 4 ≤ (Machine.core 3 (rst r2)).loops.length)⟩,
   ⟨hd3, (sx (.loopi hd3 9 2)), rl4, (.loopi hd3 9 2), by decide +kernel, by decide +kernel, (by decide +kernel : (9#16).toNat ≤ nextIx 3 rl4 ∨ 4 ≤ (Machine.core 3 rl4).loops.length)⟩,
   ⟨hd3, (sx (.lpop hd3)), rst r2, (.lpop hd3), by decide +kernel, by decide +kernel, (by decide +kernel : (Machine.core 3 (rst r2)).loops = [])⟩,
   ⟨hd3, (sx (.jmp hd3 1)), rst (wr TIL_CORE_STATUS_next_index 3 2048 r2), (.jmp hd3 1), by decide +kernel⟩⟩

end Scalar

namespace Control

def rev : State := wr TIL_CS_EVT_val 3 0xF5 r2
def acc1 : Access := { slot := 3, addr := 0x1000, len := 8, op := .load .ldd 9 }
def rout : State := coreS { regs with outst := [acc1] }
def rend : State := wr TIL_CORE_STATUS_state 3 2 (coreS { regs with hold := some [sx (.endProgram hd3 0x1234)] })
def hdp : Hd := { t := 3, pg := 1, pn := true }
def rsus : State := wr TIL_LR_STATUS_suspended 3 1 r2
def rdef : State := coreS { regs with defer := some ⟨5, 4, some 0x1000, none⟩ }
def cmdE : Cmd := { id := 7, entry := List.replicate 128 0, phase := 1, ranks := [{ tile := 3 }] }
def serve (c : Cmd) (s : State) : State := withC { s with host := { cmds := [c] } }

theorem test_meets_WaitsSyncsAndEnds :
    (∃ (h : Hd) (sa : BitVec 5) (x : SlotIn) (s : State), (Fires (Instr.wait h sa) (↑h.t) x s) ∧ ((Machine.core (↑h.t) s).sg sa ≠ 0#64)) ∧
    (∃ (h : Hd) (sa : BitVec 5) (x : SlotIn) (s : State), (Fires (Instr.wait h sa) (↑h.t) x s) ∧ ((Machine.core (↑h.t) s).sg sa = 0#64) ∧ (Quiet s) ∧ (Unserved (↑h.t) s)) ∧
    (∃ (h : Hd) (sa : BitVec 5) (x : SlotIn) (s : State), (Fires (Instr.evclr h sa) (↑h.t) x s)) ∧
    (∃ (h : Hd) (k : Fin 8) (x : SlotIn) (s : State), (Fires (Instr.nop h k) (↑h.t) x s)) ∧
    (∃ (h : Hd) (x : SlotIn) (s : State), (Fires (Instr.lrnop h) (↑h.t) x s)) ∧
    (∃ (h : Hd) (x : SlotIn) (s : State), (Fires (Instr.lrsync h) (↑h.t) x s)) ∧
    (∃ (h : Hd) (kind : BitVec 2) (x : SlotIn) (s : State), (Fires (Instr.fence h kind) (↑h.t) x s)) ∧
    (∃ (h : Hd) (code : BitVec 16) (x : SlotIn) (s : State), (Fires (Instr.endProgram h code) (↑h.t) x s)) ∧
    (∃ (t : TileN) (code : BitVec 16) (x : SlotIn) (s : State), (Sound s) ∧ (Quiet s) ∧ (x.k = 2) ∧ (x.op = SlotOp.fin code) ∧ (x.wf = true) ∧ (coreState (t.val) s = 2) ∧ ((Machine.core (t.val) s).hold = some [x]) ∧ ((Machine.core (t.val) s).takes x.pg x.pn = true) ∧ (nextIx (t.val) s ≤ 2047) ∧ (pendingDefer (t.val) s = none) ∧ (endBlocked (t.val) s = false) ∧ (rowQuiet (t.val) s = true) ∧ ((Machine.core (t.val) s).outst = []) ∧ (lrSuspended (t.val) s = false) ∧ (traced (t.val) s = false) ∧ (Unserved (t.val) s)) ∧
    (∃ (t : TileN) (code : BitVec 16) (x : SlotIn) (s : State) (c : Cmd) (r : Rank), (Sound s) ∧ (Quiet s) ∧ (x.k = 2) ∧ (x.op = SlotOp.fin code) ∧ (x.wf = true) ∧ (coreState (↑t) s = 2) ∧ ((Machine.core (↑t) s).hold = some [x]) ∧ ((Machine.core (↑t) s).takes x.pg x.pn = true) ∧ (nextIx (↑t) s ≤ 2047) ∧ (pendingDefer (↑t) s = none) ∧ (endBlocked (↑t) s = false) ∧ (rowQuiet (↑t) s = true) ∧ ((Machine.core (↑t) s).outst = []) ∧ (lrSuspended (↑t) s = false) ∧ (traced (↑t) s = false) ∧ (CanEnd c s) ∧ (Serves c (↑t) s) ∧ (c.ranks = [r]) ∧ (c.schedAddr = 0)) :=
  ⟨⟨hd3, (2#5), (sx (.wait hd3 2)), rev, by decide +kernel⟩,
   ⟨hd3, (0#5), (sx (.wait hd3 0)), rev, by decide +kernel⟩,
   ⟨hd3, (2#5), (sx (.evclr hd3 2)), rev, by decide +kernel⟩,
   ⟨hd3, (7 : Fin 8), (sx (.nop hd3 7)), rev, by decide +kernel⟩,
   ⟨hd3, (sx (.lrnop hd3)), rev, by decide +kernel⟩,
   ⟨hd3, (sx (.lrsync hd3)), rev, by decide +kernel⟩,
   ⟨hd3, (0#2), (sx (.fence hd3 0)), rout, by decide +kernel⟩,
   ⟨hd3, (0x1234#16), (sx (.endProgram hd3 0x1234)), rev, by decide +kernel⟩,
   ⟨(3 : TileN), (0x1234#16), (sx (.endProgram hd3 0x1234)), rend, by decide +kernel⟩,
   ⟨(3 : TileN), (0x1234#16), (sx (.endProgram hd3 0x1234)), serve cmdE rend, cmdE, { tile := 3 }, by decide +kernel⟩⟩

theorem test_meets_FalseGuardOnlyAdvances :
    (∃ (i : Instr) (t : Nat) (x : SlotIn) (s : State), (slotOf i = some (t, x)) ∧ (Ready t x s) ∧ (slotTakes (Machine.core t s) x = false)) :=
  ⟨(.div hdp ⟨3,1,2⟩), 3, (sx (.div hdp ⟨3,1,2⟩)), r2, by decide +kernel⟩

theorem test_meets_ExceptionsStop :
    (∃ (h : Hd) (code : BitVec 16) (x : SlotIn) (s : State), (Fires (Instr.brk h code) (↑h.t) x s) ∧ (Quiet s) ∧ (Unserved (↑h.t) s)) ∧
    (∃ (h : Hd) (code : BitVec 16) (x : SlotIn) (s : State) (c : Cmd), (Fires (Instr.brk h code) (↑h.t) x s) ∧ (Quiet s) ∧ (CanEnd c s) ∧ (Serves c (↑h.t) s) ∧ (∀ (r : Rank), r ∈ c.ranks → r.tile < 168)) ∧
    (∃ (i : Instr) (t : Nat) (x : SlotIn) (a : Acc') (s : State), (Fires i t x s) ∧ (accOf (Machine.core t s) x.op = some a) ∧ (BitVec.toNat a.ea % a.align ≠ 0 ∨ 2 ^ 48 ≤ BitVec.toNat a.ea) ∧ (StopsAlone t s)) ∧
    (∃ (n : TileN) (d : Defer) (s : State), (Calm s) ∧ (coreState (↑n) s ≤ 2) ∧ (pendingDefer (↑n) s = some d) ∧ (d.code < 256) ∧ (d.slot < 8) ∧ (nextIx (↑n) s ≤ 65535) ∧ (StopsAlone (↑n) s)) :=
  ⟨⟨hd3, (7#16), (sx (.brk hd3 7)), r2, by decide +kernel⟩,
   ⟨hd3, (7#16), (sx (.brk hd3 7)), serve { cmdE with ranks := [{ tile := 9 }, { tile := 3 }] } r2, { cmdE with ranks := [{ tile := 9 }, { tile := 3 }] }, by decide +kernel⟩,
   ⟨(.ldd hd3 ⟨3,1,0,0,4⟩), 3, (sx (.ldd hd3 ⟨3,1,0,0,4⟩)), ((accOf (Machine.core 3 rsus) (sx (.ldd hd3 ⟨3,1,0,0,4⟩)).op).getD ⟨0,0,0,false,false,false⟩), rsus, by decide +kernel⟩,
   ⟨(3 : TileN), ⟨5, 4, some 0x1000, none⟩, (wr TIL_LR_STATUS_suspended 3 1 rdef), by decide +kernel⟩⟩

theorem test_meets_WindowRestoresWord :
    (∃ (w : Int) (f : Nat) (n : Nat), (n = 32 ∨ n = 64)) :=
  ⟨-3, 4, 64, by decide +kernel⟩

theorem test_meets_MemoryCodeCorrectsAndDetects :
    (∃ (i : Fin 68) (j : Fin 68) (k : Fin 68) (e : Byte) (f : Byte) (g : Byte) (x : Nat) (v : Nat), (i ≠ j) ∧ (j ≠ k) ∧ (i ≠ k) ∧ (e ≠ 0#8) ∧ (f ≠ 0#8)) :=
  ⟨0, 1, 67, 1, 255, 7, 0x1000, 5, by decide +kernel⟩

end Control

namespace Memory

def win3 : Nat := winAddr 3 0x40
def mm : List Host.Cell := (List.range 200).map fun i => ⟨win3 + i, BitVec.ofNat 8 (i*7+0x81)⟩
def r3 : State := openAll { r2 with mem := mm }
def am (r : BitVec 5) (mode : BitVec 2) (imm : BitVec 33) : FAM := ⟨r, 1, mode, 2, imm⟩
def rS (a : Nat) : State := setCore 3 { regs with a := [(1, BitVec.ofNat 64 a)] } r3
def rW : State := setCore 3 (((({ regs with a := [(1, BitVec.ofNat 64 win3)] } : Core).setRow 3 0 0x123456#576 0x11).setRow 3 63 0xFFFFFF#576 0x22)) r3
def rOut (op : AccOp) (d : List Byte) (bad : Bool) : State := setCore 3 { regs with outst := [⟨3, 0x2000, 8, .load .ldd 1, none⟩, ⟨4, 0x1000, d.length, op, some (d, bad)⟩] } r3
def d8 : List Byte := [0x80, 0xFF, 3, 4, 5, 6, 7, 0x88]

theorem test_meets_ExceptionsStop :
    (∃ (i : Instr) (t : Nat) (x : SlotIn) (s : State), (slotOf i = some (t, x)) ∧ (x.wf = false) ∧ (x.k < 8) ∧ (Sound s) ∧ (coreState t s = 1) ∧ ((Machine.core t s).hold = none) ∧ (pendingDefer t s = none) ∧ (nextIx t s ≤ 2047) ∧ (traced t s = false) ∧ (StopsAlone t s)) :=
  ⟨(.fence hd3 3), 3, (sx (.fence hd3 3)), (wr TIL_LR_STATUS_suspended 3 1 r2), by decide +kernel⟩

theorem test_meets_OwnStoreLoads :
    (∃ (h : Hd) (f : FAM) (x : SlotIn) (s : State) (o : LdOp), (Fires (ldInstr o h f) (↑h.t) x s) ∧ (Permitted (↑h.t) (BitVec.toNat (amEa (Machine.core (↑h.t) s) f (ldSize o).log2)) (ldSize o) (ldSize o) true false s) ∧ (ownStore (↑h.t) (BitVec.toNat (amEa (Machine.core (↑h.t) s) f (ldSize o).log2)) s = true) ∧ (s.storeErr = [])) ∧
    (∃ (h : Hd) (f : FAM) (x : SlotIn) (s : State), (Fires (Instr.vld h f) (↑h.t) x s) ∧ (Permitted (↑h.t) (BitVec.toNat (amEa (Machine.core (↑h.t) s) f 8)) 256 256 true false s) ∧ (ownStore (↑h.t) (BitVec.toNat (amEa (Machine.core (↑h.t) s) f 8)) s = true) ∧ (s.storeErr = [])) ∧
    (∃ (h : Hd) (f : FAM) (x : SlotIn) (s : State), (Fires (Instr.wld h f) (↑h.t) x s) ∧ (Permitted (↑h.t) (BitVec.toNat (amEa (Machine.core (↑h.t) s) f 6)) 4672 64 true false s) ∧ (ownStore (↑h.t) (BitVec.toNat (amEa (Machine.core (↑h.t) s) f 6)) s = true) ∧ (s.storeErr = [])) :=
  ⟨⟨hd3, (am 9 0 0), (sx (.ldb hd3 (am 9 0 0))), (rS win3), LdOp.ldb, by decide +kernel⟩,
   ⟨hd3, (am 1 2 0xC0), (sx (.vld hd3 (am 1 2 0xC0))), (rS (win3-0x40)), by decide +kernel⟩,
   ⟨hd3, (am 3 0 0), (sx (.wld hd3 (am 3 0 0))), (rS win3), by decide +kernel⟩⟩

theorem test_meets_OwnStoreStores :
    (∃ (h : Hd) (f : FAM) (x : SlotIn) (s : State) (o : StOp), (Fires (stInstr o h f) (↑h.t) x s) ∧ (Permitted (↑h.t) (BitVec.toNat (amEa (Machine.core (↑h.t) s) f (stSize o).log2)) (stSize o) (stSize o) false true s) ∧ (ownStore (↑h.t) (BitVec.toNat (amEa (Machine.core (↑h.t) s) f (stSize o).log2)) s = true) ∧ (s.storeErr = [])) ∧
    (∃ (h : Hd) (f : FAM) (x : SlotIn) (s : State), (Fires (Instr.vst h f) (↑h.t) x s) ∧ (Permitted (↑h.t) (BitVec.toNat (amEa (Machine.core (↑h.t) s) f 8)) 256 256 false true s) ∧ (ownStore (↑h.t) (BitVec.toNat (amEa (Machine.core (↑h.t) s) f 8)) s = true) ∧ (s.storeErr = [])) ∧
    (∃ (h : Hd) (f : FAM) (x : SlotIn) (s : State), (Fires (Instr.wst h f) (↑h.t) x s) ∧ (Permitted (↑h.t) (BitVec.toNat (amEa (Machine.core (↑h.t) s) f 6)) 4672 64 false true s) ∧ (ownStore (↑h.t) (BitVec.toNat (amEa (Machine.core (↑h.t) s) f 6)) s = true) ∧ (s.storeErr = [])) :=
  ⟨⟨hd3, (am 4 1 6), (sx (.sth hd3 (am 4 1 6))), (rS win3), StOp.sth, by decide +kernel⟩,
   ⟨hd3, (am 1 2 0xC0), (sx (.vst hd3 (am 1 2 0xC0))), (rS (win3-0x40)), by decide +kernel⟩,
   ⟨hd3, (am 3 0 0), (sx (.wst hd3 (am 3 0 0))), rW, by decide +kernel⟩⟩

theorem test_meets_RemoteAccessesIssueAndReturn :
    (∃ (h : Hd) (f : FAM) (x : SlotIn) (s : State) (o : LdOp), (Fires (ldInstr o h f) (↑h.t) x s) ∧ (Permitted (↑h.t) (BitVec.toNat (amEa (Machine.core (↑h.t) s) f (ldSize o).log2)) (ldSize o) (ldSize o) true false s) ∧ (ownStore (↑h.t) (BitVec.toNat (amEa (Machine.core (↑h.t) s) f (ldSize o).log2)) s = false)) ∧
    (∃ (h : Hd) (f : FAM) (x : SlotIn) (s : State) (o : StOp), (Fires (stInstr o h f) (↑h.t) x s) ∧ (Permitted (↑h.t) (BitVec.toNat (amEa (Machine.core (↑h.t) s) f (stSize o).log2)) (stSize o) (stSize o) false true s) ∧ (ownStore (↑h.t) (BitVec.toNat (amEa (Machine.core (↑h.t) s) f (stSize o).log2)) s = false)) ∧
    (∃ (h : Hd) (f : FAM) (x : SlotIn) (s : State), (Fires (Instr.vld h f) (↑h.t) x s) ∧ (Permitted (↑h.t) (BitVec.toNat (amEa (Machine.core (↑h.t) s) f 8)) 256 256 true false s) ∧ (ownStore (↑h.t) (BitVec.toNat (amEa (Machine.core (↑h.t) s) f 8)) s = false)) ∧
    (∃ (h : Hd) (f : FAM) (x : SlotIn) (s : State), (Fires (Instr.vst h f) (↑h.t) x s) ∧ (Permitted (↑h.t) (BitVec.toNat (amEa (Machine.core (↑h.t) s) f 8)) 256 256 false true s) ∧ (ownStore (↑h.t) (BitVec.toNat (amEa (Machine.core (↑h.t) s) f 8)) s = false)) ∧
    (∃ (h : Hd) (f : FAM) (x : SlotIn) (s : State), (Fires (Instr.wld h f) (↑h.t) x s) ∧ (Permitted (↑h.t) (BitVec.toNat (amEa (Machine.core (↑h.t) s) f 6)) 4672 64 true false s) ∧ (ownStore (↑h.t) (BitVec.toNat (amEa (Machine.core (↑h.t) s) f 6)) s = false)) ∧
    (∃ (h : Hd) (f : FAM) (x : SlotIn) (s : State), (Fires (Instr.wst h f) (↑h.t) x s) ∧ (Permitted (↑h.t) (BitVec.toNat (amEa (Machine.core (↑h.t) s) f 6)) 4672 64 false true s) ∧ (ownStore (↑h.t) (BitVec.toNat (amEa (Machine.core (↑h.t) s) f 6)) s = false)) ∧
    (∃ (h : Hd) (f : FAM) (x : SlotIn) (s : State) (o : AmoOp) (sd : BitVec 5) (sx : BitVec 5), (Fires (amoInstr o h sd f.aa sx) (↑h.t) x s) ∧ (Permitted (↑h.t) (BitVec.toNat ((Machine.core (↑h.t) s).ag f.aa)) 8 8 true true s) ∧ (amoPlace (BitVec.toNat ((Machine.core (↑h.t) s).ag f.aa)) s = true) ∧ (f.mode = 0#2)) ∧
    (∃ (t : TileN) (k : Nat) (a : Access) (d : List Byte) (bad : Bool) (s : State), (Sound s) ∧ ((Machine.core (t.val) s).hold = none) ∧ ((Machine.core (t.val) s).outst[k]? = some a) ∧ (a.done = some (d, bad))) :=
  ⟨⟨hd3, (am 9 1 8), (sx (.ldd hd3 (am 9 1 8))), (rS 0x1000), LdOp.ldd, by decide +kernel⟩,
   ⟨hd3, (am 1 1 8), (sx (.std hd3 (am 1 1 8))), (rS 0x1000), StOp.std, by decide +kernel⟩,
   ⟨hd3, (am 9 1 0x100), (sx (.vld hd3 (am 9 1 0x100))), (rS 0x1000), by decide +kernel⟩,
   ⟨hd3, (am 9 1 0x100), (sx (.vst hd3 (am 9 1 0x100))), (rS 0x1000), by decide +kernel⟩,
   ⟨hd3, (am 1 1 0x40), (sx (.wld hd3 (am 1 1 0x40))), (rS 0x1000), by decide +kernel⟩,
   ⟨hd3, (am 3 1 0x40), (sx (.wst hd3 (am 3 1 0x40))), (rS 0x1000), by decide +kernel⟩,
   ⟨hd3, (am 3 0 0), (sx (.amoadd hd3 5 1 2)), (rS 0x1000), AmoOp.add, (5#5), (2#5), by decide +kernel⟩,
   ⟨(3 : TileN), 1, ⟨4, 0x1000, 8, .load .ldh 7, some (d8, false)⟩, d8, false, (rOut (.load .ldh 7) d8 false), by decide +kernel⟩⟩

end Memory

namespace Enqueue

def q7 : State := setLr 3 { queue := List.replicate 7 ⟨7, 0, 0, 0⟩ } r2
def fs : FStep := { aa := 1, ac := 2, index := 31, floor := 521, pb := 2, negate := true, first := true, inc := true, stride := 0xFFC0, sinc := true }
def vcore : Core := { regs with v := [(1, BitVec.ofNat 2048 (0x3F800000 + 0x40490FDB * 2^32 + 0x7FC00000 * 2^64)), (2, BitVec.ofNat 2048 (0xC0000000 + 0x3F000000 * 2^32 + 0x80000000 * 2^64)), (3, 0x41200000#2048)] }
def rv : State := coreS vcore
def fv : FV := { vd := 5, va := 1, vb := 2, vc := 3, ctl := 0, imm := 1 }
def hdv : Hd := { t := 3, pg := 1, pn := false }

theorem test_meets_AddressAndMoveResults :
    (∃ (h : Hd) (x : SlotIn) (s : State) (ad : BitVec 4) (aa : BitVec 4) (imm : BitVec 38), (Fires (Instr.aaddi h ad aa imm) (↑h.t) x s)) ∧
    (∃ (h : Hd) (x : SlotIn) (s : State) (ad : BitVec 4) (aa : BitVec 4) (sx : BitVec 5), (Fires (Instr.aadd h ad aa sx) (↑h.t) x s)) ∧
    (∃ (h : Hd) (x : SlotIn) (s : State) (ad : BitVec 4) (sx : BitVec 5), (Fires (Instr.amovs h ad sx) (↑h.t) x s)) ∧
    (∃ (h : Hd) (x : SlotIn) (s : State) (sd : BitVec 5) (aa : BitVec 4), (Fires (Instr.smova h sd aa) (↑h.t) x s)) ∧
    (∃ (h : Hd) (x : SlotIn) (s : State) (d : BitVec 5) (a : BitVec 5) (l : BitVec 6), (Fires (Instr.vins h d a l) (↑h.t) x s)) ∧
    (∃ (h : Hd) (x : SlotIn) (s : State) (d : BitVec 5) (a : BitVec 5) (l : BitVec 6), (Fires (Instr.vext h d a l) (↑h.t) x s)) ∧
    (∃ (h : Hd) (x : SlotIn) (s : State) (d : BitVec 5) (a : BitVec 5), (Fires (Instr.vsplat h d a) (↑h.t) x s)) ∧
    (∃ (h : Hd) (x : SlotIn) (s : State) (d : BitVec 5) (a : BitVec 5), (Fires (Instr.vmov h d a) (↑h.t) x s)) ∧
    (∃ (h : Hd) (x : SlotIn) (s : State) (d : BitVec 3) (a : BitVec 5), (Fires (Instr.pmovs h d a) (↑h.t) x s)) ∧
    (∃ (h : Hd) (x : SlotIn) (s : State) (d : BitVec 5) (a : BitVec 3), (Fires (Instr.smovp h d a) (↑h.t) x s)) :=
  ⟨⟨hd3, (sx (.aaddi hd3 1 2 0x3FFFFFFFFF)), r2, (1#4), (2#4), (0x3FFFFFFFFF#38), by decide +kernel⟩,
   ⟨hd3, (sx (.aadd hd3 1 1 4)), r2, (1#4), (1#4), (4#5), by decide +kernel⟩,
   ⟨hd3, (sx (.amovs hd3 0 4)), r2, (0#4), (4#5), by decide +kernel⟩,
   ⟨hd3, (sx (.smova hd3 4 1)), r2, (4#5), (1#4), by decide +kernel⟩,
   ⟨hd3, (sx (.vins hd3 1 4 63)), r2, (1#5), (4#5), (63#6), by decide +kernel⟩,
   ⟨hd3, (sx (.vext hd3 0 1 0)), r2, (0#5), (1#5), (0#6), by decide +kernel⟩,
   ⟨hd3, (sx (.vsplat hd3 31 4)), r2, (31#5), (4#5), by decide +kernel⟩,
   ⟨hd3, (sx (.vmov hd3 31 1)), r2, (31#5), (1#5), by decide +kernel⟩,
   ⟨hd3, (sx (.pmovs hd3 7 4)), r2, (7#3), (4#5), by decide +kernel⟩,
   ⟨hd3, (sx (.smovp hd3 9 1)), r2, (9#5), (1#3), by decide +kernel⟩⟩

theorem test_meets_LaneInstructionsEnqueue :
    (∃ (i : Instr) (t : Nat) (x : SlotIn) (s : State), (Fires i t x s) ∧ ((lrow t s).queue.length < 8) ∧ ((match x.op with | SlotOp.lrload f => !lrSuspended t s | SlotOp.lrdcfg aa => !lrSuspended t s | SlotOp.lrclose park => !lrSuspended t s | SlotOp.lrdrain set => !lrSuspended t s | SlotOp.lrsusp aa => !lrSuspended t s | SlotOp.lrprep sa => !lrSuspended t s | SlotOp.lrrest aa => true | x => false) = true)) ∧
    (∃ (h : Hd) (f : FStep) (x : SlotIn) (s : State), (Fires (Instr.lrstep h f) (↑h.t) x s) ∧ ((lrow (↑h.t) s).queue.length < 8) ∧ (lrSuspended (↑h.t) s = false)) :=
  ⟨⟨(.lrprep hd3 2), 3, (sx (.lrprep hd3 2)), q7, by decide +kernel⟩,
   ⟨hd3, fs, (sx (.lrstep hd3 fs)), q7, by decide +kernel⟩⟩

theorem test_meets_VectorLaneResults :
    (∃ (o : VOp) (h : Hd) (f : FV) (x : SlotIn) (s : State), (Fires (vInstr o h f) (↑h.t) x s) ∧ (o ∈ [VOp.vadd, VOp.vsub, VOp.vmul, VOp.vfma, VOp.vmin, VOp.vmax, VOp.vabs, VOp.vneg, VOp.vsel, VOp.vexp2, VOp.vrcp, VOp.vrsqrt, VOp.vlog2, VOp.vsigm, VOp.vrng])) ∧
    (∃ (h : Hd) (f : FV) (x : SlotIn) (s : State), (Fires (Instr.vcmp h f) (↑h.t) x s)) :=
  ⟨⟨VOp.vadd, hd3, fv, (sx (.vadd hd3 fv)), rv, by decide +kernel⟩,
   ⟨hdv, fv, (sx (.vcmp hdv fv)), rv, by decide +kernel⟩⟩

end Enqueue

namespace Vector

def vcore : Core := { regs with v := [(1, BitVec.ofNat 2048 (0x3F800000 + 0x40490FDB * 2^32 + 0x7FC00000 * 2^64)), (2, BitVec.ofNat 2048 (0xC0000000 + 0x3F000000 * 2^32 + 0x80000000 * 2^64)), (3, 0x41200000#2048)], p := [(1, 7#64)] }
def rv : State := coreS vcore
def fv : FV := { vd := 5, va := 1, vb := 2, vc := 3, ctl := 0, imm := 1 }
def hdv : Hd := { t := 3, pg := 1, pn := false }
def rmo : State := setCore 3 (((vcore.setRow 1 0 (BitVec.ofNat 576 (2^300)) 0).setRow 2 0 (BitVec.ofNat 576 (2^301)) 0).setS 3 (BitVec.ofNat 64 100)) r1

theorem test_meets_VectorLaneResults :
    (∃ (h : Hd) (f : FV) (x : SlotIn) (s : State), (Fires (Instr.vcvt h f) (↑h.t) x s) ∧ (vecCheck (Machine.core (↑h.t) s) VOp.vcvt f ((Machine.core (↑h.t) s).lanes h.pg h.pn).length = none)) ∧
    (∃ (h : Hd) (f : FV) (x : SlotIn) (s : State), (Fires (Instr.vunpk h f) (↑h.t) x s) ∧ (vecCheck (Machine.core (↑h.t) s) VOp.vunpk f ((Machine.core (↑h.t) s).lanes h.pg h.pn).length = none)) ∧
    (∃ (h : Hd) (f : FV) (x : SlotIn) (s : State), (Fires (Instr.vwrd h f) (↑h.t) x s) ∧ (vecCheck (Machine.core (↑h.t) s) VOp.vwrd f ((Machine.core (↑h.t) s).lanes h.pg h.pn).length = none)) :=
  ⟨⟨hdv, ({fv with vd := 1}), (sx (.vcvt hdv {fv with vd := 1})), rv, by decide +kernel⟩,
   ⟨hdv, ({fv with ctl := 0x2}), (sx (.vunpk hdv {fv with ctl := 0x2})), rv, by decide +kernel⟩,
   ⟨hdv, ({fv with ctl := 0x1}), (sx (.vwrd hdv {fv with ctl := 0x1})), rv, by decide +kernel⟩⟩

theorem test_meets_VectorRowAndPairResults :
    (∃ (h : Hd) (f : FV) (x : SlotIn) (s : State), (Fires (Instr.vacc h f) (↑h.t) x s) ∧ (vecCheck (Machine.core (↑h.t) s) VOp.vacc f ((Machine.core (↑h.t) s).lanes h.pg h.pn).length = none)) ∧
    (∃ (h : Hd) (f : FV) (x : SlotIn) (s : State), (Fires (Instr.vacsq h f) (↑h.t) x s) ∧ (vecCheck (Machine.core (↑h.t) s) VOp.vacsq f ((Machine.core (↑h.t) s).lanes h.pg h.pn).length = none)) ∧
    (∃ (h : Hd) (f : FV) (x : SlotIn) (s : State), (Fires (Instr.vacx h f) (↑h.t) x s) ∧ (vecCheck (Machine.core (↑h.t) s) VOp.vacx f ((Machine.core (↑h.t) s).lanes h.pg h.pn).length = none)) ∧
    (∃ (h : Hd) (f : FV) (x : SlotIn) (s : State), (Fires (Instr.vwclr h f) (↑h.t) x s)) ∧
    (∃ (h : Hd) (f : FV) (x : SlotIn) (s : State), (Fires (Instr.vmoment h f) (↑h.t) x s) ∧ (f.vd ≠ 31#5)) ∧
    (∃ (h : Hd) (f : FV) (x : SlotIn) (s : State), (Fires (Instr.vupd h f) (↑h.t) x s) ∧ (vecCheck (Machine.core (↑h.t) s) VOp.vupd f ((Machine.core (↑h.t) s).lanes h.pg h.pn).length = none)) :=
  ⟨⟨hdv, ({fv with vd := 3, ctl := 400}), (sx (.vacc hdv {fv with vd := 3, ctl := 400})), rv, by decide +kernel⟩,
   ⟨hdv, ({fv with vd := 3, ctl := 521}), (sx (.vacsq hdv {fv with vd := 3, ctl := 521})), rv, by decide +kernel⟩,
   ⟨hdv, ({fv with vd := 3, ctl := 300, imm := 63}), (sx (.vacx hdv {fv with vd := 3, ctl := 300, imm := 63})), rv, by decide +kernel⟩,
   ⟨hdv, ({fv with vd := 3, ctl := 300}), (sx (.vwclr hdv {fv with vd := 3, ctl := 300})), (setCore 3 ((vcore.setRow 3 0 5#576 1).setRowSt 3 ⟨1,true,9⟩) r1), by decide +kernel⟩,
   ⟨hdv, ({fv with vd := 30, vc := 3}), (sx (.vmoment hdv {fv with vd := 30, vc := 3})), rmo, by decide +kernel⟩,
   ⟨hdv, ({fv with vd := 30, ctl := 1, imm := 0x21}), (sx (.vupd hdv {fv with vd := 30, ctl := 1, imm := 0x21})), rv, by decide +kernel⟩⟩

theorem test_meets_VectorFormsComplete :
    (∃ (o : VOp) (h : Hd) (f : FV) (x : SlotIn) (s : State), (Fires (vInstr o h f) (↑h.t) x s) ∧ (vecCheck (Machine.core (↑h.t) s) o f ((Machine.core (↑h.t) s).lanes h.pg h.pn).length = none)) :=
  ⟨VOp.vupd, hdv, ({fv with vd := 30, ctl := 1, imm := 0x21}), (sx (.vupd hdv {fv with vd := 30, ctl := 1, imm := 0x21})), rv, by decide +kernel⟩

end Vector

namespace Signals

def cmd1 : Cmd := { id := 7, entry := List.replicate 128 0, phase := 1, ranks := [{ tile := 9 }, { tile := 3 }] }
def rcm : State := { r2 with host := { cmds := [cmd1] } }
def rcq : State := fl [(HST_CQ_BASE_base, 0, 0x1234), (HST_RING_CONTROL_enable, 0, 1), (HST_RING_CONTROL_cq_log2_size, 0, 4)] rcm
def rgr : State := fl [(TIL_CS_SHN_GRANT_HI_val, 3, 2^63)] r2
def held (i : Instr) (st ev : Nat) : State := fl [(TIL_CORE_STATUS_state, 3, st), (TIL_CS_EVT_val, 3, ev)] (setCore 3 { regs with hold := some [sx i] } State.reset)
def rsv : State := openAll (fl [(TIL_CORE_STATUS_next_index, 3, 0x7FF), (TIL_LR_SAVE_ADDR_save_addr, 3, 2)] r2)
def rgs : State := wr TIL_LR_STATUS_suspended 3 1 r2

theorem test_meets_SignalsAndShuntSlots :
    (∃ (h : Hd) (a : BitVec 5) (b : BitVec 6) (x : SlotIn) (s : State), (Fires (Instr.sig h a b) (↑h.t) x s) ∧ (b.toNat ≤ 47)) ∧
    (∃ (h : Hd) (a : BitVec 5) (b : BitVec 6) (x : SlotIn) (s : State), (Fires (Instr.sig h a b) (↑h.t) x s) ∧ (47 < b.toNat) ∧ (Quiet s) ∧ (Unserved (↑h.t) s)) ∧
    (∃ (k : Nat) (g : Signal) (s : State), (Sound s) ∧ (s.signals[k]? = some g) ∧ (rd PWR_TILE_state g.dst s = 0) ∧ (g.bit < 64)) ∧
    (∃ (h : Hd) (code : BitVec 16) (x : SlotIn) (s : State), (Fires (Instr.sigh h code) (↑h.t) x s) ∧ (Quiet s) ∧ (Unserved (↑h.t) s)) ∧
    (∃ (h : Hd) (code : BitVec 16) (x : SlotIn) (s : State) (c : Cmd), (Fires (Instr.sigh h code) (↑h.t) x s) ∧ (Quiet s) ∧ (Serves c (↑h.t) s) ∧ (CqOpen c.ring s)) ∧
    (∃ (h : Hd) (ch : BitVec 7) (x : SlotIn) (s : State) (aa : BitVec 4) (evt : Bool) (b : BitVec 6), (Fires (Instr.shst h ch aa evt b) (↑h.t) x s) ∧ (granted (↑h.t) ch.toNat s = true) ∧ (evt = true → b.toNat ≤ 47) ∧ ((Machine.core (↑h.t) s).outst = [])) ∧
    (∃ (h : Hd) (ch : BitVec 7) (x : SlotIn) (s : State) (aa : BitVec 4) (evt : Bool) (b : BitVec 6), (Fires (Instr.shst h ch aa evt b) (↑h.t) x s) ∧ (evt = true) ∧ (47 < b.toNat) ∧ (Quiet s) ∧ (Unserved (↑h.t) s)) ∧
    (∃ (h : Hd) (ch : BitVec 7) (x : SlotIn) (s : State) (aa : BitVec 4) (evt : Bool) (b : BitVec 6), (Fires (Instr.shst h ch aa evt b) (↑h.t) x s) ∧ (granted (↑h.t) ch.toNat s = false) ∧ (evt = true → b.toNat ≤ 47) ∧ (StopsAlone (↑h.t) s)) ∧
    (∃ (h : Hd) (ch : BitVec 7) (x : SlotIn) (s : State) (d : BitVec 5), (Fires (Instr.shstat h d ch) (↑h.t) x s) ∧ (granted (↑h.t) ch.toNat s = true)) ∧
    (∃ (h : Hd) (ch : BitVec 7) (x : SlotIn) (s : State) (d : BitVec 5), (Fires (Instr.shstat h d ch) (↑h.t) x s) ∧ (granted (↑h.t) ch.toNat s = false) ∧ (StopsAlone (↑h.t) s)) ∧
    (∃ (h : Hd) (ch : BitVec 7) (x : SlotIn) (s : State), (Fires (Instr.shstop h ch) (↑h.t) x s) ∧ (granted (↑h.t) ch.toNat s = true)) ∧
    (∃ (h : Hd) (ch : BitVec 7) (x : SlotIn) (s : State), (Fires (Instr.shstop h ch) (↑h.t) x s) ∧ (granted (↑h.t) ch.toNat s = false) ∧ (StopsAlone (↑h.t) s)) :=
  ⟨⟨hd3, (1#5), (47#6), (sx (.sig hd3 1 47)), r2, by decide +kernel⟩,
   ⟨hd3, (1#5), (48#6), (sx (.sig hd3 1 48)), r2, by decide +kernel⟩,
   ⟨1, (⟨3, 9, 63⟩ : Signal), ({ r2 with signals := [⟨4, 200, 0⟩, ⟨3, 9, 63⟩] }), by decide +kernel⟩,
   ⟨hd3, (0xFFFF#16), (sx (.sigh hd3 0xFFFF)), r2, by decide +kernel⟩,
   ⟨hd3, (0xFFFF#16), (sx (.sigh hd3 0xFFFF)), rcq, cmd1, by decide +kernel⟩,
   ⟨hd3, (127#7), (sx (.shst hd3 127 2 true 47)), rgr, (2#4), true, (47#6), by decide +kernel⟩,
   ⟨hd3, (127#7), (sx (.shst hd3 127 2 true 48)), r2, (2#4), true, (48#6), by decide +kernel⟩,
   ⟨hd3, (126#7), (sx (.shst hd3 126 2 true 47)), (wr TIL_LR_STATUS_suspended 3 1 rgr), (2#4), true, (47#6), by decide +kernel⟩,
   ⟨hd3, (127#7), (sx (.shstat hd3 9 127)), (wr SHN_CH_STATUS_state 127 3 rgr), (9#5), by decide +kernel⟩,
   ⟨hd3, (0#7), (sx (.shstat hd3 9 0)), rgs, (9#5), by decide +kernel⟩,
   ⟨hd3, (127#7), (sx (.shstop hd3 127)), (wr SHN_CH_STATUS_state 127 1 rgr), by decide +kernel⟩,
   ⟨hd3, (0#7), (sx (.shstop hd3 0)), rgs, by decide +kernel⟩⟩

theorem test_meets_HeldWordsRelease :
    (∃ (n : TileN) (x : SlotIn) (s : State) (sa : BitVec 5), (Held (n.val) x s) ∧ (x.op = SlotOp.wait sa) ∧ ((Machine.core (n.val) s).sg sa ≠ 0#64)) ∧
    (∃ (n : TileN) (x : SlotIn) (s : State), (Held (n.val) x s) ∧ (x.op = SlotOp.lrsync)) ∧
    (∃ (n : TileN) (x : SlotIn) (s : State) (k : BitVec 2), (Held (n.val) x s) ∧ (x.op = SlotOp.fence k)) :=
  ⟨⟨n3, (sx (.wait hd3 2)), (held (.wait hd3 2) 2 0), (2#5), by decide +kernel⟩,
   ⟨n3, (sx (.lrsync hd3)), (held (.lrsync hd3) 2 4), by decide +kernel⟩,
   ⟨n3, (sx (.fence hd3 1)), (held (.fence hd3 1) 1 4), (1#2), by decide +kernel⟩⟩

theorem test_meets_CoreControlWrites :
    (∃ (n : TileN) (s : State), (Sound s) ∧ (Answers s) ∧ (rd PWR_TILE_state (↑n) s = 0) ∧ (failedTile (↑n) s = false) ∧ (bootLocked s = false)) ∧
    (∃ (n : TileN) (s : State), (Sound s) ∧ (Answers s) ∧ (rd PWR_TILE_state (↑n) s = 0) ∧ (failedTile (↑n) s = false) ∧ (bootLocked s = true) ∧ (coreState (↑n) s = 0 ∨ coreState (↑n) s = 3)) ∧
    (∃ (n : TileN) (s : State), (Sound s) ∧ (Answers s) ∧ (rd PWR_TILE_state (↑n) s = 0) ∧ (failedTile (↑n) s = false) ∧ (coreState (↑n) s = 1 ∨ coreState (↑n) s = 2)) ∧
    (∃ (n : TileN) (s : State), (Sound s) ∧ (Answers s) ∧ (rd PWR_TILE_state (↑n) s = 0) ∧ (failedTile (↑n) s = false) ∧ (coreState (↑n) s = 1 ∨ coreState (↑n) s = 2 ∨ coreState (↑n) s = 3) ∧ (recCheck (↑n) (saveAddr (↑n) s) s = 0) ∧ (lrSuspended (↑n) s = false) ∧ ((lrow (↑n) s).restBusy = none)) ∧
    (∃ (n : TileN) (s : State), (Sound s) ∧ (Answers s) ∧ (rd PWR_TILE_state (↑n) s = 0) ∧ (failedTile (↑n) s = false) ∧ (restorable (↑n) s = true)) ∧
    (∃ (n : TileN) (s : State), (Sound s) ∧ (Answers s) ∧ (rd PWR_TILE_state (↑n) s = 0) ∧ (failedTile (↑n) s = false) ∧ (restorable (↑n) s = false)) ∧
    (∃ (n : TileN) (i : Instr) (s : State), (Sound s) ∧ (Answers s) ∧ (rd PWR_TILE_state (↑n) s = 0) ∧ (failedTile (↑n) s = true) ∧ (i ∈ [Instr.coreRun n, Instr.coreHalt n, Instr.coreSave n, Instr.coreRestore n, Instr.coreStep n])) ∧
    (∃ (n : TileN) (s : State), (Sound s) ∧ (Answers s) ∧ (rd PWR_TILE_state (↑n) s = 0) ∧ (failedTile (↑n) s = false) ∧ (bootLocked s = true) ∧ (coreState (↑n) s = 3) ∧ (rd TIL_CS_EPC_val (↑n) s ≤ 2047) ∧ (s.storeErr = []) ∧ (pendingDefer (↑n) s = none) ∧ (traced (↑n) s = false) ∧ (∀ (k : Nat), k < 8 → ∃ x, decodeSlot k (BitVec.ofNat 64 (ofLe (cells (winAddr (↑n) (2097152 + 64 * rd TIL_CS_EPC_val (↑n) s) + 8 * k) 8 s))) = some x ∧ x.wf = true ∧ x.k = k ∧ (x.op = SlotOp.nop ∨ x.op = SlotOp.lrnop))) :=
  ⟨⟨n3, (fl [(TIL_CORE_START_start, 3, 0x123), (TIL_CS_CAUSE_valid, 3, 1)] (setCore 3 regs State.reset)), by decide +kernel⟩,
   ⟨n3, (fl [(BTC_STATUS_locked, 0, 1), (TIL_CORE_START_start, 3, 0x123), (TIL_CS_CAUSE_valid, 3, 1)] (setCore 3 regs State.reset)), by decide +kernel⟩,
   ⟨n3, (fl [(TIL_CORE_STATUS_next_index, 3, 0x7FF)] r2), by decide +kernel⟩,
   ⟨n3, rsv, by decide +kernel⟩,
   ⟨n3, (fl [(TIL_CORE_START_start, 3, 0x123), (TIL_CS_CAUSE_valid, 3, 1)] (setCore 3 regs State.reset)), by decide +kernel⟩,
   ⟨n3, (fl [(TIL_CORE_STATUS_next_index, 3, 0x7FF)] r2), by decide +kernel⟩,
   ⟨n3, .coreRun n3, (fl [(ITG_TILE_CTRL_state, 3, 4)] r2), by decide +kernel⟩,
   ⟨n3, (fl [(BTC_STATUS_locked, 0, 1), (TIL_CORE_STATUS_state, 3, 3), (TIL_CS_EPC_val, 3, 0x7FF)] { setCore 3 regs State.reset with mem := []}), by decide +kernel⟩⟩

end Signals

namespace Context

def rsv : State := openAll (fl [(TIL_CORE_STATUS_next_index, 3, 0x7FF), (TIL_LR_SAVE_ADDR_save_addr, 3, 2), (TIL_CORE_CTX_ADDR_ctx_addr, 3, 4096)] (setLr 3 { queue := [⟨7,1,2,3⟩] } r2))
def rcs : State := { setLr 3 { words := [(5, 0x77#576)], tags := [(5, 3)] } (wr TIL_CORE_STATUS_state 3 4 rsv) with mem := [⟨0x200010, 5⟩, ⟨0x400, 0xFF⟩].reverse }
def rcs2 : State := modCore 3 (fun c => { c with recAddr := some 0x200000 }) rcs
def sv4 : State := { modCore 3 (fun c => { c with recAddr := some 0x200000 }) (wr TIL_CORE_STATUS_state 3 6 (setLr 3 {} rsv)) with mem := [⟨1026, 1⟩, ⟨0x200002, 1⟩, ⟨0x200009, 4⟩] }
def cap (i : Instr) (c0 c1 : U64) : Cap := { slot := (sx i).word.toNat, c0 := c0, c1 := c1, idx := 4 }
def rq (c : Cap) (l : List (Fld × Nat × Nat)) (m : List Host.Cell) (cur : Nat) : State := fl l { setLr 3 { queue := [c], current := cur } (State.reset) with mem := m }
def fs : FStep := { aa := 1, ac := 2, index := 31, floor := 400, pb := 2, negate := true, first := false, inc := true, stride := 0xFFC0, sinc := true }
def mcs (f : Nat) : State := rq (cap (.lrstep hd3 fs) 0x1000 0x2000) [(TIL_LR_STATUS_pass_open, 3, 1)] ((List.range 100).map fun i => ⟨winAddr 3 (0x1000) + i, BitVec.ofNat 8 (i+1)⟩) f
def lop (f : Nat) (b : Bool) : LoadOp := { base := 0x1000, sbase := 0x2000, fmt := f, dir := false, o := 64, pa := 2, idx := 4, busy := b }
def rld (f : Nat) (b : Bool) : State := fl [(TIL_LR_STATUS_shadow_loading, 3, 1)] { setLr 3 { load := some (lop f b) } State.reset with mem := (List.range 100).map fun i => ⟨winAddr 3 0x1000 + i, BitVec.ofNat 8 (i+1)⟩ }
abbrev Front (n : TileN) (q : Cap) (s : State) : Prop :=
  Sound s ∧ (lrow n s).queue = [q] ∧ (lrow n s).exc = none ∧ (lrow n s).suspBusy = none ∧ (lrow n s).restBusy = none ∧ (Machine.core n s).hold = none
    ∧ (on TIL_LR_STATUS_suspended n s = false ∨ capOp q = 8)
def stepDesc (n : TileN) (q : Cap) (s : State) : Nat := if bit q.slot 38 = true then (lrow n s).pending else (lrow n s).current
def stepSet (n : TileN) (q : Cap) (s : State) : Nat := if bit q.slot 38 = true then pIdle (stepDesc n q s) else aset n s
def lg : Nat := 127 * 2 ^ 13 + 127 * 2 ^ 21
def stp (f : Bool) (c0 : U64) : Cap := cap (.lrstep hd3 { fs with first := f }) c0 0x2000
def row (c : Cap) (l : List (Fld × Nat × Nat)) (x : LaneRow) : State := openAll (fl l (setLr 3 { x with queue := [c] } State.reset))
def po : Fld × Nat × Nat := (TIL_LR_STATUS_pass_open, 3, 1)
def pv : Fld × Nat × Nat := (TIL_LR_STATUS_pending_valid, 3, 1)
def ld (f : BitVec 4) (o : BitVec 2) (c0 c1 : U64) : Cap := cap (.lrload hd3 ⟨1, 2, f, false, o, 2⟩) c0 c1
def grp : LaneRow := { current := lg, groupValid := true, groupIndex := 31, groupSteps := 7, floors := [(7, ⟨400, true⟩)], shorts := [(1, ⟨-5, 3, true⟩)], count0 := 2 ^ 53 - 64 }
def mdd (b : Byte) : List Host.Cell := memOf [(winAddr 3 0x1000, b :: (leBytes 0x8000 8 ++ leBytes 512 8).drop 1)]
def dfr : Defer := { code := 3, slot := 7, addr := some 0x1008, lrEpc := none }
def rcs3 : State := wr TIL_LR_STATUS_suspended 3 1 (modCore 3 (fun c => { c with defer := some dfr }) rcs2)
def rec_ (w0 w1 : Nat) (l : List (Nat × List Byte)) : State := { sv4 with mem := memOf ([(0x400, leBytes (2 ^ 16) 8), (0x200000, leBytes w0 8 ++ leBytes w1 8)] ++ l) }
def stepWord : List Byte := leBytes (cap (.lrstep hd3 fs) 0 0).slot 8
/-- Whether an entry names a lane-row instruction is asked of its decoding. -/
theorem names_iff {α : Type} {o : Option α} {p : α → Bool} : (∃ x, o = some x ∧ p x = true) ↔ o.any p = true := by
  cases o <;> simp

theorem test_meets_ContextSavedAndRestored :
    (∃ (n : TileN) (a : Nat) (s : State), (Calm s) ∧ (PlainMem s) ∧ (∀ (d : Nat), (poss d s).st = 0) ∧ ((Machine.core (↑n) s).ctl = 0) ∧ ((Machine.core (↑n) s).recAddr = some a) ∧ (a % 512 = 0) ∧ (mapped a 27968 s = true) ∧ (anyDown a 27968 s = false) ∧ (coreState (↑n) s = 4) ∧ ((lrow (↑n) s).suspBusy = none) ∧ ((lrow (↑n) s).suspHeld = false) ∧ ((lrow (↑n) s).restBusy = none) ∧ ((Machine.core (↑n) s).outst = []) ∧ (protOk (tileClass (↑n) s) a 27968 false true s = true) ∧ (progLocked a 27968 s = false) ∧ (pendingDefer (↑n) s = none)) ∧
    (∃ (n : TileN) (a : Nat) (s : State) (d : Defer), (Calm s) ∧ (PlainMem s) ∧ (∀ (d : Nat), (poss d s).st = 0) ∧ ((Machine.core (↑n) s).ctl = 0) ∧ ((Machine.core (↑n) s).recAddr = some a) ∧ (a % 512 = 0) ∧ (mapped a 27968 s = true) ∧ (anyDown a 27968 s = false) ∧ (coreState (↑n) s = 4) ∧ (on TIL_LR_STATUS_suspended (↑n) s = true) ∧ ((lrow (↑n) s).suspBusy = none) ∧ ((lrow (↑n) s).suspHeld = false) ∧ ((lrow (↑n) s).restBusy = none) ∧ ((Machine.core (↑n) s).outst = []) ∧ (protOk (tileClass (↑n) s) a 27968 false true s = true) ∧ (progLocked a 27968 s = false) ∧ (pendingDefer (↑n) s = some d) ∧ (d.code < 256) ∧ (d.slot < 8) ∧ (Unserved (↑n) s)) ∧
    (∃ (n : TileN) (a : Nat) (s : State), (Calm s) ∧ (PlainMem s) ∧ (∀ (d : Nat), (poss d s).st = 0) ∧ ((Machine.core (↑n) s).ctl = 0) ∧ ((Machine.core (↑n) s).recAddr = some a) ∧ (a % 512 = 0) ∧ (mapped a 27968 s = true) ∧ (anyDown a 27968 s = false) ∧ (coreState (↑n) s = 6) ∧ ((lrow (↑n) s).suspHeld = false) ∧ (s.cut.restored = false) ∧ (protOk (tileClass (↑n) s) a 27968 true false s = true) ∧ ((Machine.core (↑n) s).back = 0 ∨ (Machine.core (↑n) s).back = 5) ∧ (bits (ofLe (cells (a + 0) 8 s)) 16 8 ≠ 1)) ∧
    (∃ (n : TileN) (a : Nat) (s : State), (Calm s) ∧ (PlainMem s) ∧ (∀ (d : Nat), (poss d s).st = 0) ∧ ((Machine.core (↑n) s).ctl = 0) ∧ ((Machine.core (↑n) s).recAddr = some a) ∧ (a % 512 = 0) ∧ (mapped a 27968 s = true) ∧ (anyDown a 27968 s = false) ∧ (coreState (↑n) s = 6) ∧ ((lrow (↑n) s).suspHeld = false) ∧ (s.cut.restored = false) ∧ (protOk (tileClass (↑n) s) a 27968 true false s = true) ∧ ((Machine.core (↑n) s).back = 0 ∨ (Machine.core (↑n) s).back = 5) ∧ (bits (ofLe (cells (a + 0) 8 s)) 16 8 = 1) ∧ (bits (ofLe (cells (a + 0) 8 s)) 52 4 ≤ 8) ∧ (bits (ofLe (cells (a + 0) 8 s)) 48 3 ≤ 4) ∧ (∃ k, k < bits (ofLe (cells (a + 0) 8 s)) 52 4 ∧ ¬∃ x, decodeSlot 5 (BitVec.ofNat 64 (ofLe (cells (a + (768 + 32 * k)) 8 s))) = some x ∧ enqueued x.op = true)) ∧
    (∃ (n : TileN) (a : Nat) (s : State), (Calm s) ∧ (PlainMem s) ∧ (∀ (d : Nat), (poss d s).st = 0) ∧ ((Machine.core (↑n) s).ctl = 0) ∧ ((Machine.core (↑n) s).recAddr = some a) ∧ (a % 512 = 0) ∧ (mapped a 27968 s = true) ∧ (anyDown a 27968 s = false) ∧ (coreState (↑n) s = 6) ∧ ((lrow (↑n) s).suspHeld = false) ∧ (s.cut.restored = false) ∧ (protOk (tileClass (↑n) s) a 27968 true false s = true) ∧ ((Machine.core (↑n) s).back = 0 ∨ (Machine.core (↑n) s).back = 5) ∧ (bits (ofLe (cells (a + 0) 8 s)) 16 8 = 1) ∧ (bits (ofLe (cells (a + 0) 8 s)) 52 4 ≤ 8) ∧ (bits (ofLe (cells (a + 0) 8 s)) 48 3 ≤ 4) ∧ (∀ (k : Nat), k < bits (ofLe (cells (a + 0) 8 s)) 52 4 → ∃ x, decodeSlot 5 (BitVec.ofNat 64 (ofLe (cells (a + (768 + 32 * k)) 8 s))) = some x ∧ enqueued x.op = true) ∧ (ofLe (cells (a + 8) 8 s) % 512 ≠ 0 ∨ 2 ^ 48 ≤ ofLe (cells (a + 8) 8 s))) ∧
    (∃ (n : TileN) (a : Nat) (s : State), (Calm s) ∧ (PlainMem s) ∧ (∀ (d : Nat), (poss d s).st = 0) ∧ ((Machine.core (↑n) s).ctl = 0) ∧ ((Machine.core (↑n) s).recAddr = some a) ∧ (a % 512 = 0) ∧ (mapped a 27968 s = true) ∧ (anyDown a 27968 s = false) ∧ (coreState (↑n) s = 6) ∧ ((lrow (↑n) s).suspHeld = false) ∧ (s.cut.restored = false) ∧ (protOk (tileClass (↑n) s) a 27968 true false s = true) ∧ ((Machine.core (↑n) s).back = 0 ∨ (Machine.core (↑n) s).back = 5) ∧ (bits (ofLe (cells (a + 0) 8 s)) 16 8 = 1) ∧ (bits (ofLe (cells (a + 0) 8 s)) 52 4 ≤ 8) ∧ (bits (ofLe (cells (a + 0) 8 s)) 48 3 ≤ 4) ∧ (∀ (k : Nat), k < bits (ofLe (cells (a + 0) 8 s)) 52 4 → ∃ x, decodeSlot 5 (BitVec.ofNat 64 (ofLe (cells (a + (768 + 32 * k)) 8 s))) = some x ∧ enqueued x.op = true) ∧ (ofLe (cells (a + 8) 8 s) % 512 = 0) ∧ (ofLe (cells (a + 8) 8 s) < 2 ^ 48) ∧ (mapped (ofLe (cells (a + 8) 8 s)) 337408 s = true) ∧ (anyDown (ofLe (cells (a + 8) 8 s)) 337408 s = false) ∧ (protOk (tileClass (↑n) s) (ofLe (cells (a + 8) 8 s)) 337408 true false s = true) ∧ (bits (recNat (cells (ofLe (cells (a + 8) 8 s)) 337408 s) 0 8) 16 8 = 1) ∧ (rowEmpty (↑n) s = true)) ∧
    (∃ (n : TileN) (a : Nat) (s : State), (Calm s) ∧ (PlainMem s) ∧ (∀ (d : Nat), (poss d s).st = 0) ∧ ((Machine.core (↑n) s).ctl = 0) ∧ ((Machine.core (↑n) s).recAddr = some a) ∧ (a % 512 = 0) ∧ (mapped a 27968 s = true) ∧ (anyDown a 27968 s = false) ∧ (coreState (↑n) s = 6) ∧ ((lrow (↑n) s).suspHeld = false) ∧ (s.cut.restored = false) ∧ (protOk (tileClass (↑n) s) a 27968 true false s = true) ∧ ((Machine.core (↑n) s).back = 0 ∨ (Machine.core (↑n) s).back = 5) ∧ (bits (ofLe (cells (a + 0) 8 s)) 16 8 = 1) ∧ (bits (ofLe (cells (a + 0) 8 s)) 52 4 ≤ 8) ∧ (bits (ofLe (cells (a + 0) 8 s)) 48 3 ≤ 4) ∧ (∀ (k : Nat), k < bits (ofLe (cells (a + 0) 8 s)) 52 4 → ∃ x, decodeSlot 5 (BitVec.ofNat 64 (ofLe (cells (a + (768 + 32 * k)) 8 s))) = some x ∧ enqueued x.op = true) ∧ (ofLe (cells (a + 8) 8 s) % 512 = 0) ∧ (ofLe (cells (a + 8) 8 s) < 2 ^ 48) ∧ (mapped (ofLe (cells (a + 8) 8 s)) 337408 s = true) ∧ (anyDown (ofLe (cells (a + 8) 8 s)) 337408 s = false) ∧ (protOk (tileClass (↑n) s) (ofLe (cells (a + 8) 8 s)) 337408 true false s = true) ∧ (bits (recNat (cells (ofLe (cells (a + 8) 8 s)) 337408 s) 0 8) 16 8 = 1) ∧ (rowEmpty (↑n) s = true)) :=
  ⟨⟨n3, 0x200000, rcs2, by decide +kernel, by decide +kernel, fun _ => rfl, by decide +kernel⟩,
   ⟨n3, 0x200000, rcs3, dfr, by decide +kernel, by decide +kernel, fun _ => rfl, by decide +kernel⟩,
   ⟨n3, 0x200000, rec_ (2 * 2 ^ 16) 0x400 [], by decide +kernel, by decide +kernel, fun _ => rfl, by decide +kernel⟩,
   ⟨n3, 0x200000, rec_ (2 ^ 16 + 2 ^ 52) 0x400 [], by decide +kernel, by decide +kernel, fun _ => rfl, by simp only [names_iff]; decide +kernel⟩,
   ⟨n3, 0x200000, rec_ (2 ^ 16) 0x500 [], by decide +kernel, by decide +kernel, fun _ => rfl, by simp only [names_iff]; decide +kernel⟩,
   ⟨n3, 0x200000, sv4, by decide +kernel, by decide +kernel, fun _ => rfl, by simp only [names_iff]; decide +kernel⟩,
   ⟨n3, 0x200000, rec_ (2 ^ 16 + 2 ^ 48 + 2 ^ 52) 0x400 [(0x200300, stepWord)], by decide +kernel, by decide +kernel, fun _ => rfl, by simp only [names_iff]; decide +kernel⟩⟩

theorem test_meets_QueueDispatchAndShadowLoads :
    (∃ (n : TileN) (q : Cap) (s : State), (Front n q s) ∧ (capOp q = 1 ∧ bits q.slot 25 10 ≤ 521 ∧ bits q.slot 35 2 ≤ 2 ∧ (BitVec.toNat q.c0 % 2 ^ 21 % opBytes (pOf (stepDesc n q s)) = 0 ∧ BitVec.toNat q.c0 % 2 ^ 21 + opBytes (pOf (stepDesc n q s)) ≤ 2097152 ∧ (fmtBlock (pOf (stepDesc n q s)) = true → BitVec.toNat q.c1 % 2 ^ 21 + kOf (pOf (stepDesc n q s)) / 32 ≤ 2097152)) ∧ passLegal (stepDesc n q s) = true ∧ s.storeErr = [] ∧ (lrow (↑n) s).accErr = [] ∧ (lrow (↑n) s).sample = none ∧ GroupSound (lrow (↑n) s)) ∧ (bit q.slot 38 = false) ∧ (on TIL_LR_STATUS_pass_open (↑n) s = true) ∧ (rd TIL_LR_STATUS_pass_open (↑n) s = 1) ∧ ((blkFloor (lrow (↑n) s) (stepSet n q s) (bits q.slot 20 5 / 4)).set = true → (blkFloor (lrow (↑n) s) (stepSet n q s) (bits q.slot 20 5 / 4)).floor = bits q.slot 25 10) ∧ (countOf (↑n) (stepSet n q s) s + kOf (pOf (stepDesc n q s)) ≤ 2 ^ 53)) ∧
    (∃ (n : TileN) (q : Cap) (s : State), (Front n q s) ∧ (capOp q = 1 ∧ bits q.slot 25 10 ≤ 521 ∧ bits q.slot 35 2 ≤ 2 ∧ (BitVec.toNat q.c0 % 2 ^ 21 % opBytes (pOf (stepDesc n q s)) = 0 ∧ BitVec.toNat q.c0 % 2 ^ 21 + opBytes (pOf (stepDesc n q s)) ≤ 2097152 ∧ (fmtBlock (pOf (stepDesc n q s)) = true → BitVec.toNat q.c1 % 2 ^ 21 + kOf (pOf (stepDesc n q s)) / 32 ≤ 2097152)) ∧ passLegal (stepDesc n q s) = true ∧ s.storeErr = [] ∧ (lrow (↑n) s).accErr = [] ∧ (lrow (↑n) s).sample = none ∧ GroupSound (lrow (↑n) s)) ∧ (bit q.slot 38 = true) ∧ (on TIL_LR_STATUS_pending_valid (↑n) s = true) ∧ (on TIL_LR_STATUS_pass_open (↑n) s = false) ∧ (pKeep (stepDesc n q s) = true ∨ on TIL_LR_STATUS_shadow_valid (↑n) s = true) ∧ (pAdd (stepDesc n q s) = false) ∧ (draining (↑n) (stepSet n q s) s = false) ∧ (stoppedDrain (↑n) (stepSet n q s) s = none) ∧ ((lrow (↑n) s).groupValid = false) ∧ (rd ITG_CONTROL_dup_period 0 s = 0)) ∧
    (∃ (n : TileN) (q : Cap) (s : State), (Front n q s) ∧ (capOp q = 1) ∧ (bit q.slot 38 = true) ∧ (on TIL_LR_STATUS_pending_valid (↑n) s = false)) ∧
    (∃ (n : TileN) (q : Cap) (s : State), (Front n q s) ∧ (capOp q = 1) ∧ (bit q.slot 38 = false) ∧ (on TIL_LR_STATUS_pass_open (↑n) s = false)) ∧
    (∃ (n : TileN) (q : Cap) (s : State), (Front n q s) ∧ (capOp q = 1) ∧ (bit q.slot 38 = true) ∧ (on TIL_LR_STATUS_pending_valid (↑n) s = true) ∧ (pKeep (stepDesc n q s) = false) ∧ (on TIL_LR_STATUS_shadow_valid (↑n) s = false) ∧ ((lrow (↑n) s).load = none)) ∧
    (∃ (n : TileN) (q : Cap) (s : State), (Front n q s) ∧ (capOp q = 1) ∧ (bit q.slot 38 = true) ∧ (on TIL_LR_STATUS_pending_valid (↑n) s = true) ∧ (pKeep (stepDesc n q s) = true ∨ on TIL_LR_STATUS_shadow_valid (↑n) s = true) ∧ (passLegal (stepDesc n q s) = false)) ∧
    (∃ (n : TileN) (q : Cap) (s : State), (Front n q s) ∧ (capOp q = 1) ∧ (bit q.slot 38 = true) ∧ (on TIL_LR_STATUS_pending_valid (↑n) s = true) ∧ (pKeep (stepDesc n q s) = true ∨ on TIL_LR_STATUS_shadow_valid (↑n) s = true) ∧ (passLegal (stepDesc n q s) = true) ∧ ((stoppedDrain (↑n) (nextSet (↑n) s) s).isSome = true)) ∧
    (∃ (n : TileN) (q : Cap) (s : State), (Front n q s) ∧ (capOp q = 1 ∧ bit q.slot 38 = false ∧ on TIL_LR_STATUS_pass_open (↑n) s = true) ∧ (521 < bits q.slot 25 10 ∨ (blkFloor (lrow (↑n) s) (stepSet n q s) (bits q.slot 20 5 / 4)).set = true ∧ (blkFloor (lrow (↑n) s) (stepSet n q s) (bits q.slot 20 5 / 4)).floor ≠ bits q.slot 25 10 ∨ 2 < bits q.slot 35 2)) ∧
    (∃ (n : TileN) (q : Cap) (s : State), (Front n q s) ∧ (capOp q = 1 ∧ bit q.slot 38 = false ∧ on TIL_LR_STATUS_pass_open (↑n) s = true) ∧ (bits q.slot 25 10 ≤ 521) ∧ ((blkFloor (lrow (↑n) s) (stepSet n q s) (bits q.slot 20 5 / 4)).set = true → (blkFloor (lrow (↑n) s) (stepSet n q s) (bits q.slot 20 5 / 4)).floor = bits q.slot 25 10) ∧ (bits q.slot 35 2 ≤ 2) ∧ (BitVec.toNat q.c0 % 2 ^ 21 % opBytes (pOf (stepDesc n q s)) ≠ 0 ∨ 2097152 < BitVec.toNat q.c0 % 2 ^ 21 + opBytes (pOf (stepDesc n q s)))) ∧
    (∃ (n : TileN) (q : Cap) (s : State), (Front n q s) ∧ (capOp q = 1 ∧ bit q.slot 38 = false ∧ on TIL_LR_STATUS_pass_open (↑n) s = true) ∧ (bits q.slot 25 10 ≤ 521) ∧ ((blkFloor (lrow (↑n) s) (stepSet n q s) (bits q.slot 20 5 / 4)).set = true → (blkFloor (lrow (↑n) s) (stepSet n q s) (bits q.slot 20 5 / 4)).floor = bits q.slot 25 10) ∧ (bits q.slot 35 2 ≤ 2) ∧ (BitVec.toNat q.c0 % 2 ^ 21 % opBytes (pOf (stepDesc n q s)) = 0) ∧ (BitVec.toNat q.c0 % 2 ^ 21 + opBytes (pOf (stepDesc n q s)) ≤ 2097152) ∧ (fmtBlock (pOf (stepDesc n q s)) = true) ∧ (2097152 < BitVec.toNat q.c1 % 2 ^ 21 + kOf (pOf (stepDesc n q s)) / 32)) ∧
    (∃ (n : TileN) (q : Cap) (s : State), (Front n q s) ∧ (capOp q = 1 ∧ bit q.slot 38 = false ∧ on TIL_LR_STATUS_pass_open (↑n) s = true) ∧ (bits q.slot 25 10 ≤ 521) ∧ ((blkFloor (lrow (↑n) s) (stepSet n q s) (bits q.slot 20 5 / 4)).set = true → (blkFloor (lrow (↑n) s) (stepSet n q s) (bits q.slot 20 5 / 4)).floor = bits q.slot 25 10) ∧ (bits q.slot 35 2 ≤ 2) ∧ (BitVec.toNat q.c0 % 2 ^ 21 % opBytes (pOf (stepDesc n q s)) = 0 ∧ BitVec.toNat q.c0 % 2 ^ 21 + opBytes (pOf (stepDesc n q s)) ≤ 2097152 ∧ (fmtBlock (pOf (stepDesc n q s)) = true → BitVec.toNat q.c1 % 2 ^ 21 + kOf (pOf (stepDesc n q s)) / 32 ≤ 2097152)) ∧ (2 ^ 53 < countOf (↑n) (stepSet n q s) s + kOf (pOf (stepDesc n q s)))) ∧
    (∃ (n : TileN) (q : Cap) (s : State), (Front n q s) ∧ (capOp q = 3)) ∧
    (∃ (n : TileN) (q : Cap) (s : State), (Front n q s) ∧ (capOp q = 2) ∧ (7 < bits q.slot 20 4 ∨ fmtBlock (bits q.slot 20 4) = true ∧ bit q.slot 24 = true ∨ kOf (bits q.slot 20 4) ≤ bits q.slot 25 2 * 64 ∨ 2 < bits q.slot 27 2)) ∧
    (∃ (n : TileN) (q : Cap) (s : State), (Front n q s) ∧ (capOp q = 2) ∧ (¬(7 < bits q.slot 20 4 ∨ fmtBlock (bits q.slot 20 4) = true ∧ bit q.slot 24 = true ∨ kOf (bits q.slot 20 4) ≤ bits q.slot 25 2 * 64 ∨ 2 < bits q.slot 27 2)) ∧ (BitVec.toNat q.c0 % 2 ^ 21 % 256 ≠ 0 ∨ 2097152 < BitVec.toNat q.c0 % 2 ^ 21 + storedBytes (bits q.slot 20 4) ∨ fmtBlock (bits q.slot 20 4) = true ∧ 2097152 < BitVec.toNat q.c1 % 2 ^ 21 + kOf (bits q.slot 20 4) * (kOf (bits q.slot 20 4) / 32))) ∧
    (∃ (n : TileN) (q : Cap) (s : State), (Front n q s) ∧ (capOp q = 2) ∧ (¬(7 < bits q.slot 20 4 ∨ fmtBlock (bits q.slot 20 4) = true ∧ bit q.slot 24 = true ∨ kOf (bits q.slot 20 4) ≤ bits q.slot 25 2 * 64 ∨ 2 < bits q.slot 27 2)) ∧ (¬(BitVec.toNat q.c0 % 2 ^ 21 % 256 ≠ 0 ∨ 2097152 < BitVec.toNat q.c0 % 2 ^ 21 + storedBytes (bits q.slot 20 4) ∨ fmtBlock (bits q.slot 20 4) = true ∧ 2097152 < BitVec.toNat q.c1 % 2 ^ 21 + kOf (bits q.slot 20 4) * (kOf (bits q.slot 20 4) / 32)))) ∧
    (∃ (n : TileN) (q : Cap) (s : State), (Front n q s) ∧ (capOp q = 2) ∧ (¬(7 < bits q.slot 20 4 ∨ fmtBlock (bits q.slot 20 4) = true ∧ bit q.slot 24 = true ∨ kOf (bits q.slot 20 4) ≤ bits q.slot 25 2 * 64 ∨ 2 < bits q.slot 27 2)) ∧ (¬(BitVec.toNat q.c0 % 2 ^ 21 % 256 ≠ 0 ∨ 2097152 < BitVec.toNat q.c0 % 2 ^ 21 + storedBytes (bits q.slot 20 4) ∨ fmtBlock (bits q.slot 20 4) = true ∧ 2097152 < BitVec.toNat q.c1 % 2 ^ 21 + kOf (bits q.slot 20 4) * (kOf (bits q.slot 20 4) / 32)))) ∧
    (∃ (n : TileN) (q : Cap) (s : State), (Front n q s) ∧ (capOp q = 4) ∧ (s.storeErr = []) ∧ (BitVec.toNat q.c0 % 2 ^ 21 % 128 ≠ 0)) ∧
    (∃ (n : TileN) (q : Cap) (s : State), (Front n q s) ∧ (capOp q = 4) ∧ (s.storeErr = []) ∧ (BitVec.toNat q.c0 % 2 ^ 21 % 128 = 0) ∧ (drainLegal (cells (winAddr (↑n) (BitVec.toNat q.c0 % 2 ^ 21)) 128 s) = false)) ∧
    (∃ (n : TileN) (q : Cap) (s : State), (Front n q s) ∧ (capOp q = 4) ∧ (s.storeErr = []) ∧ (BitVec.toNat q.c0 % 2 ^ 21 % 128 = 0) ∧ (drainLegal (cells (winAddr (↑n) (BitVec.toNat q.c0 % 2 ^ 21)) 128 s) = true)) ∧
    (∃ (n : TileN) (q : Cap) (s : State), (Front n q s) ∧ (capOp q = 5) ∧ (on TIL_LR_STATUS_pass_open (↑n) s = false)) ∧
    (∃ (n : TileN) (q : Cap) (s : State), (Front n q s) ∧ (capOp q = 5) ∧ (on TIL_LR_STATUS_pass_open (↑n) s = true) ∧ ((lrow (↑n) s).groupValid = false) ∧ ((lrow (↑n) s).sample = none) ∧ (bit q.slot 12 = true)) ∧
    (∃ (n : TileN) (q : Cap) (s : State), (Front n q s) ∧ (capOp q = 5) ∧ (on TIL_LR_STATUS_pass_open (↑n) s = true) ∧ ((lrow (↑n) s).groupValid = false) ∧ ((lrow (↑n) s).sample = none) ∧ (bit q.slot 12 = false) ∧ ((lrow (↑n) s).run = none) ∧ (stoppedDrain (↑n) (aset (↑n) s) s = none)) ∧
    (∃ (n : TileN) (q : Cap) (s : State), (Front n q s) ∧ (capOp q = 6) ∧ (stoppedDrain (↑n) (bits q.slot 12 1) s = none) ∧ (draining (↑n) (bits q.slot 12 1) s = true)) ∧
    (∃ (n : TileN) (q : Cap) (s : State), (Front n q s) ∧ (capOp q = 6) ∧ (stoppedDrain (↑n) (bits q.slot 12 1) s = none) ∧ (draining (↑n) (bits q.slot 12 1) s = false) ∧ (on TIL_LR_STATUS_pass_open (↑n) s = true ∧ aset (↑n) s = bits q.slot 12 1 ∨ parked (↑n) (bits q.slot 12 1) s = false)) ∧
    (∃ (n : TileN) (q : Cap) (s : State), (Front n q s) ∧ (capOp q = 6) ∧ (stoppedDrain (↑n) (bits q.slot 12 1) s = none) ∧ (draining (↑n) (bits q.slot 12 1) s = false) ∧ (¬(on TIL_LR_STATUS_pass_open (↑n) s = true ∧ aset (↑n) s = bits q.slot 12 1)) ∧ (parked (↑n) (bits q.slot 12 1) s = true) ∧ ((lrow (↑n) s).run = none)) ∧
    (∃ (n : TileN) (q : Cap) (s : State), (Front n q s) ∧ (capOp q = 7) ∧ (coreState (↑n) s ≠ 6) ∧ (recCheck (↑n) (BitVec.toNat q.c0 % 2 ^ 48) s = 0)) ∧
    (∃ (n : TileN) (q : Cap) (s : State), (Front n q s) ∧ (capOp q = 7) ∧ (coreState (↑n) s ≠ 6) ∧ (recCheck (↑n) (BitVec.toNat q.c0 % 2 ^ 48) s = 3)) ∧
    (∃ (n : TileN) (q : Cap) (s : State), (Front n q s) ∧ (capOp q = 7) ∧ (coreState (↑n) s ≠ 6) ∧ (recCheck (↑n) (BitVec.toNat q.c0 % 2 ^ 48) s = 4)) ∧
    (∃ (n : TileN) (q : Cap) (s : State), (Front n q s) ∧ (capOp q = 8) ∧ (rowEmpty (↑n) s = false ∨ coreState (↑n) s = 6)) ∧
    (∃ (n : TileN) (q : Cap) (s : State), (Front n q s) ∧ (capOp q = 8) ∧ (rowEmpty (↑n) s = true) ∧ (coreState (↑n) s ≠ 6) ∧ (BitVec.toNat q.c0 % 2 ^ 48 % 512 ≠ 0 ∨ mapped (BitVec.toNat q.c0 % 2 ^ 48) 337408 s = false)) ∧
    (∃ (n : TileN) (q : Cap) (s : State), (Front n q s) ∧ (capOp q = 8) ∧ (rowEmpty (↑n) s = true) ∧ (coreState (↑n) s ≠ 6) ∧ (BitVec.toNat q.c0 % 2 ^ 48 % 512 = 0) ∧ (mapped (BitVec.toNat q.c0 % 2 ^ 48) 337408 s = true) ∧ (protOk (tileClass (↑n) s) (BitVec.toNat q.c0 % 2 ^ 48) 337408 true false s = false)) ∧
    (∃ (n : TileN) (q : Cap) (s : State), (Front n q s) ∧ (capOp q = 8) ∧ (rowEmpty (↑n) s = true) ∧ (coreState (↑n) s ≠ 6) ∧ (BitVec.toNat q.c0 % 2 ^ 48 % 512 = 0) ∧ (mapped (BitVec.toNat q.c0 % 2 ^ 48) 337408 s = true) ∧ (protOk (tileClass (↑n) s) (BitVec.toNat q.c0 % 2 ^ 48) 337408 true false s = true)) ∧
    (∃ (n : TileN) (q : LoadOp) (s : State), (Sound s) ∧ ((lrow (↑n) s).load = some q)) ∧
    (∃ (n : TileN) (q : LoadOp) (s : State), (Sound s) ∧ ((lrow (n.val) s).load = some q) ∧ (q.busy = true) ∧ (q.fmt ≤ 7) ∧ (s.storeErr = []) ∧ ((Machine.core (n.val) s).hold = none)) :=
  ⟨⟨n3, stp false 0x1FFF80, row (stp false 0x1FFF80) [po] grp, by unfold GroupSound; decide +kernel⟩,
   ⟨n3, stp true 0x1000, row (stp true 0x1000) [pv, (ITG_CONTROL_dup_period, 0, 0)] { pending := lg + 2 ^ 12 + 2 ^ 11 }, by unfold GroupSound; decide +kernel⟩,
   ⟨n3, stp true 0x1000, row (stp true 0x1000) [] {}, by decide +kernel⟩,
   ⟨n3, stp false 0x1000, row (stp false 0x1000) [] {}, by decide +kernel⟩,
   ⟨n3, stp true 0x1000, row (stp true 0x1000) [pv] { pending := lg }, by decide +kernel⟩,
   ⟨n3, stp true 0x1000, row (stp true 0x1000) [pv, (TIL_LR_STATUS_shadow_valid, 3, 1)] { pending := 1 }, by decide +kernel⟩,
   ⟨n3, stp true 0x1000, row (stp true 0x1000) [pv, (TIL_LR_STATUS_shadow_valid, 3, 1)] { pending := lg, stopped0 := some { set := 0, desc := List.replicate 128 0, parked := true } }, by decide +kernel⟩,
   ⟨n3, stp false 0x1000, row (stp false 0x1000) [po] { current := lg, floors := [(7, ⟨399, true⟩)] }, by decide +kernel⟩,
   ⟨n3, stp false 0x1040, row (stp false 0x1040) [po] { current := lg }, by decide +kernel⟩,
   ⟨n3, cap (.lrstep hd3 fs) 0x1000 0x1FFFFF, row (cap (.lrstep hd3 fs) 0x1000 0x1FFFFF) [po] { current := lg + 6 + 6 * 2 ^ 4 }, by decide +kernel⟩,
   ⟨n3, stp false 0x1000, row (stp false 0x1000) [po] { current := lg, count0 := 2 ^ 53 - 63 }, by decide +kernel⟩,
   ⟨n3, (cap (.lrprep hd3 2) 0x123 0), (rq (cap (.lrprep hd3 2) 0x123 0) [] [] 0), by decide +kernel⟩,
   ⟨n3, ld 8 0 0 0, row (ld 8 0 0 0) [] {}, by decide +kernel⟩,
   ⟨n3, ld 0 0 0x80 0, row (ld 0 0 0x80 0) [] {}, by decide +kernel⟩,
   ⟨n3, ld 7 3 0 0x10000, row (ld 7 3 0 0x10000) [] {}, by decide +kernel⟩,
   ⟨n3, ld 0 0 0 0, row (ld 0 0 0 0) [] { load := some (lop 0 true) }, by decide +kernel⟩,
   ⟨n3, cap (.lrdcfg hd3 2) 0x1040 0, row (cap (.lrdcfg hd3 2) 0x1040 0) [] {}, by decide +kernel⟩,
   ⟨n3, cap (.lrdcfg hd3 2) 0x1000 0, row (cap (.lrdcfg hd3 2) 0x1000 0) [] {}, by decide +kernel⟩,
   ⟨n3, cap (.lrdcfg hd3 2) 0x1000 0, { row (cap (.lrdcfg hd3 2) 0x1000 0) [] {} with mem := memOf [(winAddr 3 0x1000, leBytes 0x8000 8 ++ leBytes 512 8)] }, by decide +kernel⟩,
   ⟨n3, cap (.lrclose hd3 true) 0 0, row (cap (.lrclose hd3 true) 0 0) [] {}, by decide +kernel⟩,
   ⟨n3, cap (.lrclose hd3 true) 0 0, row (cap (.lrclose hd3 true) 0 0) [po] {}, by decide +kernel⟩,
   ⟨n3, cap (.lrclose hd3 false) 0 0, row (cap (.lrclose hd3 false) 0 0) [po] {}, by decide +kernel⟩,
   ⟨n3, cap (.lrdrain hd3 true) 0 0, row (cap (.lrdrain hd3 true) 0 0) [(TIL_LR_STATUS_set1_draining, 3, 1)] {}, by decide +kernel⟩,
   ⟨n3, cap (.lrdrain hd3 false) 0 0, row (cap (.lrdrain hd3 false) 0 0) [] {}, by decide +kernel⟩,
   ⟨n3, cap (.lrdrain hd3 true) 0 0, row (cap (.lrdrain hd3 true) 0 0) [(TIL_LR_STATUS_set1_parked, 3, 1)] {}, by decide +kernel⟩,
   ⟨n3, cap (.lrsusp hd3 2) 0x200000 0, row (cap (.lrsusp hd3 2) 0x200000 0) [] {}, by decide +kernel⟩,
   ⟨n3, cap (.lrsusp hd3 2) 0x200100 0, row (cap (.lrsusp hd3 2) 0x200100 0) [] {}, by decide +kernel⟩,
   ⟨n3, cap (.lrsusp hd3 2) 0x200000 0, setLr 3 { queue := [cap (.lrsusp hd3 2) 0x200000 0] } State.reset, by decide +kernel⟩,
   ⟨n3, cap (.lrrest hd3 2) 0x200000 0, row (cap (.lrrest hd3 2) 0x200000 0) [po] {}, by decide +kernel⟩,
   ⟨n3, cap (.lrrest hd3 2) 0x200100 0, row (cap (.lrrest hd3 2) 0x200100 0) [] {}, by decide +kernel⟩,
   ⟨n3, cap (.lrrest hd3 2) 0x200000 0, setLr 3 { queue := [cap (.lrrest hd3 2) 0x200000 0] } State.reset, by decide +kernel⟩,
   ⟨n3, cap (.lrrest hd3 2) 0x200000 0, row (cap (.lrrest hd3 2) 0x200000 0) [(TIL_LR_STATUS_suspended, 3, 1)] {}, by decide +kernel⟩,
   ⟨n3, (lop 1 true), (rld 1 true), by decide +kernel⟩,
   ⟨n3, (lop 1 true), (rld 1 true), by decide +kernel⟩⟩

end Context

namespace Drains

def ddesc (conv : Nat) (dest i0 i1 : Nat) : List Byte := leBytes dest 8 ++ leBytes (512 + i0*2^24 + i1*2^29 + conv*2^34) 8 ++ leBytes 0 8 ++ leBytes 0x9000 8 ++ leBytes 0xA000 8 ++ List.replicate (0x48-0x28) 0 ++ leBytes 0xB000 8 ++ List.replicate (128-0x50) 0
def dr (conv dest : Nat) (act : Bool) : Drain := { set := 0, desc := ddesc conv dest 0 1, parked := true, active := act }
def rdr (conv dest : Nat) (act : Bool) (wt : Option Drain) : State := openAll (fl [(TIL_LR_STATUS_set0_draining,3,1)] (setLr 3 { run := some (dr conv dest act), waiting := wt, words := [(0, 0x77#576)], tags := [(5, 3)] } State.reset))
def hs (o : Option Nat) (s : State) : State := { s with hist := [(0xB000, some ⟨o, 120, ddesc (2^9+2^8+2) 0x8000 0 1, false⟩)] }
def bare : State := fl [(TIL_LR_STATUS_set0_draining,3,1)] (setLr 3 { run := some (dr (2^9+2^8+2) 0x8000 false) } State.reset)

theorem test_meets_DrainsRunAndEnd :
    (∃ (n : TileN) (d : Drain) (s : State) (i : Nat) (j : Nat), (Sound s) ∧ ((lrow (↑n) s).run = some d) ∧ ((Machine.core (↑n) s).hold = none) ∧ ((lrow (↑n) s).accErr = []) ∧ ((Machine.core (↑n) s).drainSkip = 0) ∧ (dI0 d.desc ≤ i) ∧ (i ≤ dI1 d.desc) ∧ (j < 64) ∧ (fmtBlock (ctlFmt (dConv d.desc)) = false) ∧ (ctlFmt (dConv d.desc) ≠ 8) ∧ (specOf (entry (lrow (↑n) s) d.set i j).snd = Spec.fin)) ∧
    (∃ (n : TileN) (d : Drain) (s : State), (Sound s) ∧ ((lrow (n.val) s).run = some d) ∧ ((Machine.core (n.val) s).hold = none) ∧ ((lrow (n.val) s).accErr = []) ∧ ((Machine.core (n.val) s).drainSkip = 0) ∧ (d.active = false) ∧ (ctlTscale (dConv d.desc) = false)) ∧
    (∃ (n : TileN) (d : Drain) (s : State), (Sound s) ∧ ((lrow (↑n) s).run = some d) ∧ ((Machine.core (↑n) s).hold = none) ∧ ((lrow (↑n) s).accErr = []) ∧ ((Machine.core (↑n) s).drainSkip = 0) ∧ (d.active = false) ∧ (ctlTscale (dConv d.desc) = true) ∧ (histBusy (dHist d.desc) (drainOwner (↑n) d.set) d.desc s = true)) ∧
    (∃ (n : TileN) (d : Drain) (s : State), (Sound s) ∧ ((lrow (↑n) s).run = some d) ∧ ((Machine.core (↑n) s).hold = none) ∧ ((lrow (↑n) s).accErr = []) ∧ ((Machine.core (↑n) s).drainSkip = 0) ∧ (d.active = false) ∧ (ctlTscale (dConv d.desc) = true) ∧ (histBusy (dHist d.desc) (drainOwner (↑n) d.set) d.desc s = false) ∧ ((takeScaleOf (tileClass (↑n) s) (fromDrain ↑n) (dHist d.desc) (dCensus d.desc) (ctlFmt (dConv d.desc)) (drainOwner (↑n) d.set) s).fst ≠ 0)) ∧
    (∃ (n : TileN) (d : Drain) (s : State), (Sound s) ∧ ((lrow (↑n) s).run = some d) ∧ ((Machine.core (↑n) s).hold = none) ∧ ((lrow (↑n) s).accErr = []) ∧ ((Machine.core (↑n) s).drainSkip = 0) ∧ (d.active = false) ∧ (ctlTscale (dConv d.desc) = true) ∧ (histBusy (dHist d.desc) (drainOwner (↑n) d.set) d.desc s = false) ∧ ((takeScaleOf (tileClass (↑n) s) (fromDrain ↑n) (dHist d.desc) (dCensus d.desc) (ctlFmt (dConv d.desc)) (drainOwner (↑n) d.set) s).fst = 0) ∧ (s.xunits = []) ∧ (s.colls = [])) ∧
    (∃ (n : TileN) (d : Drain) (s : State), (Sound s) ∧ ((lrow (↑n) s).run = some d) ∧ ((Machine.core (↑n) s).hold = none) ∧ ((lrow (↑n) s).accErr = []) ∧ ((Machine.core (↑n) s).drainSkip = 0) ∧ (d.active = true) ∧ ((drainWork (↑n) d s).fst = none) ∧ (drainWaits (↑n) d s = false) ∧ (∀ (q : Cap), q ∈ (lrow (↑n) s).queue.head? → capOp q ≠ 6)) ∧
    (∃ (n : TileN) (d : Drain) (s : State) (code : Nat) (a : Nat), (Sound s) ∧ ((lrow (n.val) s).run = some d) ∧ ((Machine.core (n.val) s).hold = none) ∧ ((lrow (n.val) s).accErr = []) ∧ ((Machine.core (n.val) s).drainSkip = 0) ∧ (d.active = true) ∧ ((drainWork (n.val) d s).fst = some (code, a)) ∧ (drainWaits (n.val) d s = false)) ∧
    (∃ (f : Fin 5) (md : RMode) (sat : Bool) (u : Nat) (w : Int), (w ≠ 0) ∧ (w.natAbs ≥ 2 ^ 522)) ∧
    (∃ (f : Fin 5) (md : RMode) (sat : Bool) (u : Nat) (w : Int), (w ≠ 0) ∧ (w.natAbs ≤ (outFmt ↑f).lm * 2 ^ ((outFmt ↑f).le + 266).toNat)) ∧
    (∃ (f : Fin 5) (md : RMode) (sat : Bool) (u : Nat) (w : Int), (w ≠ 0) ∧ (hasTag (roundOut (↑f) 0 md sat u w).tag tOvf = false) ∧ (gridOf (↑f) 0 (roundOut (↑f) 0 md sat u w).enc ≠ 0)) ∧
    (∃ (f : Fin 5) (md : RMode) (sat : Bool) (u : Nat) (w : Int), (w ≠ 0) ∧ (hasTag (roundOut (↑f) 0 md sat u w).tag tOvf = false) ∧ (md = RMode.rne)) ∧
    (∃ (f : Fin 5) (md : RMode) (sat : Bool) (u : Nat) (w : Int), (w ≠ 0) ∧ (hasTag (roundOut (↑f) 0 md sat u w).tag tOvf = false) ∧ (md = RMode.rne) ∧ (2 * (gridOf (↑f) 0 (roundOut (↑f) 0 md sat u w).enc - w).natAbs = 2 ^ (max (((topBit w.natAbs : Nat) : Int) - 266) (outFmt ↑f).emin - (((outFmt ↑f).p : Int) - 1) + 266).toNat)) ∧
    (∃ (f : Fin 5) (md : RMode) (sat : Bool) (u : Nat) (w : Int), (w ≠ 0) ∧ (hasTag (roundOut (↑f) 0 md sat u w).tag tOvf = false) ∧ (md = RMode.rna)) ∧
    (∃ (f : Fin 5) (md : RMode) (sat : Bool) (u : Nat) (w : Int), (w ≠ 0) ∧ (hasTag (roundOut (↑f) 0 md sat u w).tag tOvf = false) ∧ (md = RMode.rna) ∧ (2 * (gridOf (↑f) 0 (roundOut (↑f) 0 md sat u w).enc - w).natAbs = 2 ^ (max (((topBit w.natAbs : Nat) : Int) - 266) (outFmt ↑f).emin - (((outFmt ↑f).p : Int) - 1) + 266).toNat)) ∧
    (∃ (f : Fin 5) (md : RMode) (sat : Bool) (u : Nat) (w : Int), (w ≠ 0) ∧ (hasTag (roundOut (↑f) 0 md sat u w).tag tOvf = false) ∧ (md = RMode.rtz)) ∧
    (∃ (f : Fin 5) (md : RMode) (sat : Bool) (u : Nat) (w : Int), (w ≠ 0) ∧ (hasTag (roundOut (↑f) 0 md sat u w).tag tOvf = false) ∧ (md = RMode.rup)) ∧
    (∃ (f : Fin 5) (md : RMode) (sat : Bool) (u : Nat) (w : Int), (w ≠ 0) ∧ (hasTag (roundOut (↑f) 0 md sat u w).tag tOvf = false) ∧ (md = RMode.rdn)) ∧
    (∃ (f : Fin 5) (md : RMode) (sat : Bool) (u : Nat) (w : Int), (w ≠ 0) ∧ (hasTag (roundOut (↑f) 0 md sat u w).tag tOvf = false) ∧ (md = RMode.sr)) :=
  ⟨⟨n3, (dr 1 0x8000 true), (rdr 1 0x8000 true none), 1, 63, by decide +kernel⟩,
   ⟨n3, (dr 1 0x8000 false), (rdr 1 0x8000 false none), by decide +kernel⟩,
   ⟨n3, (dr (2^9+2^8+2) 0x8000 false), (hs (some 77) (rdr (2^9+2^8+2) 0x8000 false none)), by decide +kernel⟩,
   ⟨n3, (dr (2^9+2^8+2) 0x8000 false), bare, by decide +kernel⟩,
   ⟨n3, (dr (2^9+2^8+2) 0x8000 false), (hs none (rdr (2^9+2^8+2) 0x8000 false none)), by decide +kernel⟩,
   ⟨n3, (dr 1 0x8000 true), (rdr 1 0x8000 true (some (dr 0 0x18000 false))), by decide +kernel⟩,
   ⟨n3, (dr 1 0x400000000000 true), (rdr 1 0x400000000000 true (some (dr 0 0x18000 false))), 1, 0x400000000000, by decide +kernel⟩,
   ⟨4, .rtz, true, 0, -2 ^ 522, by decide +kernel⟩,
   ⟨0, .rne, false, 0, 255 * 2 ^ 386, by decide +kernel⟩,
   ⟨1, .rup, false, 0, 2 ^ 266 + 1, by decide +kernel⟩,
   ⟨2, .rne, false, 0, -2 ^ 266, by decide +kernel⟩,
   ⟨0, .rne, false, 0, (2 ^ 266 + 2 ^ 258 : Int), by decide +kernel⟩,
   ⟨3, .rna, true, 0, 3, by decide +kernel⟩,
   ⟨0, .rna, false, 0, (-(2 ^ 266 + 2 ^ 258) : Int), by decide +kernel⟩,
   ⟨4, .rtz, false, 0, 2 ^ 265, by decide +kernel⟩,
   ⟨1, .rup, false, 0, -1, by decide +kernel⟩,
   ⟨1, .rdn, false, 0, 1, by decide +kernel⟩,
   ⟨0, .sr, false, 2 ^ 32 - 1, 2 ^ 266 + 1, by decide +kernel⟩⟩

end Drains

namespace Rows

def rsv : State := openAll (fl [(TIL_CORE_STATUS_next_index, 3, 0x7FF), (TIL_LR_SAVE_ADDR_save_addr, 3, 2), (TIL_CORE_CTX_ADDR_ctx_addr, 3, 4096)] (setLr 3 { queue := [⟨7,1,2,3⟩], words := [(5, 0x77#576), (0, 0x99#576)], tags := [(5, 3)], ballast := 3 } r2))
def sv1 : State := setLr 3 { lrow 3 rsv with queue := [], suspBusy := some 1024 } rsv
def sv3 : State := { setLr 3 { restBusy := some 1024 } (wr TIL_LR_STATUS_suspended 3 1 rsv) with mem := [⟨1026, 1⟩] }

theorem test_meets_LaneRowSuspendsAndRestores :
    (∃ (n : TileN) (s : State) (i : Instr), (Sound s) ∧ (Answers s) ∧ (rd PWR_TILE_state (↑n) s = 0) ∧ (failedTile (↑n) s = true) ∧ (i ∈ [Instr.tilLrSuspendSuspend n, Instr.tilLrSuspendRestore n])) ∧
    (∃ (n : TileN) (s : State), (Sound s) ∧ (Answers s) ∧ (rd PWR_TILE_state (↑n) s = 0) ∧ (failedTile (↑n) s = false) ∧ (recCheck (↑n) (saveAddr (↑n) s) s = 0) ∧ (lrSuspended (↑n) s = false) ∧ ((lrow (↑n) s).restBusy = none) ∧ (coreState (↑n) s ≠ 6)) ∧
    (∃ (n : TileN) (s : State) (a : Nat), (Sound s) ∧ (Answers s) ∧ (rd PWR_TILE_state (↑n) s = 0) ∧ (PlainMem s) ∧ ((lrow (↑n) s).suspBusy = some a) ∧ (a % 512 = 0) ∧ (mapped a 337408 s = true) ∧ (anyDown a 337408 s = false) ∧ (progLocked a 337408 s = false) ∧ (s.checks = []) ∧ ((lrow (↑n) s).sample = none) ∧ ((lrow (↑n) s).load = none) ∧ ((lrow (↑n) s).restBusy = none) ∧ ((lrow (↑n) s).accErr = []) ∧ ((lrow (↑n) s).drainDesc.length = 128) ∧ ((((lrow (↑n) s).run.toList ++ (lrow (↑n) s).waiting.toList).all fun d => d.desc.length == 128 && !ctlTscale (dConv d.desc)) = true)) ∧
    (∃ (n : TileN) (s : State), (Sound s) ∧ (Answers s) ∧ (rd PWR_TILE_state (↑n) s = 0) ∧ (failedTile (↑n) s = false) ∧ (rowEmpty (↑n) s = true) ∧ (coreState (↑n) s ≠ 6) ∧ (saveAddr (↑n) s % 512 = 0) ∧ (mapped (saveAddr (↑n) s) 337408 s = true) ∧ (protOk (tileClass (↑n) s) (saveAddr (↑n) s) 337408 true false s = true)) ∧
    (∃ (n : TileN) (s : State), (Sound s) ∧ (Answers s) ∧ (rd PWR_TILE_state (↑n) s = 0) ∧ (failedTile (↑n) s = false) ∧ (rowEmpty (↑n) s = false ∨ coreState (↑n) s = 6)) ∧
    (∃ (n : TileN) (s : State), (Sound s) ∧ (Answers s) ∧ (rd PWR_TILE_state (↑n) s = 0) ∧ (failedTile (↑n) s = false) ∧ (rowEmpty (↑n) s = false ∨ coreState (↑n) s = 6)) ∧
    (∃ (n : TileN) (s : State) (a : Nat), (Sound s) ∧ (Answers s) ∧ (rd PWR_TILE_state (↑n) s = 0) ∧ (PlainMem s) ∧ ((lrow (↑n) s).restBusy = some a) ∧ (mapped a 337408 s = true) ∧ (anyDown a 337408 s = false) ∧ (protOk (tileClass (↑n) s) a 337408 true false s = true) ∧ (bits (ofLe (cells a 8 s)) 16 8 = 1) ∧ (s.checks = []) ∧ ((lrow (↑n) s).suspHeld = false) ∧ ((Machine.core (↑n) s).hold = none) ∧ ((Machine.core (↑n) s).ctl = 0)) ∧
    (∃ (n : TileN) (s : State), (Sound s) ∧ (Answers s) ∧ (rd PWR_TILE_state (↑n) s = 0) ∧ ((lrow (↑n) s).ballast ≠ 0)) :=
  ⟨⟨n3, wr ITG_TILE_CTRL_state 3 4 rsv, (.tilLrSuspendSuspend n3), by decide +kernel⟩,
   ⟨n3, rsv, by decide +kernel⟩,
   ⟨n3, sv1, (1024), by decide +kernel⟩,
   ⟨n3, rsv, by decide +kernel⟩,
   ⟨n3, sv1, by decide +kernel⟩,
   ⟨n3, wr TIL_CORE_STATUS_state 3 6 rsv, by decide +kernel⟩,
   ⟨n3, sv3, (1024), by decide +kernel⟩,
   ⟨n3, rsv, by decide +kernel⟩⟩

end Rows

namespace Registers

def bal (k : Nat) : State := wr TIL_LR_STATUS_ballast_active 3 1 (setLr 3 { ballast := k } r2)
def up : State := { State.reset with boot := { pcie := true } }
def up6 (l : List (Fld × Nat × Nat)) : State := fl ((BTC_STATUS_stage, 0, 6) :: l) up

theorem test_meets_RegisterWrites :
    (∃ (o : BitVec 26) (v : U64) (r : Reg) (i : Nat) (j : Nat) (s : State), (Calm s) ∧ (Bar0Takes o.toNat s) ∧ (findReg o.toNat = some (r, i, j)) ∧ (plainReg r = true) ∧ (∀ (f : Fld), f ∈ r.flds → rd f (r.ix i j) s < 2 ^ f.w ∧ writeHeld f (r.ix i j) s = false ∧ (f.acc = Acc.RWL → rwlHeld f s = false))) ∧
    (∃ (o : BitVec 26) (v : U64) (r : Reg) (i : Nat) (j : Nat) (s : State), (Calm s) ∧ (Bar0Takes o.toNat s) ∧ (findReg o.toNat = some (r, i, j)) ∧ (plainReg r = true) ∧ (∃ f, f ∈ r.flds ∧ f.acc = Acc.RWL) ∧ (∀ (f : Fld), f ∈ r.flds → f.acc = Acc.RWL ∨ f.acc = Acc.RO) ∧ (∀ (f : Fld), f ∈ r.flds → f.acc = Acc.RWL → rwlHeld f s = true)) ∧
    (∃ (o : BitVec 26) (v : U64) (s : State), (Calm s) ∧ (Bar0Takes o.toNat s) ∧ (findReg o.toNat = none)) ∧
    (∃ (o : BitVec 26) (v : U64) (s : State), (Calm s) ∧ (s.boot.pcie = true) ∧ (stage s ≠ 7) ∧ (ordersOnly o.toNat = true)) ∧
    (∃ (o : BitVec 26) (v : U64) (s : State), (Calm s) ∧ (s.boot.pcie = false)) :=
  ⟨⟨(0x101C008#26), (0xFFFFFFFFFFFFFFFF#64), TIL_LR_CONTROL, 0, 0, (up6 []), by decide +kernel⟩,
   ⟨(BitVec.ofNat 26 (MST_PROT_LO.off 0 0)), (0x1#64), MST_PROT_LO, 0, 0, (up6 []), by decide +kernel⟩,
   ⟨(0x3#26), (0x1#64), (up6 []), by decide +kernel⟩,
   ⟨(BitVec.ofNat 26 (RTR_TT_CTL.off 0 0)), (0x1#64), (up6 []), by decide +kernel⟩,
   ⟨(BitVec.ofNat 26 (RTR_TT_CTL.off 0 0)), (0x1#64), ({up6 [] with boot := {}}), by decide +kernel⟩⟩

end Registers

namespace Stations

def g0 : State := { State.reset with mem := [⟨0x1001, 7⟩, ⟨0x1004, 8⟩] }
def tA (op : AccOp) (a len : Nat) : State := setCore 3 { regs with outst := [⟨3, 0x2000, 8, .load .ldd 1, none⟩, ⟨4, a, len, op, none⟩] } g0
def cx : State := fl [(MST_CXL_STATUS_present, 1, 1), (MST_CXL_STATUS_link_up, 1, 1), (MST_CXL_STATUS_cap_256m, 1, 4)] State.reset
def ca : Nat := 0x100000000000 + 2^41 + 0x1000
def cA (op : AccOp) (s : State) : State := setCore 3 { regs with outst := [⟨4, ca, 8, op, none⟩] } s
def n5 : StationN := 5
def pu : Push := ⟨2, 0x1000, List.replicate 64 7, false⟩
def pst (k : Nat) : State := fl [(MST_STATUS_push_full, 5, 1), (MST_COW_DEST_CTL_host, 42, k)] (setStation 5 { push := [pu, {pu with addr := 0x2000}] } g0)
def dst (cur lim : Nat) : State := fl [(CUT_STATUS_state, 0, 3), (MST_STATUS_armed, 5, 4), (MST_COW_DEST_CTL_host, 42, 1), (MST_COW_DEST_dest, 42, 0x10000), (MST_COW_BASE_base, 42, 0), (MST_COW_LIMIT_limit, 42, lim), (MST_COW_CURSOR_cursor, 42, cur)] { g0 with cut := { begun := [169, 170] } }
def swp : State := fl [(CUT_STATUS_state, 0, 3), (CUT_STATUS_sweeping, 0, 1), (MST_STATUS_armed, 5, 4), (MST_COW_DEST_CTL_host, 42, 1)] (setStation 5 { push := [pu, {pu with recNo := 1}] } { g0 with sweep := [(42, true)] })
def cow : State := fl ([(MST_STATUS_armed, stOf 0x1000, 4), (MST_COW_LIMIT_limit, 8 * stOf 0x1000 + 2, 1), (MST_COW_DEST_dest, 8 * stOf 0x1000 + 2, 0x10000)] : List (Fld × Nat × Nat)) g0
/-- A cut that drains to the host: its descriptor, and the parts not confirmed and begun. -/
def dcut (parts begun : List Nat) : CutSt := { snap := List.replicate 0x20 0 ++ leBytes (2 ^ 19) 8 ++ List.replicate 280 0, parts := parts, begun := begun }
def dr (parts begun : List Nat) (s : State) : State := { wr CUT_STATUS_state 0 3 s with cut := dcut parts begun }
def busy (s : State) : State := dr [168, 169, 170] [168, 169] s
def last (s : State) : State := dr [170] [168, 169] s
def one (s : State) : State := setStation 5 { push := [pu] } s

theorem test_meets_StationAndCxlAccesses :
    (∃ (a : Nat) (d : List Byte) (s : State), (Calm s) ∧ (PlainMem s) ∧ (whereOf a s = Where.gddr) ∧ (mapped a d.length s = true) ∧ (anyDown a d.length s = false) ∧ (wakeAddr a s = s) ∧ (MastersUntraced s)) ∧
    (∃ (a : Nat) (n : Nat) (s : State), (Calm s) ∧ (PlainMem s) ∧ (MastersUntraced s) ∧ (whereOf a s = Where.gddr) ∧ (mapped a n s = true) ∧ (wakeAddr a s = s) ∧ (rd MST_ERR_HEAD_head (stOf a) s < 16)) ∧
    (∃ (t : TileN) (k : Nat) (x : Access) (s : State), (Calm s) ∧ (PlainMem s) ∧ ((Machine.core (t.val) s).outst[k]? = some x) ∧ (mayPerform (Machine.core (t.val) s).outst k = true) ∧ (whereOf x.addr s = Where.gddr) ∧ (mapped x.addr x.len s = true) ∧ (anyDown x.addr x.len s = false) ∧ (wakeAddr x.addr s = s)) ∧
    (∃ (t : TileN) (k : Nat) (x : Access) (p : Nat) (s : State) (o : LdOp) (sd : BitVec 5), (Calm s) ∧ (PlainMem s) ∧ ((Machine.core (t.val) s).outst[k]? = some x) ∧ (mayPerform (Machine.core (t.val) s).outst k = true) ∧ (whereOf x.addr s = Where.cxl p) ∧ (mapped x.addr x.len s = true) ∧ (wakeAddr x.addr s = s) ∧ (x.op = AccOp.load o sd) ∧ (anyDown x.addr x.len s = false) ∧ (unitDown x.addr s = false)) ∧
    (∃ (t : TileN) (k : Nat) (x : Access) (p : Nat) (s : State) (b : List (Nat × Byte)), (Calm s) ∧ (PlainMem s) ∧ ((Machine.core (t.val) s).outst[k]? = some x) ∧ (mayPerform (Machine.core (t.val) s).outst k = true) ∧ (whereOf x.addr s = Where.cxl p) ∧ (mapped x.addr x.len s = true) ∧ (wakeAddr x.addr s = s) ∧ (x.op = AccOp.store b) ∧ (anyDown x.addr x.len s = true)) ∧
    (∃ (a : Nat) (p : Nat) (d : List Byte) (s : State), (Calm s) ∧ (PlainMem s) ∧ (whereOf a s = Where.cxl p) ∧ (mapped a d.length s = true) ∧ (anyDown a d.length s = false) ∧ (wakeAddr a s = s) ∧ (MastersUntraced s)) ∧
    (∃ (a : Nat) (p : Nat) (cls : Nat) (s : State), (Calm s) ∧ (whereOf a s = Where.cxl p) ∧ (mapped1 a s = true) ∧ (unitDown a s = false) ∧ (wakeAddr a s = s)) ∧
    (∃ (p : Fin 4) (lost : Nat) (s : State), (Sound s) ∧ (rd MST_CXL_STATUS_link_up (p.val) s = 0)) ∧
    (∃ (p : Fin 4) (lost : Nat) (s : State), (Sound s) ∧ (rd MST_CXL_STATUS_link_up (p.val) s ≠ 0)) :=
  ⟨⟨0x1000, [1,2,3,4,5], g0, by decide +kernel⟩,
   ⟨0x1000, 8, (fl [(MST_ERR_HEAD_head, 0, 15), (MST_ERR_HEAD_pending, 0, 16)] g0), by decide +kernel⟩,
   ⟨n3, 1, ⟨4, 0x1000, 8, .load .ldd 5, none⟩, (tA (.load .ldd 5) 0x1000 8), by decide +kernel⟩,
   ⟨n3, 0, ⟨4, ca, 8, .load .ldd 5, none⟩, 1, (cA (.load .ldd 5) cx), LdOp.ldd, (5#5), by decide +kernel⟩,
   ⟨n3, 0, ⟨4, ca, 8, .store [(ca, 9)], none⟩, 1, (wr MST_CXL_STATUS_link_up 1 0 (cA (.store [(ca, 9)]) cx)), [(ca, 9)], by decide +kernel⟩,
   ⟨ca, 1, [1,2,3], cx, by decide +kernel⟩,
   ⟨ca, 1, 0, cx, by decide +kernel⟩,
   ⟨(2 : Fin 4), 5, cx, by decide +kernel⟩,
   ⟨(1 : Fin 4), 5, cx, by decide +kernel⟩⟩

theorem test_meets_CopyOnWrite :
    (∃ (a : Nat) (k : Nat) (d : List Byte) (s : State), (Sound s) ∧ (CutStill s) ∧ (s.chk = []) ∧ (s.stateWords = []) ∧ (MastersUntraced s) ∧ (wakeAddr a s = s) ∧ (isl (stOf (sectorOf a)) s = 0) ∧ (rd CUT_CONTROL_mirror_en 0 s = 0) ∧ (d ≠ []) ∧ (a + d.length ≤ sectorOf a + 64) ∧ (whereOf a s = Where.gddr) ∧ (whereOf (sectorOf a) s = Where.gddr) ∧ (mapped a d.length s = true) ∧ (anyDown a d.length s = false) ∧ (recOf (sectorOf a) s = some k) ∧ (rd MST_COW_CURSOR_cursor (8 * stOf (sectorOf a) + k) s * 64 ≤ sectorOf a) ∧ (((station (stOf (sectorOf a)) s).push ++ [({ recNo := k, addr := rd MST_COW_DEST_dest (8 * stOf (sectorOf a) + k) s + (sectorOf a - rd MST_COW_BASE_base (8 * stOf (sectorOf a) + k) s * 4096), data := cells (sectorOf a) 64 s, poison := false } : Push)]).length ≤ 64)) ∧
    (∃ (a : Nat) (k : Nat) (d : List Byte) (s : State), (Sound s) ∧ (CutStill s) ∧ (s.chk = []) ∧ (s.stateWords = []) ∧ (MastersUntraced s) ∧ (wakeAddr a s = s) ∧ (isl (stOf (sectorOf a)) s = 0) ∧ (rd CUT_CONTROL_mirror_en 0 s = 0) ∧ (d ≠ []) ∧ (a + d.length ≤ sectorOf a + 64) ∧ (whereOf a s = Where.gddr) ∧ (whereOf (sectorOf a) s = Where.gddr) ∧ (mapped a d.length s = true) ∧ (anyDown a d.length s = false) ∧ (recOf (sectorOf a) s = some k) ∧ (rd MST_COW_CURSOR_cursor (8 * stOf (sectorOf a) + k) s * 64 ≤ sectorOf a) ∧ (((station (stOf (sectorOf a)) s).push ++ [({ recNo := k, addr := rd MST_COW_DEST_dest (8 * stOf (sectorOf a) + k) s + (sectorOf a - rd MST_COW_BASE_base (8 * stOf (sectorOf a) + k) s * 4096), data := cells (sectorOf a) 64 s, poison := false } : Push)]).length ≤ 64)) ∧
    (∃ (n : StationN) (p : Push) (r : List Push) (s : State) (c : Nat), (Sound s) ∧ ((station (↑n) s).push = p :: r) ∧ (CutStill (setStation ↑n { push := r, scrubAt := (station (↑n) s).scrubAt, retrainQ := (station (↑n) s).retrainQ, mirOut := (station (↑n) s).mirOut, mirq := (station (↑n) s).mirq, periodRetries := (station (↑n) s).periodRetries } s)) ∧ (cowDest (↑n) p.recNo s = (2, c)) ∧ (s.boot.masterOff = false)) ∧
    (∃ (n : StationN) (p : Push) (r : List Push) (s : State) (c : Nat), (Sound s) ∧ ((station (↑n) s).push = p :: r) ∧ (CutStill (setStation ↑n { push := r, scrubAt := (station (↑n) s).scrubAt, retrainQ := (station (↑n) s).retrainQ, mirOut := (station (↑n) s).mirOut, mirq := (station (↑n) s).mirq, periodRetries := (station (↑n) s).periodRetries } s)) ∧ (cowDest (↑n) p.recNo s = (2, c)) ∧ (s.boot.masterOff = false)) ∧
    (∃ (n : StationN) (p : Push) (r : List Push) (s : State) (c : Nat), (Sound s) ∧ ((station (↑n) s).push = p :: r) ∧ (CutStill (setStation ↑n { push := r, scrubAt := (station (↑n) s).scrubAt, retrainQ := (station (↑n) s).retrainQ, mirOut := (station (↑n) s).mirOut, mirq := (station (↑n) s).mirq, periodRetries := (station (↑n) s).periodRetries } s)) ∧ (cowDest (↑n) p.recNo s = (0, c)) ∧ (s.chk = []) ∧ (s.cxlPoison = []) ∧ (Awake s) ∧ (p.poison = false) ∧ (mapped p.addr p.data.length s = true) ∧ (anyDown p.addr p.data.length s = false)) ∧
    (∃ (n : StationN) (p : Push) (r : List Push) (s : State) (c : Nat), (Sound s) ∧ ((station (↑n) s).push = p :: r) ∧ (Draining s) ∧ (¬ManifestRests (setStation ↑n { push := r, scrubAt := (station (↑n) s).scrubAt, retrainQ := (station (↑n) s).retrainQ, mirOut := (station (↑n) s).mirOut, mirq := (station (↑n) s).mirq, periodRetries := (station (↑n) s).periodRetries } s)) ∧ (cowDest (↑n) p.recNo s = (2, c)) ∧ (s.boot.masterOff = false) ∧ (snKind (recW s) = 2)) ∧
    (∃ (n : StationN) (k : Fin 8) (s : State) (c : Nat), (Sound s) ∧ (CutStill s) ∧ (rd CUT_STATUS_state 0 s = 3) ∧ (isl (↑n) s = 0) ∧ ((rd MST_STATUS_armed (↑n) s).testBit ↑k = true) ∧ ((if ownGranule (↑n) (rd MST_COW_CURSOR_cursor (8 * ↑n + ↑k) s * 64 / 4096) = rd MST_COW_CURSOR_cursor (8 * ↑n + ↑k) s * 64 / 4096 then rd MST_COW_CURSOR_cursor (8 * ↑n + ↑k) s * 64 else ownGranule (↑n) (rd MST_COW_CURSOR_cursor (8 * ↑n + ↑k) s * 64 / 4096) * 4096) / 4096 ≤ rd MST_COW_LIMIT_limit (8 * ↑n + ↑k) s) ∧ (isPushed (if ownGranule (↑n) (rd MST_COW_CURSOR_cursor (8 * ↑n + ↑k) s * 64 / 4096) = rd MST_COW_CURSOR_cursor (8 * ↑n + ↑k) s * 64 / 4096 then rd MST_COW_CURSOR_cursor (8 * ↑n + ↑k) s * 64 else ownGranule (↑n) (rd MST_COW_CURSOR_cursor (8 * ↑n + ↑k) s * 64 / 4096) * 4096) s = (false, s)) ∧ (s.chk = []) ∧ (unitDown (if ownGranule (↑n) (rd MST_COW_CURSOR_cursor (8 * ↑n + ↑k) s * 64 / 4096) = rd MST_COW_CURSOR_cursor (8 * ↑n + ↑k) s * 64 / 4096 then rd MST_COW_CURSOR_cursor (8 * ↑n + ↑k) s * 64 else ownGranule (↑n) (rd MST_COW_CURSOR_cursor (8 * ↑n + ↑k) s * 64 / 4096) * 4096) s = false) ∧ (cowDest (↑n) (↑k) s = (2, c)) ∧ (s.boot.masterOff = false)) ∧
    (∃ (n : StationN) (k : Fin 8) (s : State), (Sound s) ∧ (CutStill s) ∧ (rd CUT_STATUS_state 0 s = 3) ∧ (isl (↑n) s = 0) ∧ ((rd MST_STATUS_armed (↑n) s).testBit ↑k = true) ∧ ((if ownGranule (↑n) (rd MST_COW_CURSOR_cursor (8 * ↑n + ↑k) s * 64 / 4096) = rd MST_COW_CURSOR_cursor (8 * ↑n + ↑k) s * 64 / 4096 then rd MST_COW_CURSOR_cursor (8 * ↑n + ↑k) s * 64 else ownGranule (↑n) (rd MST_COW_CURSOR_cursor (8 * ↑n + ↑k) s * 64 / 4096) * 4096) / 4096 ≤ rd MST_COW_LIMIT_limit (8 * ↑n + ↑k) s) ∧ (isPushed (if ownGranule (↑n) (rd MST_COW_CURSOR_cursor (8 * ↑n + ↑k) s * 64 / 4096) = rd MST_COW_CURSOR_cursor (8 * ↑n + ↑k) s * 64 / 4096 then rd MST_COW_CURSOR_cursor (8 * ↑n + ↑k) s * 64 else ownGranule (↑n) (rd MST_COW_CURSOR_cursor (8 * ↑n + ↑k) s * 64 / 4096) * 4096) s = (true, s))) ∧
    (∃ (n : StationN) (k : Fin 8) (s : State), (Sound s) ∧ (CutStill s) ∧ (rd CUT_STATUS_state 0 s = 3) ∧ (isl (↑n) s = 0) ∧ ((rd MST_STATUS_armed (↑n) s).testBit ↑k = true) ∧ (rd MST_COW_LIMIT_limit (8 * ↑n + ↑k) s < (if ownGranule (↑n) (rd MST_COW_CURSOR_cursor (8 * ↑n + ↑k) s * 64 / 4096) = rd MST_COW_CURSOR_cursor (8 * ↑n + ↑k) s * 64 / 4096 then rd MST_COW_CURSOR_cursor (8 * ↑n + ↑k) s * 64 else ownGranule (↑n) (rd MST_COW_CURSOR_cursor (8 * ↑n + ↑k) s * 64 / 4096) * 4096) / 4096) ∧ ((station (↑n) s).push ≠ [])) ∧
    (∃ (n : StationN) (k : Fin 8) (s : State), (Sound s) ∧ (CutStill s) ∧ (rd CUT_STATUS_state 0 s = 3) ∧ (isl (↑n) s = 0) ∧ ((rd MST_STATUS_armed (↑n) s).testBit ↑k = true) ∧ (rd MST_COW_LIMIT_limit (8 * ↑n + ↑k) s < (if ownGranule (↑n) (rd MST_COW_CURSOR_cursor (8 * ↑n + ↑k) s * 64 / 4096) = rd MST_COW_CURSOR_cursor (8 * ↑n + ↑k) s * 64 / 4096 then rd MST_COW_CURSOR_cursor (8 * ↑n + ↑k) s * 64 else ownGranule (↑n) (rd MST_COW_CURSOR_cursor (8 * ↑n + ↑k) s * 64 / 4096) * 4096) / 4096) ∧ ((station (↑n) s).push = []) ∧ (CutStill (wrBit MST_STATUS_armed (↑n) (↑k) false s))) ∧
    (∃ (n : StationN) (k : Fin 8) (s : State), (Sound s) ∧ (CutStill s) ∧ (rd CUT_STATUS_state 0 s = 3) ∧ (isl (↑n) s = 0) ∧ ((rd MST_STATUS_armed (↑n) s).testBit ↑k = true) ∧ (rd MST_COW_LIMIT_limit (8 * ↑n + ↑k) s < (if ownGranule (↑n) (rd MST_COW_CURSOR_cursor (8 * ↑n + ↑k) s * 64 / 4096) = rd MST_COW_CURSOR_cursor (8 * ↑n + ↑k) s * 64 / 4096 then rd MST_COW_CURSOR_cursor (8 * ↑n + ↑k) s * 64 else ownGranule (↑n) (rd MST_COW_CURSOR_cursor (8 * ↑n + ↑k) s * 64 / 4096) * 4096) / 4096) ∧ ((station (↑n) s).push = []) ∧ (¬ManifestRests (wrBit MST_STATUS_armed (↑n) (↑k) false s)) ∧ (Draining s) ∧ (snKind (recW s) = 2) ∧ (s.boot.masterOff = false)) ∧
    (∃ (n : StationN) (k : Fin 8) (s : State), (Sound s) ∧ (NoneWaits s) ∧ (rd CUT_STATUS_log_open 0 s = 0) ∧ (rd CUT_STATUS_sweeping 0 s = 1) ∧ (s.sweep = [(8 * n.val + k.val, true)]) ∧ (s.stateWords = [])) :=
  ⟨⟨0x1007, 2, ([1, 2, 3] : List Byte), cow, by decide +kernel⟩,
   ⟨0x1007, 2, ([1, 2, 3] : List Byte), busy cow, by decide +kernel⟩,
   ⟨n5, pu, [{pu with addr := 0x2000}], busy (pst 1), 0, by decide +kernel⟩,
   ⟨n5, pu, [{pu with addr := 0x2000}], last (pst 1), 0, by decide +kernel⟩,
   ⟨n5, pu, [{pu with addr := 0x2000}], busy (pst 0), 0, by decide +kernel⟩,
   ⟨n5, pu, [], last (one (pst 1)), 0, by decide +kernel⟩,
   ⟨n5, (2 : Fin 8), busy (dst 3 100), 0, by decide +kernel⟩,
   ⟨n5, (2 : Fin 8), setPushed (stationAddr 5 0) true (busy (dst 0 100)), by decide +kernel⟩,
   ⟨n5, (2 : Fin 8), one (busy (dst 3 0)), by decide +kernel⟩,
   ⟨n5, (2 : Fin 8), busy (dst 3 0), by decide +kernel, by decide +kernel, by decide +kernel, by decide +kernel, by decide +kernel⟩,
   ⟨n5, (2 : Fin 8), last (dst 3 0), by decide +kernel, by decide +kernel, by decide +kernel, by decide +kernel, by decide +kernel⟩,
   ⟨n5, (2 : Fin 8), swp, by decide +kernel⟩⟩

end Stations

namespace Upkeep

def n5 : StationN := 5
def su (x : StationSt) (l : List (Fld × Nat × Nat)) : State := fl l (setStation 5 x State.reset)

theorem test_meets_StationUpkeep :
    (∃ (n : StationN) (s : State), (Sound s) ∧ (Answers s) ∧ (isl (↑n) s = 0) ∧ ((station (↑n) s).scrubAt = none)) ∧
    (∃ (n : StationN) (s : State), (Sound s) ∧ (Answers s) ∧ (isl (↑n) s = 0) ∧ ((station (↑n) s).scrubAt = none) ∧ (on MST_CONTROL_scrub_en (↑n) s = true)) ∧
    (∃ (n : StationN) (s : State) (p : Nat), (Sound s) ∧ (Answers s) ∧ (isl (↑n) s = 0) ∧ ((station (↑n) s).scrubAt = some p) ∧ (s.chk = []) ∧ (s.stateWords = [])) ∧
    (∃ (n : StationN) (s : State) (d : Fin 4), (Sound s) ∧ (Answers s) ∧ (isl (↑n) s = 0) ∧ ((station (↑n) s).retrainQ.testBit ↑d = true)) ∧
    (∃ (n : StationN) (s : State) (d : Fin 4), (Sound s) ∧ (Answers s) ∧ (isl (↑n) s = 0) ∧ ((station (↑n) s).retrainQ.testBit ↑d = false)) ∧
    (∃ (n : StationN) (s : State), (Sound s) ∧ (Answers s) ∧ (isl (↑n) s = 0)) ∧
    (∃ (n : StationN) (s : State) (d : Fin 4), (Sound s) ∧ (Answers s) ∧ (isl (↑n) s = 0)) :=
  ⟨⟨n5, (su {retrainQ := 9} [(MST_CONTROL_scrub_en, 5, 1), (MST_STATUS_ready, 5, 1)]), by decide +kernel⟩,
   ⟨n5, (su {retrainQ := 9} [(MST_CONTROL_scrub_en, 5, 1), (MST_STATUS_ready, 5, 1)]), by decide +kernel⟩,
   ⟨n5, (su {retrainQ := 9, scrubAt := some 77} [(MST_CONTROL_scrub_en, 5, 0)]), 77, by decide +kernel⟩,
   ⟨n5, (su {retrainQ := 9} [(MST_CONTROL_scrub_en, 5, 1), (MST_STATUS_ready, 5, 1)]), (3 : Fin 4), by decide +kernel⟩,
   ⟨n5, (su {retrainQ := 9, scrubAt := some 77} [(MST_CONTROL_scrub_en, 5, 0)]), (2 : Fin 4), by decide +kernel⟩,
   ⟨n5, (su {retrainQ := 9} [(MST_CONTROL_scrub_en, 5, 1), (MST_STATUS_ready, 5, 1)]), by decide +kernel⟩,
   ⟨n5, (su {retrainQ := 9} [(MST_CONTROL_scrub_en, 5, 1), (MST_STATUS_ready, 5, 1)]), (3 : Fin 4), by decide +kernel⟩⟩

end Upkeep

namespace Shunts

def c9 : ChanN := 99
def sc (st : Nat) (x : Shunt) (l : List (Fld × Nat × Nat)) : State := openAll (fl ([(SHN_CH_STATUS_state, 99, st), (SHN_CH_CHAIN_chain, 99, 0x12340), (SHN_CH_CUR_cur, 99, 0x4000), (SHN_CH_SRC_src, 99, 0x1000), (SHN_CH_DST_dst, 99, 0x8003), (SHN_CH_COUNT_count, 99, 77)] ++ l) { (setShunt 99 x State.reset) with mem := [⟨0x1000, 1⟩, ⟨0x1030, 5⟩, ⟨0x8004, 9⟩] })
def mk (src dst count flags : Nat) : List Byte := leBytes src 8 ++ leBytes dst 8 ++ leBytes count 8 ++ leBytes 0 8 ++ leBytes flags 8 ++ leBytes 0 24
def sc2 (st : Nat) (d : List Byte) (x : Shunt) : State := { sc st x [] with mem := ((([0x1000, 0x1030, 0x8004].foldl (fun (m : Map Byte) a => Map.set zb m a 7#8) []) : Map Byte) |> fun m => d.zipIdx.foldl (fun m e => Map.set zb m (0x4000 + e.2) e.1) m).map fun e => ⟨e.1, e.2⟩ }
def tg : Map (Option TagUse) := [(5, some { who := .shunt 99 0x9000 64 }), (6, some { who := .shunt 98 0x9000 64 }), (9, some { who := .shunt 99 0x9040 64 })]
def rows (src dst n r sp dp flags : Nat) : List Byte := leBytes src 8 ++ leBytes dst 8 ++ leBytes (n + (r - 1) * 2 ^ 32) 8 ++ leBytes (sp + dp * 2 ^ 32) 8 ++ leBytes flags 8 ++ leBytes 0x2000 8 ++ leBytes 0x3000 8 ++ leBytes 0x4040 8
def remote (flags : Nat) : Nat := flags + 2 ^ 16 + 0x103 * 2 ^ 17

theorem test_meets_ShuntOrders :
    (∃ (n : ChanN) (s : State), (Sound s) ∧ (Answers s) ∧ (wakeShunt (↑n) s = s) ∧ (bootLocked s = false)) ∧
    (∃ (n : ChanN) (s : State), (Sound s) ∧ (Answers s) ∧ (wakeShunt (↑n) s = s) ∧ (bootLocked s = true) ∧ (chState (↑n) s = 0)) ∧
    (∃ (n : ChanN) (s : State), (Sound s) ∧ (Answers s) ∧ (wakeShunt (↑n) s = s) ∧ (bootLocked s = true) ∧ (chState (↑n) s ≠ 0)) ∧
    (∃ (n : ChanN) (s : State), (Sound s) ∧ (Answers s) ∧ (wakeShunt (↑n) s = s) ∧ (chState (↑n) s = 1)) ∧
    (∃ (n : ChanN) (s : State), (Sound s) ∧ (Answers s) ∧ (wakeShunt (↑n) s = s) ∧ (chState (↑n) s = 3 ∨ chState (↑n) s = 4)) :=
  ⟨⟨c9, (sc 0 {} []), by decide +kernel⟩,
   ⟨c9, (sc 0 {} [(BTC_STATUS_locked, 0, 1)]), by decide +kernel⟩,
   ⟨c9, (sc 1 { starter := some 3 } [(SHN_CH_STATUS_flags, 99, 1), (BTC_STATUS_locked, 0, 1)]), by decide +kernel⟩,
   ⟨c9, (sc 1 { starter := some 3 } [(SHN_CH_STATUS_flags, 99, 1), (BTC_STATUS_locked, 0, 1)]), by decide +kernel⟩,
   ⟨c9, (sc 3 { starter := some 3, phase := 2 } [(SHN_CH_STATUS_flags, 99, 1)]), by decide +kernel⟩⟩

theorem test_meets_ShuntMovesAndEnds :
    (∃ (n : ChanN) (s : State), (Calm s) ∧ (PlainMem s) ∧ (∀ (k : Nat), k < 32 → rd DBG_WP_BASE_valid k s = 0) ∧ (∀ (t : Nat), (shunt (↑n) s).starter = some t → t < 168) ∧ ((shunt (↑n) s).cmd = none) ∧ (chState (↑n) s = 1 ∨ chState (↑n) s = 2) ∧ ((shunt (↑n) s).phase = 0) ∧ ((shunt (↑n) s).direct = true) ∧ ((shunt (↑n) s).again = false) ∧ ((sdesc (directDesc (↑n) s)).legal = true)) ∧
    (∃ (n : ChanN) (s : State), (Calm s) ∧ (PlainMem s) ∧ (∀ (k : Nat), k < 32 → rd DBG_WP_BASE_valid k s = 0) ∧ (∀ (t : Nat), (shunt (↑n) s).starter = some t → t < 168) ∧ ((shunt (↑n) s).cmd = none) ∧ (chState (↑n) s = 1 ∨ chState (↑n) s = 2) ∧ ((shunt (↑n) s).phase = 0) ∧ ((shunt (↑n) s).direct = false) ∧ ((shunt (↑n) s).again = false) ∧ (rd SHN_CH_CUR_cur (↑n) s % 64 = 0) ∧ (descPlace (rd SHN_CH_CUR_cur (↑n) s) s = true) ∧ (mapped (rd SHN_CH_CUR_cur (↑n) s) 64 s = true ∧ protOk 5 (rd SHN_CH_CUR_cur (↑n) s) 64 true false s = true ∧ anyDown (rd SHN_CH_CUR_cur (↑n) s) 64 s = false)) ∧
    (∃ (n : ChanN) (s : State), (Calm s) ∧ (PlainMem s) ∧ (∀ (k : Nat), k < 32 → rd DBG_WP_BASE_valid k s = 0) ∧ (∀ (t : Nat), (shunt (↑n) s).starter = some t → t < 168) ∧ ((shunt (↑n) s).cmd = none) ∧ (chState (↑n) s = 1 ∨ chState (↑n) s = 2) ∧ ((shunt (↑n) s).phase = 0) ∧ ((shunt (↑n) s).again = true) ∧ ((sdesc (shunt (↑n) s).desc).legal = true) ∧ ((sdesc (shunt (↑n) s).desc).remote = false)) ∧
    (∃ (n : ChanN) (s : State), (Calm s) ∧ (PlainMem s) ∧ (∀ (k : Nat), k < 32 → rd DBG_WP_BASE_valid k s = 0) ∧ (∀ (t : Nat), (shunt (↑n) s).starter = some t → t < 168) ∧ ((shunt (↑n) s).cmd = none) ∧ ((shunt (↑n) s).phase = 1) ∧ ((sdesc (shunt (↑n) s).desc).remote = false) ∧ ((sdesc (shunt (↑n) s).desc).legal = true) ∧ (SourceOpen (sdesc (shunt (↑n) s).desc) s) ∧ (∀ (w : Nat × List Byte), w ∈ moved (sdesc (shunt (↑n) s).desc) s → MayAccess 5 2 w.fst w.snd.length false true s)) ∧
    (∃ (n : ChanN) (s : State), (Calm s) ∧ (PlainMem s) ∧ (∀ (k : Nat), k < 32 → rd DBG_WP_BASE_valid k s = 0) ∧ (∀ (t : Nat), (shunt (↑n) s).starter = some t → t < 168) ∧ ((shunt (↑n) s).cmd = none) ∧ ((shunt (↑n) s).phase = 1) ∧ ((sdesc (shunt (↑n) s).desc).remote = false) ∧ ((sdesc (shunt (↑n) s).desc).legal = true) ∧ (SourceOpen (sdesc (shunt (↑n) s).desc) s) ∧ (∀ (w : Nat × List Byte), w ∈ moved (sdesc (shunt (↑n) s).desc) s → MayAccess 5 2 w.fst w.snd.length false true s)) ∧
    (∃ (n : ChanN) (s : State), (Calm s) ∧ (PlainMem s) ∧ (∀ (k : Nat), k < 32 → rd DBG_WP_BASE_valid k s = 0) ∧ (∀ (t : Nat), (shunt (↑n) s).starter = some t → t < 168) ∧ ((shunt (↑n) s).cmd = none) ∧ (chState (↑n) s = 1 ∨ chState (↑n) s = 2) ∧ ((shunt (↑n) s).phase = 0) ∧ ((shunt (↑n) s).again = false → (shunt (↑n) s).direct = false → rd SHN_CH_CUR_cur (↑n) s % 64 = 0 ∧ descPlace (rd SHN_CH_CUR_cur (↑n) s) s = true ∧ mapped (rd SHN_CH_CUR_cur (↑n) s) 64 s = true ∧ protOk 5 (rd SHN_CH_CUR_cur (↑n) s) 64 true false s = true ∧ anyDown (rd SHN_CH_CUR_cur (↑n) s) 64 s = false) ∧ ((sdesc (if (shunt (↑n) s).again = true then (shunt (↑n) s).desc else if (shunt (↑n) s).direct = true then directDesc (↑n) s else cells (rd SHN_CH_CUR_cur (↑n) s) 64 s)).legal = true) ∧ ((sdesc (if (shunt (↑n) s).again = true then (shunt (↑n) s).desc else if (shunt (↑n) s).direct = true then directDesc (↑n) s else cells (rd SHN_CH_CUR_cur (↑n) s) 64 s)).remote = true) ∧ ((shunt (↑n) s).siding = false) ∧ (SourceOpen (sdesc (if (shunt (↑n) s).again = true then (shunt (↑n) s).desc else if (shunt (↑n) s).direct = true then directDesc (↑n) s else cells (rd SHN_CH_CUR_cur (↑n) s) 64 s)) s)) ∧
    (∃ (n : ChanN) (s : State), (Calm s) ∧ (PlainMem s) ∧ (∀ (k : Nat), k < 32 → rd DBG_WP_BASE_valid k s = 0) ∧ (∀ (t : Nat), (shunt (↑n) s).starter = some t → t < 168) ∧ ((shunt (↑n) s).cmd = none) ∧ ((shunt (↑n) s).phase = 2) ∧ ((sdesc (shunt (↑n) s).desc).remote = false) ∧ ((sdesc (shunt (↑n) s).desc).last = true) ∧ (mapped (shunt (↑n) s).lastW 1 s = true ∧ protOk 5 (shunt (↑n) s).lastW 1 true false s = true ∧ anyDown (shunt (↑n) s).lastW 1 s = false)) ∧
    (∃ (n : ChanN) (s : State) (code : Nat) (a : Nat), (Calm s) ∧ (∀ (t : Nat), (shunt (n.val) s).starter = some t → t < 168) ∧ ((shunt (n.val) s).cmd = none) ∧ ((shunt (n.val) s).err = some (code, a)) ∧ ((shunt (n.val) s).remoteOut = 0)) ∧
    (∃ (n : ChanN) (s : State) (e : Nat × Nat × Nat) (l : List (Nat × Nat × Nat)), (Calm s) ∧ (∀ (t : Nat), (shunt (↑n) s).starter = some t → t < 168) ∧ ((shunt (↑n) s).cmd = none) ∧ (chOldest (↑n) s = e :: l) ∧ ((shunt (↑n) s).phase = 2 ∨ (shunt (↑n) s).remoteOut ≤ l.length + 1)) ∧
    (∃ (n : ChanN) (s : State) (e : Nat × Nat × Nat) (l : List (Nat × Nat × Nat)), (Calm s) ∧ (∀ (t : Nat), (shunt (↑n) s).starter = some t → t < 168) ∧ ((shunt (↑n) s).cmd = none) ∧ (chOldest (↑n) s = e :: l) ∧ ((shunt (↑n) s).phase ≠ 2) ∧ (l.length + 1 < (shunt (↑n) s).remoteOut)) ∧
    (∃ (n : ChanN) (s : State), (Calm s) ∧ (∀ (t : Nat), (shunt (↑n) s).starter = some t → t < 168) ∧ ((shunt (↑n) s).cmd = none) ∧ (chTags (↑n) s = [])) :=
  ⟨⟨c9, (sc 1 { direct := true } []), by decide +kernel⟩,
   ⟨c9, (sc2 2 (mk 0x1000 0x8003 77 0xC000) { starter := some 7 }), by decide +kernel⟩,
   ⟨c9, (sc 1 { desc := mk 0x1000 0x8003 77 0xC000, again := true } []), by decide +kernel⟩,
   ⟨c9, (sc 1 { starter := some 7, phase := 1, desc := mk 0x1000 0x8003 77 0xC000 } []), by decide +kernel⟩,
   ⟨c9, (sc 1 { starter := some 7, phase := 1, desc := rows 0x1000 0x8000 4 2 48 16 (9 + 2 * 16) } []), by decide +kernel⟩,
   ⟨c9, (sc2 1 (mk 0x1000 0x8003 77 (remote 0xC000)) { starter := some 7 }), by decide +kernel, by decide +kernel, by decide +kernel, by decide +kernel, by decide +kernel⟩,
   ⟨c9, (sc 1 { starter := some 7, evt := some 47, phase := 2, lastW := 0x8050, desc := mk 0x1000 0x8003 77 0xC000 } []), by decide +kernel⟩,
   ⟨c9, (sc 1 { starter := some 7, phase := 1, desc := mk 0x1000 0x8003 77 0xC000, err := some (3, 0x1234) } []), 3, 0x1234, by decide +kernel⟩,
   ⟨c9, ({ sc 1 { starter := some 7, phase := 1, remoteOut := 1, desc := mk 0x1000 0x8003 77 0xC000 } [] with tags := tg }), (5, 0x9000, 0), [(9, 0x9040, 0)], by decide +kernel⟩,
   ⟨c9, ({ sc 1 { starter := some 7, phase := 1, remoteOut := 3, desc := mk 0x1000 0x8003 77 0xC000 } [] with tags := tg }), (5, 0x9000, 0), [(9, 0x9040, 0)], by decide +kernel⟩,
   ⟨c9, (sc 1 { starter := some 7, phase := 1 } []), by decide +kernel⟩⟩

end Shunts

namespace Ports

def ps (st : Nat) (x : Port) (l : List (Fld × Nat × Nat)) : State := fl ([(ULP_STATUS_state, 5, st), (ULP_STATUS_present, 5, 1), (ULP_CONTROL_enable, 5, 1), (RTR_COORD_coord, 0, 0x20041)] ++ l) (setPort 5 x (setPort 6 { saved := true } State.reset))
def cableBytes : List Byte := let b : List Byte := [0xA7,1,0,1,0,0,16,1] ++ List.replicate 119 0; b ++ [BitVec.ofNat 8 (256 - (0xA7+1+1+16+1)%256)]
def lm (st : Nat) (x : Port) : State := let m0 := (List.range 8).foldl (fun a i => a + i * 32^i) 0; let m1 := (List.range 8).foldl (fun a i => a + (i+8) * 32^i) 0
  ps st x [(ULP_LANEMAP_RX0_map, 5, m0), (ULP_LANEMAP_RX1_map, 5, m1)]

theorem test_meets_PortBringUpSteps :
    (∃ (n : PortN) (s : State), (Calm s) ∧ (OwnPort (↑n) s) ∧ (Answers s) ∧ (portState (↑n) s = 0) ∧ (bootLocked s = false)) ∧
    (∃ (n : PortN) (s : State), (Calm s) ∧ (OwnPort (↑n) s) ∧ (Answers s) ∧ (portState (↑n) s = 0) ∧ (bootLocked s = true) ∧ (rd ULP_STATUS_present (↑n) s = 1)) ∧
    (∃ (n : PortN) (s : State), (Calm s) ∧ (OwnPort (↑n) s) ∧ (Answers s) ∧ (portState (↑n) s = 0) ∧ (bootLocked s = true) ∧ (rd ULP_STATUS_present (↑n) s = 0)) ∧
    (∃ (n : PortN) (s : State), (Calm s) ∧ (OwnPort (↑n) s) ∧ (Answers s) ∧ (portState (↑n) s ≠ 0)) ∧
    (∃ (n : PortN) (s : State), (Calm s) ∧ (OwnPort (↑n) s) ∧ (Answers s) ∧ (portState (↑n) s = 6)) ∧
    (∃ (n : PortN) (s : State), (Calm s) ∧ (OwnPort (↑n) s) ∧ (Answers s) ∧ (portState (↑n) s ≠ 6)) ∧
    (∃ (n : PortN) (s : State), (Calm s) ∧ (OwnPort (↑n) s) ∧ (Answers s) ∧ (portState (↑n) s = 0) ∧ (rd ULP_STATUS_present (↑n) s = 0)) ∧
    (∃ (n : PortN) (s : State), (Calm s) ∧ (OwnPort (↑n) s) ∧ (Answers s) ∧ (portState (↑n) s ≠ 0) ∧ (portState (↑n) s ≠ 9) ∧ (rd ULP_STATUS_present (↑n) s = 1)) ∧
    (∃ (n : PortN) (s : State) (d : List Byte), (Calm s) ∧ (OwnPort (↑n) s) ∧ (Answers s) ∧ (portState (↑n) s = 1)) ∧
    (∃ (n : PortN) (s : State) (good : BitVec 16) (nums : List (Fin 16)), (Calm s) ∧ (OwnPort (↑n) s) ∧ (Answers s) ∧ (portState (↑n) s = 2)) ∧
    (∃ (n : PortN) (s : State), (Calm s) ∧ (OwnPort (↑n) s) ∧ (Answers s) ∧ (portState (↑n) s = 3)) ∧
    (∃ (n : PortN) (s : State) (coord : BitVec 18) (role : BitVec 4) (letter : Bool) (good : BitVec 16) (degrade : Bool), (Calm s) ∧ (OwnPort (↑n) s) ∧ (Answers s) ∧ (portState (↑n) s = 4)) ∧
    (∃ (n : PortN) (s : State), (Calm s) ∧ (OwnPort (↑n) s) ∧ (Answers s) ∧ (portState (↑n) s = 5) ∧ ((port (↑n) s).pings < 64)) ∧
    (∃ (n : PortN) (s : State), (Calm s) ∧ (OwnPort (↑n) s) ∧ (Answers s) ∧ (1 ≤ portState (↑n) s) ∧ (portState (↑n) s ≤ 5)) :=
  ⟨⟨p5, (ps 0 {} [(ULP_CONTROL_enable, 5, 0)]), by decide +kernel⟩,
   ⟨p5, (ps 0 {} [(ULP_CONTROL_enable, 5, 0), (BTC_STATUS_locked, 0, 1)]), by decide +kernel⟩,
   ⟨p5, (ps 0 {} [(ULP_CONTROL_enable, 5, 0), (ULP_STATUS_present, 5, 0), (BTC_STATUS_locked, 0, 1)]), by decide +kernel⟩,
   ⟨p5, (lm 6 {pings := 63, frames := [{ num := 3, items := [.flow] }]}), by decide +kernel⟩,
   ⟨p5, (lm 6 {pings := 63, frames := [{ num := 3, items := [.flow] }]}), by decide +kernel⟩,
   ⟨p5, (lm 3 {}), by decide +kernel⟩,
   ⟨p5, (ps 0 {} [(ULP_CONTROL_enable, 5, 0), (ULP_STATUS_present, 5, 0), (BTC_STATUS_locked, 0, 1)]), by decide +kernel⟩,
   ⟨p5, (lm 6 {pings := 63, frames := [{ num := 3, items := [.flow] }]}), by decide +kernel⟩,
   ⟨p5, (ps 1 {} []), cableBytes, by decide +kernel⟩,
   ⟨p5, (fl ((List.range 8).map fun i => (ULP_LANEMAP_RX0_map, 5, 0)) (ps 2 {} [])), (0xFFFF#16), ((List.range 16).map fun l => Fin.ofNat 16 l), by decide +kernel⟩,
   ⟨p5, (lm 3 {}), by decide +kernel⟩,
   ⟨p5, (fl [(ULP_CONTROL_degrade_en, 5, 1)] (lm 4 {good := 0xFFFF})), (0x3F041#18), (5#4), false, (0xFF#16), true, by decide +kernel⟩,
   ⟨p5, (lm 5 {pings := 63, ctlq := [.flow]}), by decide +kernel⟩,
   ⟨p5, (ps 1 {} []), by decide +kernel⟩⟩

end Ports

namespace Frames

def ps (st : Nat) (x : Port) (l : List (Fld × Nat × Nat)) : State := fl ([(ULP_STATUS_state, 5, st), (ULP_STATUS_present, 5, 1), (ULP_CONTROL_enable, 5, 1), (RTR_COORD_coord, 0, 0x20041)] ++ l) (setPort 5 x (setPort 6 { saved := true } State.reset))
def cell (k : RxKind) (w : Nat) : RxCell := { kind := k, c := BitVec.ofNat 128 w }
def fld_ (ack : Nat) (req : Bool) (on_ : Nat) (closed : Bool) (lims : List Nat) : Nat := ack + (if req then 2^16 else 0) + on_ * 2^17 + (if closed then 2^23 else 0) + (lims.zipIdx.foldl (fun a e => a + e.1 * 2^(25+12*e.2)) 0)
def fw (typ : Nat) (ack : Nat) (req : Bool) : Nat := typ + 2^16 * fld_ ack req 0x3F true [1,2,3,4,5,4095]
def fs3 : List Frame := [⟨65534, [.flow], [], none⟩, ⟨65535, [.flow], [], none⟩, ⟨0, [.flow], [], none⟩, ⟨1, [], [], none⟩]
def r0 : RxCell := cell .ctl 0xF2
def go (st : Nat) (c : RxCell) (x : Port) (l : List (Fld × Nat × Nat)) : State := ps st { x with cells := [c, r0] } l
def pg (e : Nat) : Port := { pings := 64, echoes := e, pingAt := [(0x12, some 100)] }
def zeros : List (BitVec 10) := List.replicate 544 0

theorem test_meets_LinkCells :
    (∃ (n : PortN) (c : RxCell) (r : List RxCell) (s : State), (Calm s) ∧ (OwnPort (n.val) s) ∧ ((port (n.val) s).cells = c :: r) ∧ (c.kind = RxKind.frame)) ∧
    (∃ (n : PortN) (c : RxCell) (r : List RxCell) (s : State), (Calm s) ∧ (OwnPort (n.val) s) ∧ ((port (n.val) s).cells = c :: r) ∧ (c.kind = RxKind.ctl) ∧ (c.c.toNat % 256 = 240)) ∧
    (∃ (n : PortN) (c : RxCell) (r : List RxCell) (s : State), (Calm s) ∧ (OwnPort (n.val) s) ∧ ((port (n.val) s).cells = c :: r) ∧ (c.kind = RxKind.ctl) ∧ (c.c.toNat % 256 = 241) ∧ ((port (n.val) s).markSeen = false) ∧ (bit c.c.toNat 8 = (port (n.val) s).gen) ∧ (rd ULP_STATUS_closed (n.val) s = 0) ∧ ((port (n.val) s).used < rd ULP_FC_STATUS_off_t (n.val) s)) ∧
    (∃ (n : PortN) (c : RxCell) (r : List RxCell) (s : State), (Calm s) ∧ (OwnPort (n.val) s) ∧ ((port (n.val) s).cells = c :: r) ∧ (c.kind = RxKind.ctl) ∧ (c.c.toNat % 256 = 242)) ∧
    (∃ (n : PortN) (c : RxCell) (r : List RxCell) (s : State) (t : Nat), (Calm s) ∧ (OwnPort (↑n) s) ∧ ((port (↑n) s).cells = c :: r) ∧ (c.kind = RxKind.ctl) ∧ (c.c.toNat % 256 = 243) ∧ (portState (↑n) s = 5) ∧ (Map.get (fun x => none) (port (↑n) s).pingAt (bits c.c.toNat 8 16) = some t) ∧ ((port (↑n) s).echoes + 1 ≠ 64)) ∧
    (∃ (n : PortN) (c : RxCell) (r : List RxCell) (s : State), (Calm s) ∧ (OwnPort (n.val) s) ∧ ((port (n.val) s).cells = c :: r) ∧ (c.kind = RxKind.ctl) ∧ (c.c.toNat % 256 = 244)) ∧
    (∃ (n : PortN) (c : RxCell) (r : List RxCell) (s : State), (Calm s) ∧ (OwnPort (n.val) s) ∧ ((port (n.val) s).cells = c :: r) ∧ (c.kind = RxKind.ctl) ∧ (c.c.toNat % 256 = 245)) ∧
    (∃ (n : PortN) (c : RxCell) (r : List RxCell) (s : State) (lane : Fin 16) (tap : Fin 5) (a : BitVec 2), (Calm s) ∧ (OwnPort (↑n) s) ∧ ((port (↑n) s).cells = c :: r) ∧ (portState (↑n) s = 2 ∨ portState (↑n) s = 6 ∨ portState (↑n) s = 7)) ∧
    (∃ (n : PortN) (c : RxCell) (r : List RxCell) (s : State), (Calm s) ∧ (OwnPort (n.val) s) ∧ ((port (n.val) s).cells = c :: r) ∧ (c.kind = RxKind.ctl) ∧ (c.c.toNat % 256 = 246) ∧ (portDepth s = none)) ∧
    (∃ (n : PortN) (c : RxCell) (r : List RxCell) (s : State) (d : Bool), (Calm s) ∧ (OwnPort (n.val) s) ∧ ((port (n.val) s).cells = c :: r) ∧ (c.kind = RxKind.ctl) ∧ (c.c.toNat % 256 = 246) ∧ (portDepth s = some d) ∧ (napOk (n.val) s = true)) ∧
    (∃ (n : PortN) (c : RxCell) (r : List RxCell) (s : State) (d : Bool), (Calm s) ∧ (OwnPort (↑n) s) ∧ ((port (↑n) s).cells = c :: r) ∧ (c.kind = RxKind.ctl) ∧ (c.c.toNat % 256 = 247) ∧ ((port (↑n) s).nap = some d) ∧ (bit c.c.toNat 9 = true) ∧ (stationClock s = false)) ∧
    (∃ (n : PortN) (c : RxCell) (r : List RxCell) (s : State) (d : Bool), (Calm s) ∧ (OwnPort (↑n) s) ∧ ((port (↑n) s).cells = c :: r) ∧ (c.kind = RxKind.ctl) ∧ (c.c.toNat % 256 = 247) ∧ ((port (↑n) s).nap = some d) ∧ ((port (↑n) s).outq = []) ∧ (bit c.c.toNat 9 = false ∨ stationClock s = true)) ∧
    (∃ (n : PortN) (c : RxCell) (r : List RxCell) (s : State) (a : Nat), (Calm s) ∧ (OwnPort (n.val) s) ∧ ((port (n.val) s).cells = c :: r) ∧ ((port (n.val) s).replayAck = some a)) :=
  ⟨⟨p5, (cell .frame (fw 0xE0 65535 true)), [r0], (go 6 (cell .frame (fw 0xE0 65535 true)) {frames := fs3, txNum := 2} []), by decide +kernel⟩,
   ⟨p5, (cell .ctl (fw 0xF0 65535 false)), [r0], (go 6 (cell .ctl (fw 0xF0 65535 false)) {frames := fs3, txNum := 2, replayAck := some 4} []), by decide +kernel⟩,
   ⟨p5, (cell .ctl 0xF1), [r0], (go 6 (cell .ctl 0xF1) {markSeen := false} [(ULP_FC_STATUS_off_t, 5, 4)]), by decide +kernel⟩,
   ⟨p5, (cell .ctl 0x1234F2), [r0], (go 6 (cell .ctl 0x1234F2) {ctlq := [.flow]} []), by decide +kernel⟩,
   ⟨p5, (cell .ctl 0x12F3), [r0], ({ go 5 (cell .ctl 0x12F3) (pg 0) [] with cycle := 1000 }), 100, by decide +kernel⟩,
   ⟨p5, (cell .ctl 0x5678F4), [r0], (go 6 (cell .ctl 0x5678F4) {} []), by decide +kernel⟩,
   ⟨p5, (cell .ctl 0x5678F5), [r0], (go 6 (cell .ctl 0x5678F5) {} []), by decide +kernel⟩,
   ⟨p5, (cell .ctl 0x5678F4), [r0], (go 6 (cell .ctl 0x5678F4) {} []), (15 : Fin 16), (4 : Fin 5), (2#2), by decide +kernel⟩,
   ⟨p5, (cell .ctl 0x1F6), [r0], (go 6 (cell .ctl 0x1F6) {} []), by decide +kernel⟩,
   ⟨p5, (cell .ctl 0x1F6), [r0], (go 6 (cell .ctl 0x1F6) {idle := true, nap := some true} [(PWR_STATUS_season, 0, 3)]), true, by decide +kernel⟩,
   ⟨p5, (cell .ctl 0x3F7), [r0], { (go 6 (cell .ctl 0x3F7) {idle := true, nap := some true} [(PWR_STATUS_season, 0, 3)]) with phys := { State.reset.phys with refs := 0 } }, true, by decide +kernel⟩,
   ⟨p5, (cell .ctl 0x3F7), [r0], (go 6 (cell .ctl 0x3F7) {idle := true, nap := some true} [(PWR_STATUS_season, 0, 3)]), true, by decide +kernel⟩,
   ⟨p5, (cell .ctl 0x1F5), [r0], (go 6 (cell .ctl 0x1F5) {frames := fs3, replayAck := some 65535, holdoff := true, again := true} []), 65535, by decide +kernel⟩⟩

theorem test_meets_FramesAndLowPower :
    (∃ (n : PortN) (s : State) (start : Bool) (syms : List (BitVec 10)), (Calm s) ∧ (OwnPort (↑n) s) ∧ (2 ≤ portState (↑n) s) ∧ (portState (↑n) s ≤ 6)) ∧
    (∃ (n : PortN) (s : State) (start : Bool) (syms : List (BitVec 10)), (Calm s) ∧ (OwnPort (↑n) s) ∧ (2 ≤ portState (↑n) s) ∧ (portState (↑n) s ≤ 6)) ∧
    (∃ (n : PortN) (s : State) (k : Nat), (Calm s) ∧ (OwnPort (n.val) s) ∧ (portState (n.val) s = 6) ∧ ((port (n.val) s).retrainReq = true)) ∧
    (∃ (n : PortN) (s : State) (k : Nat), (Calm s) ∧ (OwnPort (n.val) s) ∧ (portState (n.val) s = 6) ∧ ((port (n.val) s).retrainReq = false) ∧ ((port (n.val) s).tapPend = []) ∧ ((port (n.val) s).resend = none) ∧ ((port (n.val) s).frames.length < 8) ∧ ((port (n.val) s).outq = []) ∧ ((port (n.val) s).napEnter = none)) ∧
    (∃ (n : PortN) (s : State) (k : Nat) (j : Nat), (Calm s) ∧ (OwnPort (↑n) s) ∧ (portState (↑n) s = 6) ∧ ((port (↑n) s).retrainReq = false) ∧ ((port (↑n) s).tapPend = []) ∧ ((port (↑n) s).resend = some j) ∧ (∃ f, f ∈ (port (↑n) s).frames ∧ f.num = j)) ∧
    (∃ (n : PortN) (s : State) (k : Nat), (Calm s) ∧ (OwnPort (↑n) s) ∧ (2 ≤ portState (↑n) s) ∧ (portState (↑n) s ≤ 5) ∧ ((port (↑n) s).tapPend = [])) ∧
    (∃ (n : PortN) (s : State) (d : Bool), (Calm s) ∧ (OwnPort (↑n) s) ∧ (portState (↑n) s = 6) ∧ (stationClock s = true) ∧ (portDepth s = some d) ∧ (rd ULP_CONTROL_keep_awake (↑n) s = 0) ∧ ((port (↑n) s).frames = []) ∧ ((port (↑n) s).outq = []) ∧ ((port (↑n) s).nap = none)) ∧
    (∃ (n : PortN) (s : State), (Calm s) ∧ (OwnPort (↑n) s) ∧ (stationClock s = false)) ∧
    (∃ (n : PortN) (s : State), (Calm s) ∧ (OwnPort (↑n) s) ∧ (stationClock s = true) ∧ (portState (↑n) s = 7)) ∧
    (∃ (n : PortN) (s : State), (Calm s) ∧ (OwnPort (↑n) s) ∧ (stationClock s = true) ∧ (portState (↑n) s = 8)) :=
  ⟨⟨p5, (ps 6 {} []), true, zeros, by decide +kernel⟩,
   ⟨p5, (ps 3 {} []), false, [], by decide +kernel⟩,
   ⟨p5, (ps 6 {retrainReq := true} []), (0), by decide +kernel⟩,
   ⟨p5, (ps 6 {ctlq := [.flow, .ctl 0xF2], frames := fs3, txNum := 65535} []), (0), by decide +kernel⟩,
   ⟨p5, (ps 6 {ctlq := [.flow, .ctl 0xF2], frames := fs3, txNum := 2, resend := some 65535} []), (0), 65535, by decide +kernel⟩,
   ⟨p5, (ps 4 { ctlq := [.ctl 0xF4] } []), 0, by decide +kernel⟩,
   ⟨p5, (ps 6 {ctlq := [.flow, .ctl 0xF2]} [(PWR_STATUS_season, 0, 3)]), true, by decide +kernel⟩,
   ⟨p5, ({ ps 6 {} [(PWR_STATUS_season, 0, 3)] with phys := { refs := 6 } }), by decide +kernel⟩,
   ⟨p5, (ps 7 {ctlq := [.flow, .ctl 0xF2]} [(PWR_STATUS_season, 0, 3)]), by decide +kernel⟩,
   ⟨p5, (ps 8 {ctlq := [.flow, .ctl 0xF2]} [(PWR_STATUS_season, 0, 3)]), by decide +kernel⟩⟩

theorem test_meets_PortBringUpSteps :
    (∃ (n : PortN) (s : State) (w : Nat) (r : List RxCell) (t : Nat), (Calm s) ∧ (OwnPort (↑n) s) ∧ (Answers s) ∧ (portState (↑n) s = 5) ∧ ((port (↑n) s).echoes = 63) ∧ (headCell (↑n) 243 s = some (w, r)) ∧ (Map.get (fun x => none) (port (↑n) s).pingAt (bits w 8 16) = some t) ∧ (rd ULP_RTT_rtt (↑n) s < 2 ^ 16)) :=
  ⟨p5, (go 5 (cell .ctl 0x12F3) (pg 63) [(ULP_RTT_rtt, 5, 1001)]), 0x12F3, [r0], 100, by decide +kernel⟩

end Frames

namespace Packets

def bd : List Byte := (List.range 20).map (BitVec.ofNat 8 ·)
def rc (p : Pkt) (ovr : Nat → Nat := id) : State := setPort 5 { cells := ({ kind := .head, c := BitVec.ofNat 128 (ovr p.header) } :: bodyC p.payload) ++ pcells (pk 0x80 []), inq := [qp (pk 0x80 []) 5] } (base [])
def at_ (p : Pkt) (late : Bool) (l : List (Fld × Nat × Nat)) : State := { base l with injq := [qp {pk 1 [] with vc := (p.vc + 1) % 6} 16, { qp p 16 with late := late }] }
def rest (p : Pkt) : List QPkt := [qp {pk 1 [] with vc := (p.vc + 1) % 6} 16]
def e0 (p : Pkt) (late : Bool) : QPkt := { qp p 16 with late := late }
def q16 : Fin 17 := 16
def pd (d : Nat) : Pkt := { pk 1 bd with dst := d }
def cred (p v n : Nat) (s : State) : State := setPort p { port p s with limits := [(v, n)], txClosed := true } s

theorem test_meets_PacketsReceivedAndRouted :
    (∃ (n : PortN) (f : RxFound) (s : State), (Calm s) ∧ (headPacket (↑n) s = some f) ∧ (f.head.wait = 0) ∧ (linkLocal (bits f.hdr 0 8) = false) ∧ (badHeader f.hdr = true)) ∧
    (∃ (n : PortN) (f : RxFound) (s : State), (Calm s) ∧ (headPacket (↑n) s = some f) ∧ (f.head.wait = 0) ∧ (linkLocal (bits f.hdr 0 8) = false) ∧ (badHeader f.hdr = false)) ∧
    (∃ (q : Fin 17) (v : Fin 6) (e : QPkt) (l : List QPkt) (s : State), (Calm s) ∧ (e.pkt.tt < 2) ∧ (takeFirst (fun x => x.pkt.vc == ↑v) (rqueue (↑q) s) = some (e, l)) ∧ (¬on RTR_TT_CTL_valid e.pkt.tt s = true)) ∧
    (∃ (q : Fin 17) (v : Fin 6) (e : QPkt) (l : List QPkt) (s : State), (Calm s) ∧ (e.pkt.tt < 2) ∧ (takeFirst (fun x => x.pkt.vc == ↑v) (rqueue (↑q) s) = some (e, l)) ∧ (on RTR_TT_CTL_valid e.pkt.tt s = true) ∧ (targetOf e.pkt.tt e.pkt.dst s = ownCoord s) ∧ (e.pkt.dst = ownCoord s) ∧ (e.pkt.typ ≠ 132) ∧ ((e.pkt.ca && (e.pkt.typ == 48 || e.pkt.typ == 49)) = false)) ∧
    (∃ (q : Fin 17) (v : Fin 6) (e : QPkt) (l : List QPkt) (s : State), (Calm s) ∧ (e.pkt.tt < 2) ∧ (takeFirst (fun x => x.pkt.vc == ↑v) (rqueue (↑q) s) = some (e, l)) ∧ (on RTR_TT_CTL_valid e.pkt.tt s = true) ∧ (targetOf e.pkt.tt e.pkt.dst s = ownCoord s) ∧ (e.pkt.dst = ownCoord s) ∧ (e.pkt.typ = 132)) ∧
    (∃ (q : Fin 17) (v : Fin 6) (e : QPkt) (l : List QPkt) (s : State), (Calm s) ∧ (e.pkt.tt < 2) ∧ (takeFirst (fun x => x.pkt.vc == ↑v) (rqueue (↑q) s) = some (e, l)) ∧ (on RTR_TT_CTL_valid e.pkt.tt s = true) ∧ (targetOf e.pkt.tt e.pkt.dst s = ownCoord s) ∧ (e.pkt.dst ≠ ownCoord s) ∧ (¬(e.pkt.dst = twinOf (ownCoord s) ∧ on RTR_CONTROL_adopt 0 s = true))) ∧
    (∃ (q : Fin 17) (v : Fin 6) (e : QPkt) (l : List QPkt) (s : State), (Calm s) ∧ (e.pkt.tt < 2) ∧ (takeFirst (fun x => x.pkt.vc == ↑v) (rqueue (↑q) s) = some (e, l)) ∧ (on RTR_TT_CTL_valid e.pkt.tt s = true) ∧ (targetOf e.pkt.tt e.pkt.dst s ≠ ownCoord s) ∧ (e.pkt.hops ≥ 255)) ∧
    (∃ (q : Fin 17) (v : Fin 6) (e : QPkt) (l : List QPkt) (s : State) (p : Nat), (Calm s) ∧ (e.pkt.tt < 2) ∧ (takeFirst (fun x => x.pkt.vc == ↑v) (rqueue (↑q) s) = some (e, l)) ∧ (on RTR_TT_CTL_valid e.pkt.tt s = true) ∧ (targetOf e.pkt.tt e.pkt.dst s ≠ ownCoord s) ∧ (e.pkt.hops < 255) ∧ (paced e s = false) ∧ (↑v ≠ 1) ∧ (↑v ≠ 5) ∧ (bestPort (mirrorPorts e (activeOnly (portsOf e.pkt.tt (productive (ownCoord s) (targetOf e.pkt.tt e.pkt.dst s)) s) s) s) (↑v) (pktCells e.pkt.payload.length) s = some p)) ∧
    (∃ (q : Fin 17) (v : Fin 6) (e : QPkt) (l : List QPkt) (s : State), (Calm s) ∧ (e.pkt.tt < 2) ∧ (takeFirst (fun x => x.pkt.vc == ↑v) (rqueue (↑q) s) = some (e, l)) ∧ (on RTR_TT_CTL_valid e.pkt.tt s = true) ∧ (targetOf e.pkt.tt e.pkt.dst s ≠ ownCoord s) ∧ (e.pkt.hops < 255) ∧ (paced e s = false) ∧ (↑v ≠ 1) ∧ (↑v ≠ 5) ∧ (bestPort (mirrorPorts e (activeOnly (portsOf e.pkt.tt (productive (ownCoord s) (targetOf e.pkt.tt e.pkt.dst s)) s) s) s) (↑v) (pktCells e.pkt.payload.length) s = none) ∧ (e.late = false) ∧ (mirrorPorts e (activeOnly (portsOf e.pkt.tt (productive (ownCoord s) (targetOf e.pkt.tt e.pkt.dst s)) s) s) s ≠ [])) ∧
    (∃ (q : Fin 17) (v : Fin 6) (e : QPkt) (l : List QPkt) (s : State) (p : Nat), (Calm s) ∧ (e.pkt.tt < 2) ∧ (takeFirst (fun x => x.pkt.vc == ↑v) (rqueue (↑q) s) = some (e, l)) ∧ (on RTR_TT_CTL_valid e.pkt.tt s = true) ∧ (targetOf e.pkt.tt e.pkt.dst s ≠ ownCoord s) ∧ (e.pkt.hops < 255) ∧ (paced e s = false) ∧ (↑v ≠ 1) ∧ (↑v ≠ 5) ∧ (bestPort (mirrorPorts e (activeOnly (portsOf e.pkt.tt (productive (ownCoord s) (targetOf e.pkt.tt e.pkt.dst s)) s) s) s) (↑v) (pktCells e.pkt.payload.length) s = none) ∧ (e.late = true) ∧ (List.find? (fun r => admits r 5 (pktCells e.pkt.payload.length) s) (mirrorPorts e (activeOnly (portsOf e.pkt.tt [escapeRole (ownCoord s) (targetOf e.pkt.tt e.pkt.dst s) (rd RTR_TT_CTL_dateline_x e.pkt.tt s, rd RTR_TT_CTL_dateline_y e.pkt.tt s, rd RTR_TT_CTL_dateline_z e.pkt.tt s)] s) s) s) = some p)) ∧
    (∃ (q : Fin 17) (v : Fin 6) (e : QPkt) (l : List QPkt) (s : State) (p : Nat), (Calm s) ∧ (e.pkt.tt < 2) ∧ (takeFirst (fun x => x.pkt.vc == ↑v) (rqueue (↑q) s) = some (e, l)) ∧ (on RTR_TT_CTL_valid e.pkt.tt s = true) ∧ (targetOf e.pkt.tt e.pkt.dst s ≠ ownCoord s) ∧ (e.pkt.hops < 255) ∧ (paced e s = false) ∧ (↑v = 1 ∨ ↑v = 5) ∧ (List.find? (fun r => admits r (↑v) (pktCells e.pkt.payload.length) s) (activeOnly (portsOf e.pkt.tt [escapeRole (ownCoord s) (targetOf e.pkt.tt e.pkt.dst s) (rd RTR_TT_CTL_dateline_x e.pkt.tt s, rd RTR_TT_CTL_dateline_y e.pkt.tt s, rd RTR_TT_CTL_dateline_z e.pkt.tt s)] s) s) = some p)) ∧
    (∃ (q : Fin 17) (v : Fin 6) (e : QPkt) (l : List QPkt) (s : State), (Calm s) ∧ (e.pkt.tt < 2) ∧ (takeFirst (fun x => x.pkt.vc == ↑v) (rqueue (↑q) s) = some (e, l)) ∧ (on RTR_TT_CTL_valid e.pkt.tt s = true) ∧ (targetOf e.pkt.tt e.pkt.dst s ≠ ownCoord s) ∧ (e.pkt.hops < 255) ∧ (paced e s = false) ∧ (↑v = 1 ∨ ↑v = 5) ∧ (activeOnly (portsOf e.pkt.tt [escapeRole (ownCoord s) (targetOf e.pkt.tt e.pkt.dst s) (rd RTR_TT_CTL_dateline_x e.pkt.tt s, rd RTR_TT_CTL_dateline_y e.pkt.tt s, rd RTR_TT_CTL_dateline_z e.pkt.tt s)] s) s ≠ []) ∧ (∀ (p : Nat), p ∈ activeOnly (portsOf e.pkt.tt [escapeRole (ownCoord s) (targetOf e.pkt.tt e.pkt.dst s) (rd RTR_TT_CTL_dateline_x e.pkt.tt s, rd RTR_TT_CTL_dateline_y e.pkt.tt s, rd RTR_TT_CTL_dateline_z e.pkt.tt s)] s) s → admits p (↑v) (pktCells e.pkt.payload.length) s = false)) ∧
    (∃ (q : Fin 17) (v : Fin 6) (e : QPkt) (l : List QPkt) (s : State), (Sound s) ∧ (takeFirst (fun x => x.pkt.vc == ↑v) (rqueue (↑q) s) = some (e, l)) ∧ (↑v = 1 ∨ ↑v = 5)) ∧
    (∃ (q : Fin 17) (v : Fin 6) (e : QPkt) (l : List QPkt) (s : State), (Sound s) ∧ (takeFirst (fun x => x.pkt.vc == ↑v) (rqueue (↑q) s) = some (e, l)) ∧ (↑v ≠ 1) ∧ (↑v ≠ 5)) :=
  ⟨⟨p5, (found (headPacket 5 (rc (pk 1 bd) (· + 2^14)))), (rc (pk 1 bd) (· + 2^14)), by decide +kernel⟩,
   ⟨p5, (found (headPacket 5 (rc (pk 1 bd)))), (rc (pk 1 bd)), by decide +kernel⟩,
   ⟨q16, (0 : Fin 6), (e0 (pd 0x20041) false), (rest (pd 0)), (at_ (pd 0x20041) false [(RTR_TT_CTL_valid, 0, 0)]), by decide +kernel⟩,
   ⟨q16, (0 : Fin 6), (e0 (pd 0x20041) false), (rest (pd 0)), (at_ (pd 0x20041) false []), by decide +kernel⟩,
   ⟨q16, (0 : Fin 6), (e0 {pd 0x20041 with typ := 0x84} false), (rest (pd 0)), (at_ {pd 0x20041 with typ := 0x84} false []), by decide +kernel⟩,
   ⟨q16, (0 : Fin 6), (e0 (pd 0x20042) false), (rest (pd 0)), (at_ (pd 0x20042) false [(RTR_TT_REDIR_valid, 0, 1), (RTR_TT_REDIR_from, 0, 0x20042), (RTR_TT_REDIR_to, 0, 0x20041)]), by decide +kernel⟩,
   ⟨q16, (0 : Fin 6), (e0 {pd 0x20042 with hops := 255} false), (rest (pd 0)), (cred 0 0 10 (at_ {pd 0x20042 with hops := 255} false [])), by decide +kernel⟩,
   ⟨q16, (0 : Fin 6), (e0 (pd 0x20042) false), (rest (pd 0)), (cred 0 0 10 (at_ (pd 0x20042) false [])), 0, by decide +kernel⟩,
   ⟨q16, (0 : Fin 6), (e0 (pd 0x20042) false), (rest (pd 0)), (at_ (pd 0x20042) false []), by decide +kernel⟩,
   ⟨q16, (0 : Fin 6), (e0 (pd 0x20042) true), (rest (pd 0)), (cred 0 5 10 (at_ (pd 0x20042) true [])), 0, by decide +kernel⟩,
   ⟨q16, (5 : Fin 6), (e0 {pd 0x20042 with vc := 5} false), (rest {pd 0 with vc := 5}), (cred 0 5 10 (at_ {pd 0x20042 with vc := 5} false [])), 0, by decide +kernel⟩,
   ⟨q16, (1 : Fin 6), (e0 {pd 0x20042 with vc := 1} false), (rest {pd 0 with vc := 1}), (cred 0 5 10 (at_ {pd 0x20042 with vc := 1} false [])), by decide +kernel⟩,
   ⟨q16, (1 : Fin 6), (e0 {pd 0x20042 with vc := 1} false), (rest {pd 0 with vc := 1}), (cred 0 5 10 (at_ {pd 0x20042 with vc := 1} false [])), by decide +kernel⟩,
   ⟨q16, (0 : Fin 6), (e0 (pd 0x20042) false), (rest (pd 0)), (cred 0 0 10 (at_ (pd 0x20042) false [])), by decide +kernel⟩⟩

end Packets

namespace Requests

def bd : List Byte := (List.range 20).map (BitVec.ofNat 8 ·)
def rt : State := { base [] with router := { rates := [⟨5, 247, 0, 0, 0⟩, ⟨6, 248, 0, 0, 0⟩, ⟨7, 100, 0, 0, 0⟩] } }
def ej (p : Pkt) : State := { base [] with ejq := [qp (pk 0x99 []) 3, qp p 3], mem := [⟨0x1009, 0x11⟩, ⟨0x100B, 0xFF⟩] }
def lz : List QPkt := [qp (pk 0x99 []) 3]
def bb : Pkt := { pk 0x01 bd with addr := 0x10F0 }
def am : Pkt := pk 0x20 ((List.range 16).map fun i => BitVec.ofNat 8 (i + 200))
def mg : Pkt := pk 0x50 (leBytes 0x11 8 ++ (List.range 48).map fun i => BitVec.ofNat 8 (i + 200))

theorem test_meets_RatesMapsAndTimetables :
    (∃ (d : BitVec 18) (s : State), (Sound s)) ∧
    (∃ (clear : Bool) (s : State), (Sound s) ∧ (Answers s)) ∧
    (∃ (v : Fin 2) (s : State), (Sound s) ∧ (Answers s) ∧ (on RTR_TT_CTL_valid (↑v) s = true)) ∧
    (∃ (v : Fin 2) (s : State), (Sound s) ∧ (Answers s) ∧ (on RTR_TT_CTL_valid (↑v) s = false)) ∧
    (∃ (i : Fin 2) (j : Option (Fin 64)) (v : U64) (m : U64) (s : State), (Sound s) ∧ (Answers s) ∧ (↑i = rd RTR_CONTROL_stamp 0 s)) ∧
    (∃ (i : Fin 2) (j : Option (Fin 64)) (v : U64) (m : U64) (s : State), (Sound s) ∧ (Answers s) ∧ (↑i ≠ rd RTR_CONTROL_stamp 0 s) ∧ (∀ (f : Fld), f ∈ (match j with | none => RTR_TT_CTL | some val => RTR_TT_REDIR).flds → rd f ((match j with | none => RTR_TT_CTL | some val => RTR_TT_REDIR).ix (↑i) (match j with | none => 0 | some x => ↑x)) s < 2 ^ f.w)) :=
  ⟨⟨(5#18), rt, by decide +kernel⟩,
   ⟨true, (setPort 4 { shared := [(2, 63), (3, 16384)], resv := [(2, 1)] } rt), by decide +kernel⟩,
   ⟨(0 : Fin 2), (setPort 4 { shared := [(2, 63), (3, 16384)], resv := [(2, 1)] } rt), by decide +kernel⟩,
   ⟨(1 : Fin 2), (setPort 4 { shared := [(2, 63), (3, 16384)], resv := [(2, 1)] } rt), by decide +kernel⟩,
   ⟨(0 : Fin 2), none, (0x1#64), (0xF0#64), rt, by decide +kernel⟩,
   ⟨(1 : Fin 2), none, (0x55555555#64), (0xFFFF0000F0F0F0F1#64), (fl [(RTR_TT_CTL_port_mask, 1, 0x1234)] rt), by decide +kernel⟩⟩

theorem test_meets_RequestsServed :
    (∃ (e : QPkt) (l : List QPkt) (s : State), (Calm s) ∧ (PlainMem s) ∧ (e.pkt.dst = ownCoord s) ∧ (takeFirst (fun x => x.pkt.typ == 1) s.ejq = some (e, l)) ∧ (∀ (c : Nat × Coll), c ∈ s.colls → c.snd.phase = 0) ∧ (oneBlock e.pkt.addr e.pkt.payload.length = true) ∧ (mapped e.pkt.addr e.pkt.payload.length s = true ∧ protOk (fabricClass e s) e.pkt.addr e.pkt.payload.length false true s = true ∧ (true && progLocked e.pkt.addr e.pkt.payload.length s) = false ∧ wpHits 4 e.pkt.addr e.pkt.payload.length false true s = [] ∧ anyDown e.pkt.addr e.pkt.payload.length s = false)) ∧
    (∃ (e : QPkt) (l : List QPkt) (s : State), (Calm s) ∧ (PlainMem s) ∧ (e.pkt.dst = ownCoord s) ∧ (takeFirst (fun x => x.pkt.typ == 1) s.ejq = some (e, l)) ∧ (∀ (c : Nat × Coll), c ∈ s.colls → c.snd.phase = 0) ∧ (mapped e.pkt.addr e.pkt.payload.length s = false ∨ oneBlock e.pkt.addr e.pkt.payload.length = false)) ∧
    (∃ (e : QPkt) (l : List QPkt) (s : State), (Calm s) ∧ (PlainMem s) ∧ (e.pkt.dst = ownCoord s) ∧ (takeFirst (fun x => x.pkt.typ == 64) s.ejq = some (e, l)) ∧ (oneBlock e.pkt.addr e.pkt.payload.length = true) ∧ (mapped e.pkt.addr e.pkt.payload.length s = true ∧ protOk (fabricClass e s) e.pkt.addr e.pkt.payload.length false true s = true ∧ (true && progLocked e.pkt.addr e.pkt.payload.length s) = false ∧ wpHits 4 e.pkt.addr e.pkt.payload.length false true s = [] ∧ anyDown e.pkt.addr e.pkt.payload.length s = false)) ∧
    (∃ (e : QPkt) (l : List QPkt) (s : State) (o : AmoOp), (Calm s) ∧ (PlainMem s) ∧ (e.pkt.dst = ownCoord s) ∧ (takeFirst (fun x => x.pkt.typ == match o with | AmoOp.add => 32 | AmoOp.swap => 33 | AmoOp.maxu => 34) s.ejq = some (e, l)) ∧ (e.pkt.payload.length = 16) ∧ (e.pkt.addr % 8 = 0) ∧ (amoPlace e.pkt.addr s = true) ∧ (mapped e.pkt.addr 8 s = true ∧ protOk (fabricClass e s) e.pkt.addr 8 true true s = true ∧ (true && progLocked e.pkt.addr 8 s) = false ∧ wpHits 4 e.pkt.addr 8 true true s = [] ∧ anyDown e.pkt.addr 8 s = false)) ∧
    (∃ (e : QPkt) (l : List QPkt) (s : State) (k : Nat), (Calm s) ∧ (PlainMem s) ∧ (e.pkt.dst = ownCoord s) ∧ (k ≤ 8) ∧ (takeFirst (fun x => decide (16 ≤ x.pkt.typ ∧ x.pkt.typ ≤ 24)) s.ejq = some (e, l)) ∧ (e.pkt.typ = 16 + k) ∧ (mapped e.pkt.addr (2 ^ k) s = true ∧ protOk (fabricClass e s) e.pkt.addr (2 ^ k) true false s = true ∧ (false && progLocked e.pkt.addr (2 ^ k) s) = false ∧ wpHits 4 e.pkt.addr (2 ^ k) true false s = [] ∧ anyDown e.pkt.addr (2 ^ k) s = false)) ∧
    (∃ (e : QPkt) (l : List QPkt) (s : State), (Calm s) ∧ (takeFirst (fun x => x.pkt.typ == 83) s.ejq = some (e, l)) ∧ (∀ (x : Rate), x ∈ s.router.rates → x.dst ≠ e.pkt.src) ∧ (s.router.rates.length < 512)) ∧
    (∃ (e : QPkt) (l : List QPkt) (s : State), (Calm s) ∧ (takeFirst (fun x => x.pkt.typ == 82) s.ejq = some (e, l))) ∧
    (∃ (e : QPkt) (l : List QPkt) (s : State), (Sound s) ∧ (takeFirst (fun x => x.pkt.typ == 80) s.ejq = some (e, l)) ∧ (recNat e.pkt.payload 0 8 % 16 + 1 ≤ 10) ∧ (8 + 24 * (recNat e.pkt.payload 0 8 % 16 + 1) ≤ e.pkt.payload.length)) :=
  ⟨⟨(qp (pk 0x01 bd) 3), lz, (ej (pk 0x01 bd)), by decide +kernel⟩,
   ⟨(qp bb 3), lz, (ej bb), by decide +kernel⟩,
   ⟨(qp { bb with typ := 0x40, addr := 0x10E0, ca := true } 3), lz, (ej { bb with typ := 0x40, addr := 0x10E0, ca := true }), by decide +kernel⟩,
   ⟨(qp am 3), lz, (ej am), AmoOp.add, by decide +kernel⟩,
   ⟨(qp (pk 0x14 []) 3), lz, (ej (pk 0x14 [])), 4, by decide +kernel⟩,
   ⟨(qp (pk 0x53 bd) 3), lz, (wr CUT_RTIME_rtime 0 777 (ej (pk 0x53 bd))), by decide +kernel⟩,
   ⟨(qp (pk 0x52 [1]) 3), lz, (setPort 4 { shared := [(2, 63), (3, 16384)], resv := [(2, 1)] } { ej (pk 0x52 [1]) with router := { samples := 4, bins := [(3, 4)], marks := [(2, 5)] } }), by decide +kernel⟩,
   ⟨(qp mg 3), lz, (ej mg), by decide +kernel⟩⟩

end Requests

namespace Answers

def rt : State := { base [] with router := { rates := [⟨5, 247, 0, 0, 0⟩, ⟨6, 248, 0, 0, 0⟩, ⟨7, 100, 0, 0, 0⟩] } }
def ans (typ status : Nat) (d : List Byte) : Pkt := { pk typ d with addr := status }
def cmd1 : Cmd := { id := 7, entry := leBytes 0x8 8 ++ List.replicate 0x20 0 ++ leBytes 0x5000 8 ++ List.replicate (128-0x30) 0, phase := 1 }
def an (p : Pkt) (use : Option TagUse) : State := { base [] with ejq := [qp (pk 0x99 []) 3, qp p 3], tags := ([(0x100, some {who := .snap, abandoned := true})] ++ (match use with | none => [] | some w => [(0x123, some w)])), host := { cmds := [cmd1] } }
def lz : List QPkt := [qp (pk 0x99 []) 3]
def shs (p : Pkt) (n ph : Nat) : State := setShunt 99 { phase := ph, remoteOut := 3 } (wr SHN_CH_STATUS_state 99 1 (an p (some {who := .shunt 99 0x1000 n})))
def ack : Pkt := ans 0x83 0 (leBytes 1 8 ++ leBytes 2 8 ++ leBytes 77 8 ++ leBytes 3 8 ++ leBytes 78 8)
def mgs : State := fl [(HST_CQ_BASE_base, 0, 0x1234), (HST_RING_CONTROL_enable, 0, 1), (HST_RING_CONTROL_cq_log2_size, 0, 4)] (an ack (some {who := .mgt 7}))
def wt (s : State) (ch : Nat) : State := { s with shunts := [(ch, { toSend := [(0x1000, [1, 2], false)], remoteOut := 1, phase := 1 })] }
def wc (s : State) (k : Nat) : State := { s with colls := [(k, { wq := [(0, 3, 0x2000, [1, 2])], phase := 2 })] }

theorem test_meets_RatesMapsAndTimetables :
    (∃ (s : State), (Sound s) ∧ (stationClock s = false)) ∧
    (∃ (s : State), (Sound s) ∧ (stationClock s = true)) :=
  ⟨⟨{ rt with phys := { refs := 6 } }, by decide +kernel⟩,
   ⟨(setPort 4 { shared := [(2, 63), (3, 16384)], resv := [(2, 1)] } { rt with router := { rt.router with bins := [(0, 2^32-1), (5, 2^32-1)] } }), by decide +kernel⟩⟩

theorem test_meets_AnswersTaken :
    (∃ (e : QPkt) (l : List QPkt) (s : State), (Calm s) ∧ (e.pkt.ae = false) ∧ (s.tagq = []) ∧ (∀ (x : Nat × Shunt), x ∈ s.shunts → x.snd.toSend = []) ∧ (∀ (x : Nat × Coll), x ∈ s.colls → x.snd.wq = []) ∧ (Option.all (fun w => w.abandoned) (Map.get (fun x => none) s.tags e.pkt.tag) = true) ∧ (takeFirst (fun x => x.pkt.typ == 128) s.ejq = some (e, l))) ∧
    (∃ (e : QPkt) (l : List QPkt) (s : State), (Calm s) ∧ (e.pkt.ae = false) ∧ (s.tagq = []) ∧ (∀ (x : Nat × Shunt), x ∈ s.shunts → x.snd.toSend = []) ∧ (∀ (x : Nat × Coll), x ∈ s.colls → x.snd.wq = []) ∧ (Option.all (fun w => w.abandoned) (Map.get (fun x => none) s.tags e.pkt.tag) = true) ∧ (takeFirst (fun x => x.pkt.typ == 129) s.ejq = some (e, l))) ∧
    (∃ (e : QPkt) (l : List QPkt) (s : State), (Calm s) ∧ (e.pkt.ae = false) ∧ (s.tagq = []) ∧ (∀ (x : Nat × Shunt), x ∈ s.shunts → x.snd.toSend = []) ∧ (∀ (x : Nat × Coll), x ∈ s.colls → x.snd.wq = []) ∧ (Option.all (fun w => w.abandoned) (Map.get (fun x => none) s.tags e.pkt.tag) = true) ∧ (takeFirst (fun x => x.pkt.typ == 130) s.ejq = some (e, l))) ∧
    (∃ (e : QPkt) (l : List QPkt) (s : State), (Calm s) ∧ (e.pkt.ae = false) ∧ (s.tagq = []) ∧ (∀ (x : Nat × Shunt), x ∈ s.shunts → x.snd.toSend = []) ∧ (∀ (x : Nat × Coll), x ∈ s.colls → x.snd.wq = []) ∧ (Option.all (fun w => w.abandoned) (Map.get (fun x => none) s.tags e.pkt.tag) = true) ∧ (takeFirst (fun x => x.pkt.typ == 131) s.ejq = some (e, l))) ∧
    (∃ (e : QPkt) (l : List QPkt) (s : State) (st : Nat) (r : Nat) (t0 : Nat), (Calm s) ∧ (e.pkt.ae = false) ∧ (s.tagq = []) ∧ (∀ (x : Nat × Shunt), x ∈ s.shunts → x.snd.toSend = []) ∧ (∀ (x : Nat × Coll), x ∈ s.colls → x.snd.wq = []) ∧ (takeFirst (fun x => x.pkt.typ == 128) s.ejq = some (e, l)) ∧ (Map.get (fun x => none) s.tags e.pkt.tag = some { who := Requester.cow st r, at_ := t0 }) ∧ (e.pkt.addr % 256 = 0)) ∧
    (∃ (e : QPkt) (l : List QPkt) (s : State) (ch : Nat) (a : Nat) (n : Nat) (t0 : Nat), (Calm s) ∧ (e.pkt.ae = false) ∧ (s.tagq = []) ∧ (∀ (x : Nat × Shunt), x ∈ s.shunts → x.snd.toSend = []) ∧ (∀ (x : Nat × Coll), x ∈ s.colls → x.snd.wq = []) ∧ (takeFirst (fun x => x.pkt.typ == 128) s.ejq = some (e, l)) ∧ (Map.get (fun x => none) s.tags e.pkt.tag = some { who := Requester.shunt ch a n, at_ := t0 }) ∧ (n ≠ 0) ∧ (ch < 128) ∧ (e.pkt.addr % 256 = 0)) ∧
    (∃ (e : QPkt) (l : List QPkt) (s : State) (ch : Nat) (a : Nat) (t0 : Nat), (Calm s) ∧ (e.pkt.ae = false) ∧ (s.tagq = []) ∧ (∀ (x : Nat × Shunt), x ∈ s.shunts → x.snd.toSend = []) ∧ (∀ (x : Nat × Coll), x ∈ s.colls → x.snd.wq = []) ∧ (takeFirst (fun x => x.pkt.typ == 129) s.ejq = some (e, l)) ∧ (Map.get (fun x => none) s.tags e.pkt.tag = some { who := Requester.shunt ch a 0, at_ := t0 }) ∧ (ch < 128) ∧ ((shunt ch s).phase = 2) ∧ (e.pkt.addr % 256 = 0)) ∧
    (∃ (e : QPkt) (l : List QPkt) (s : State) (id : Nat) (c : Cmd) (t0 : Nat), (Calm s) ∧ (e.pkt.ae = false) ∧ (s.tagq = []) ∧ (∀ (x : Nat × Shunt), x ∈ s.shunts → x.snd.toSend = []) ∧ (∀ (x : Nat × Coll), x ∈ s.colls → x.snd.wq = []) ∧ (takeFirst (fun x => x.pkt.typ == 131) s.ejq = some (e, l)) ∧ (Map.get (fun x => none) s.tags e.pkt.tag = some { who := Requester.mgt id, at_ := t0 }) ∧ (cmdOf id s = some c) ∧ (CanEnd c s) ∧ (PlainMem s) ∧ (mapped (c.fld 40 0 48) e.pkt.payload.length s = true) ∧ (anyDown (c.fld 40 0 48) e.pkt.payload.length s = false)) ∧
    (∃ (e : QPkt) (l : List QPkt) (s : State) (k : Nat) (st : Nat) (x : Nat) (t0 : Nat), (Calm s) ∧ (e.pkt.ae = false) ∧ (s.tagq = []) ∧ (∀ (x : Nat × Shunt), x ∈ s.shunts → x.snd.toSend = []) ∧ (∀ (x : Nat × Coll), x ∈ s.colls → x.snd.wq = []) ∧ (takeFirst (fun x => x.pkt.typ == 130) s.ejq = some (e, l)) ∧ (Map.get (fun x => none) s.tags e.pkt.tag = some { who := Requester.mirror k st x, at_ := t0 }) ∧ ((station st s).mirq = []) ∧ (e.pkt.addr % 256 = 0)) ∧
    (∃ (e : QPkt) (l : List QPkt) (s : State) (j : BitVec 12) (w : Requester) (t0 : Nat), (Calm s) ∧ (e.pkt.ae = false) ∧ (s.tagq = []) ∧ (∀ (x : Nat × Shunt), x ∈ s.shunts → x.snd.toSend = []) ∧ (∀ (x : Nat × Coll), x ∈ s.colls → x.snd.wq = []) ∧ (Map.get (fun x => none) s.tags j.toNat = some { who := w, at_ := t0, abandoned := true })) ∧
    (∃ (e : QPkt) (l : List QPkt) (s : State) (j : BitVec 12), (Calm s) ∧ (e.pkt.ae = false) ∧ (s.tagq = []) ∧ (∀ (x : Nat × Shunt), x ∈ s.shunts → x.snd.toSend = []) ∧ (∀ (x : Nat × Coll), x ∈ s.colls → x.snd.wq = []) ∧ (Option.all (fun w => !w.abandoned) (Map.get (fun x => none) s.tags j.toNat) = true)) ∧
    (∃ (j : BitVec 12) (w : TagUse) (s : State) (ch : Nat) (x : Shunt) (a : Nat) (d : List Byte) (bad : Bool), (Calm s) ∧ (s.tagq = []) ∧ (Map.get (fun x => none) s.tags j.toNat = some w) ∧ (w.abandoned = true) ∧ (s.shunts = [(ch, x)]) ∧ (x.toSend = [(a, d, bad)]) ∧ (∀ (y : Nat × Coll), y ∈ s.colls → y.snd.wq = [])) ∧
    (∃ (j : BitVec 12) (w : TagUse) (s : State) (k : Nat) (x : Coll) (b : Nat) (m : Nat) (a : Nat) (d : List Byte), (Calm s) ∧ (s.tagq = []) ∧ (Map.get (fun x => none) s.tags j.toNat = some w) ∧ (w.abandoned = true) ∧ (PlainMem s) ∧ (s.colls = [(k, x)]) ∧ (x.wq = [(b, m, a, d)]) ∧ (x.phase ≠ 5) ∧ (∀ (y : Nat × Shunt), y ∈ s.shunts → y.snd.toSend = [])) :=
  ⟨⟨(qp (ans 0x80 0 []) 3), lz, (an (ans 0x80 0 []) none), by decide +kernel⟩,
   ⟨(qp (ans 0x81 0 []) 3), lz, (an (ans 0x81 0 []) (some {who := .snap, abandoned := true})), by decide +kernel⟩,
   ⟨(qp (ans 0x82 0 []) 3), lz, (an (ans 0x82 0 []) none), by decide +kernel⟩,
   ⟨(qp (ans 0x83 0 []) 3), lz, (an (ans 0x83 0 []) none), by decide +kernel⟩,
   ⟨(qp (ans 0x80 0x100 []) 3), lz, (an (ans 0x80 0x100 []) (some {who := .cow 5 2, at_ := 6})), 5, 2, 6, by decide +kernel⟩,
   ⟨(qp (ans 0x80 0x100 []) 3), lz, (shs (ans 0x80 0x100 []) 64 1), 99, 0x1000, 64, 0, by decide +kernel⟩,
   ⟨(qp (ans 0x81 0x100 [1,2]) 3), lz, (shs (ans 0x81 0x100 [1,2]) 0 2), 99, 0x1000, 0, by decide +kernel⟩,
   ⟨(qp ack 3), lz, mgs, 7, cmd1, 0, by decide +kernel⟩,
   ⟨(qp (ans 0x82 0x100 []) 3), lz, (setStation 5 { mirOut := 3 } (an (ans 0x82 0x100 []) (some {who := .mirror 2 5 0x1000, at_ := 4}))), 2, 5, 0x1000, 4, by decide +kernel⟩,
   ⟨(qp (ans 0x80 0 []) 3), lz, (an (ans 0x80 0 []) none), (0x100#12), .snap, 0, by decide +kernel⟩,
   ⟨(qp (ans 0x82 0 []) 3), lz, (an (ans 0x82 0 []) none), (0x124#12), by decide +kernel⟩,
   ⟨0x100#12, {who := .snap, abandoned := true}, (wt (an (ans 0x82 0 []) none) 99), 99, { toSend := [(0x1000, [1, 2], false)], remoteOut := 1, phase := 1 }, 0x1000, [1, 2], false, by decide +kernel⟩,
   ⟨0x100#12, {who := .snap, abandoned := true}, (wc (an (ans 0x82 0 []) none) 9), 9, { wq := [(0, 3, 0x2000, [1, 2])], phase := 2 }, 0, 3, 0x2000, [1, 2], by decide +kernel⟩⟩

end Answers

namespace Collect

def flv : Nat := 4 * 2^24 + 400
def gd : List Byte := gdesc 9 0 true 2 0 300 1 1
def ccmd : Cmd := { id := 4, entry := leBytes 4 8 ++ List.replicate 16 0 ++ leBytes 0x9000 8 ++ List.replicate (128-32) 0 }
def cs (d : List Byte) : State := { withC (base []) with host := { cmds := [{ id := 3, entry := leBytes 4 8, phase := 1 }, ccmd] }, mem := memOf [(0x9000, d), (0x10000, if gRank d = 0 then table else table.drop 4 ++ table), (0x20000, [3,4,5]), (0x20048+72, [0x11, 0x22, 0xFF]), (0x30000, leBytes flv 8 ++ leBytes flv 8), (0x40000, [1,2,3]), (0x41000, [4])] }
def gd3 : List Byte := gdesc 9 3 true 2 1 2 1 1
def k9 : Fin 512 := 9
def run1 (d : List Byte) (x : Coll) : State := setColl 9 { x with desc := d } (cs d)

theorem test_meets_CollectivesStartAndSend :
    (∃ (q : CmdSel) (c : Cmd) (d : List Byte) (b : Option Nat) (s : State), (Calm s) ∧ (PlainMem s) ∧ (frontCmd q 4 s = some c) ∧ (oneDescOk c 128 = true) ∧ (sidingRing c.ring s = false) ∧ (bindTile c s = some b) ∧ (smRead (la (collSet c) c.a18 s) 128 s = (0, d, s)) ∧ (collCheck (gCid d + collSet c) d s = (0, s)) ∧ ((coll (gCid d + collSet c) s).phase = 0) ∧ (∀ (n : Nat), n < 28 → rd MST_STATUS_dev_fail n s = 0) ∧ (smTracing (c.ring % 4) s = false)) ∧
    (∃ (k : Fin 512) (s : State), (Calm s) ∧ ((coll (k.val) s).phase = 1) ∧ (s.heldq = [])) ∧
    (∃ (k : Fin 512) (s : State), (Calm s) ∧ (PlainMem s) ∧ (s.cut.restored = false) ∧ ((coll (k.val) s).phase = 2) ∧ (gKind (coll (k.val) s).desc < 2) ∧ ((coll (k.val) s).next < gN (coll (k.val) s).desc) ∧ ((coll (k.val) s).next / 256 / gP (coll (k.val) s).desc ≠ gRank (coll (k.val) s).desc)) ∧
    (∃ (k : Fin 512) (s : State), (Calm s) ∧ (PlainMem s) ∧ (s.cut.restored = false) ∧ ((coll (k.val) s).phase ≠ 2) ∧ ((coll (k.val) s).phase ≠ 3)) ∧
    (∃ (k : Fin 512) (s : State), (Calm s) ∧ (PlainMem s) ∧ (s.cut.restored = false) ∧ ((coll (k.val) s).phase = 2) ∧ (gKind (coll (k.val) s).desc = 3) ∧ ((coll (k.val) s).next = 0) ∧ (gRank (coll (k.val) s).desc ≠ 0) ∧ ((coll (k.val) s).wq = []) ∧ ((freeTag s).isSome = true)) :=
  ⟨⟨ring0, ccmd, gd, none, (cs gd), by decide +kernel⟩,
   ⟨k9, (run1 gd { phase := 1 }), by decide +kernel⟩,
   ⟨k9, (run1 gd { phase := 2, next := 256 }), by decide +kernel⟩,
   ⟨k9, (run1 gd { phase := 1, next := 256 }), by decide +kernel⟩,
   ⟨k9, (run1 gd3 { phase := 2, next := 0 }), by decide +kernel⟩⟩

end Collect

namespace Contribute

def flv : Nat := 4 * 2^24 + 400
def gd : List Byte := gdesc 9 0 true 2 0 300 1 1
def ccmd : Cmd := { id := 4, entry := leBytes 4 8 ++ List.replicate 16 0 ++ leBytes 0x9000 8 ++ List.replicate (128-32) 0, phase := 1 }
def cs (d : List Byte) (x : Coll) : State := setColl 9 { x with desc := d } { withC (base []) with host := { cmds := [{ id := 3, entry := leBytes 4 8, phase := 1 }, ccmd] }, mem := memOf [(0x9000, d), (0x10000, if gRank d = 0 then table else table.drop 4 ++ table), (0x30000, leBytes flv 8 ++ leBytes flv 8), (0x40000, [1,2,3]), (0x40000+72, [0xFF]), (0x41000, [4])] }
def accp (w : Bool) (h : Nat) (body : List Byte) (addr : Nat) (ep : Bool) (round : Nat) : Pkt := { pk (if w then 0x31 else 0x30) (leBytes h 8 ++ body) with addr := addr, tag := 9 + round * 256 + (if ep then 1024 else 0) }
def lz : List QPkt := [qp (pk 0x99 []) 3]
def st (p : Pkt) (d : List Byte) (x : Coll) : State := { cs d x with ejq := [qp (pk 0x99 []) 3, qp p 3] }
def w32 : Pkt := accp false (1 + 400 * 2^11) (leBytes 5 4 ++ leBytes 0xFFFFFFFF 4) 0x40000 true 0
def its : List (Int × Byte) := (accItems false w32.payload).getD []
def rp : Pkt := accp false (1 + 3 * 2^8) (leBytes 5 8 ++ leBytes 6 8) 0x80000 true 0
def big : HeldPkt := ⟨qp (pk 1 (List.replicate 256 1)) 3, 100⟩
def k9 : Fin 512 := 9
def gd2 : List Byte := gdesc 9 2 true 3 0 256 1 1
abbrev Came (w : Bool) (e : QPkt) (l : List QPkt) (s : State) : Prop :=
  Calm s ∧ PlainMem s ∧ takeFirst (fun x => x.pkt.typ == if w = true then 49 else 48) s.ejq = some (e, l) ∧ e.pkt.dst = ownCoord s
def gdOf (e : QPkt) (s : State) : List Byte := (coll (e.pkt.tag % 256) s).desc
abbrev Live (e : QPkt) (s : State) : Prop := (coll (e.pkt.tag % 256) s).phase ≥ 2 ∧ gEpoch (gdOf e s) = bit e.pkt.tag 10
abbrev Elements (w : Bool) (e : QPkt) (items : List (Int × Byte)) (j : Nat) (s : State) : Prop :=
  gKind (gdOf e s) < 2 ∧ (w = true ∨ bits (recNat e.pkt.payload 0 8) 8 2 ≠ 3) ∧ accItems w e.pkt.payload = some items ∧ locate (gdOf e s) e.pkt.addr = some j
def i0Of (e : QPkt) (j : Nat) (s : State) : Nat := 256 * (j / 256) - 256 * gP (gdOf e s) * gRank (gdOf e s)
def iOf (e : QPkt) (j : Nat) (s : State) : Nat := j - 256 * gP (gdOf e s) * gRank (gdOf e s)
def entOf (e : QPkt) (j : Nat) (s : State) : FloorEnt := floorEnt (e.pkt.tag % 256) (gdOf e s) (j / 256) s
abbrev Fits (e : QPkt) (items : List (Int × Byte)) (j : Nat) (s : State) : Prop :=
  bits e.pkt.tag 8 2 = zget (coll (e.pkt.tag % 256) s).rounds (j / 256) ∧ bits (recNat e.pkt.payload 0 8) 11 10 = (entOf e j s).floor
    ∧ j + items.length ≤ 256 * (j / 256) + gNb (gdOf e s) (j / 256)
def sumOf (w : Bool) (e : QPkt) (items : List (Int × Byte)) (j m : Nat) (s : State) : Int × Byte := sumAfter (gdOf e s) w items (iOf e j s) (i0Of e j s + m) s
def sums (w : Bool) (e : QPkt) (items : List (Int × Byte)) (j : Nat) (s : State) : List (Int × Byte) :=
  (List.range (gNb (gdOf e s) (j / 256))).map fun m =>
    ((sumOf w e items j m s).1, if outOfWindow (entOf e j s) (sumOf w e items j m s).1 then (sumOf w e items j m s).2 ||| tWov else (sumOf w e items j m s).2)
def els (w : Bool) (e : QPkt) (items : List (Int × Byte)) (j : Nat) (s : State) : List OutEl :=
  (List.range (gNb (gdOf e s) (j / 256))).map fun m =>
    let y := (sums w e items j s).getD m (0, 0#8)
    outEl (gConv (gdOf e s)) 0 (if ctlRM (gConv (gdOf e s)) == .sr then rng32 (gSeed (gdOf e s)) (gTensor (gdOf e s)) (256 * (j / 256) + m) 1 else 0) 0 0 64 0 y.1
      (if outOfWindow (entOf e j s) y.1 then y.2 ||| tOvf else y.2)
def odd : Pkt := { rp with addr := 0x80004 }
def whole : Pkt := accp true 400 [1, 2, 3] 0x40000 true 0
def late : Pkt := accp false (1 + 400 * 2^11) (leBytes 5 4 ++ leBytes 0xFFFFFFFF 4) 0x40000 true 1
def off : Pkt := accp false (1 + 401 * 2^11) (leBytes 5 4 ++ leBytes 0xFFFFFFFF 4) 0x40000 true 0
def ent0 : FloorEnt := floorEnt 9 gd 0 (cs gd {})
def gd4 : List Byte := gdesc 9 0 true 2 0 4 1 1
def full (l : List (Nat × List Byte)) : State := let s := st w32 gd4 { phase := 2, counts := [(0, 6)], ents := [(0, some ent0)] }; { s with mem := memOf ([(0x9000, gd4), (0x10000, table), (0x30000, leBytes flv 8 ++ leBytes flv 8)] ++ l) }
def ce (d : List Byte) (x : Coll) : State := cs d { x with phase := 2, cmd := some 4 }
def gdr (kind : Nat) : List Byte := let d := gdesc 9 kind true 2 0 300 1 1; d.take 0x68 ++ List.replicate 8 0 ++ d.drop 0x70
def gdw : List Byte := let d := gdesc 9 0 true 2 0 300 1 1; d.take 0x68 ++ leBytes 0x12340 8 ++ d.drop 0x70
def gv : List Byte := gdesc 9 3 true 2 0 2 1 1

theorem test_meets_ContributionsAccumulate :
    (∃ (w : Bool) (e : QPkt) (l : List QPkt) (s : State), (Came w e l s) ∧ (¬(Live e s)) ∧ (heldBytes s + 16 * pktCells e.pkt.payload.length ≤ 2 ^ 18)) ∧
    (∃ (w : Bool) (e : QPkt) (l : List QPkt) (s : State), (Came w e l s) ∧ (¬(Live e s)) ∧ (heldBytes s + 16 * pktCells e.pkt.payload.length > 2 ^ 18)) ∧
    (∃ (w : Bool) (e : QPkt) (l : List QPkt) (s : State), (Came w e l s) ∧ (Live e s) ∧ (w = false) ∧ (bits (recNat e.pkt.payload 0 8) 8 2 = 3) ∧ (bits (recNat e.pkt.payload 0 8) 0 8 + 1 ≤ 31) ∧ (e.pkt.payload.length = 8 + 8 * (bits (recNat e.pkt.payload 0 8) 0 8 + 1)) ∧ (gReport (gdOf e s) ≤ e.pkt.addr) ∧ ((e.pkt.addr - gReport (gdOf e s)) % 8 = 0) ∧ ((e.pkt.addr - gReport (gdOf e s)) / 8 + (bits (recNat e.pkt.payload 0 8) 0 8 + 1) ≤ gSlots (gdOf e s))) ∧
    (∃ (w : Bool) (e : QPkt) (l : List QPkt) (s : State), (Came w e l s) ∧ (Live e s) ∧ (w = false) ∧ (bits (recNat e.pkt.payload 0 8) 8 2 = 3) ∧ (bits (recNat e.pkt.payload 0 8) 0 8 + 1 > 31 ∨ e.pkt.payload.length ≠ 8 + 8 * (bits (recNat e.pkt.payload 0 8) 0 8 + 1) ∨ e.pkt.addr < gReport (gdOf e s) ∨ (e.pkt.addr - gReport (gdOf e s)) % 8 ≠ 0 ∨ (e.pkt.addr - gReport (gdOf e s)) / 8 + (bits (recNat e.pkt.payload 0 8) 0 8 + 1) > gSlots (gdOf e s))) ∧
    (∃ (w : Bool) (e : QPkt) (l : List QPkt) (s : State), (Came w e l s) ∧ (Live e s) ∧ (w = true ∨ bits (recNat e.pkt.payload 0 8) 8 2 ≠ 3) ∧ (accItems w e.pkt.payload = none ∨ gKind (gdOf e s) ≥ 2 ∨ locate (gdOf e s) e.pkt.addr = none)) ∧
    (∃ (w : Bool) (e : QPkt) (l : List QPkt) (s : State) (items : List (Int × Byte)) (j : Nat), (Came w e l s) ∧ (Live e s) ∧ (Elements w e items j s) ∧ (bits e.pkt.tag 8 2 < zget (coll (e.pkt.tag % 256) s).rounds (j / 256))) ∧
    (∃ (w : Bool) (e : QPkt) (l : List QPkt) (s : State) (items : List (Int × Byte)) (j : Nat), (Came w e l s) ∧ (Live e s) ∧ (Elements w e items j s) ∧ (bits e.pkt.tag 8 2 > zget (coll (e.pkt.tag % 256) s).rounds (j / 256))) ∧
    (∃ (w : Bool) (e : QPkt) (l : List QPkt) (s : State) (items : List (Int × Byte)) (j : Nat), (Came w e l s) ∧ (Live e s) ∧ (Elements w e items j s) ∧ (bits e.pkt.tag 8 2 = zget (coll (e.pkt.tag % 256) s).rounds (j / 256)) ∧ (bits (recNat e.pkt.payload 0 8) 11 10 ≠ (entOf e j s).floor ∨ j + items.length > 256 * (j / 256) + gNb (gdOf e s) (j / 256))) ∧
    (∃ (w : Bool) (e : QPkt) (l : List QPkt) (s : State) (items : List (Int × Byte)) (j : Nat), (Came w e l s) ∧ (Live e s) ∧ (Elements w e items j s) ∧ (Fits e items j s) ∧ (¬((∀ (i : Nat), i < items.length → protOk 3 (accWord (gdOf e s) (iOf e j s + i)) 72 true true s = true) ∧ protOk 3 (accTag (gdOf e s) (iOf e j s)) items.length true true s = true)) ∧ (zget (coll (e.pkt.tag % 256) s).counts (j / 256) + items.length ≠ gM (gdOf e s) * gNb (gdOf e s) (j / 256)) ∧ (SumsOpen (gdOf e s) (iOf e j s) items.length s)) ∧
    (∃ (w : Bool) (e : QPkt) (l : List QPkt) (s : State) (items : List (Int × Byte)) (j : Nat), (Came w e l s) ∧ (Live e s) ∧ (Elements w e items j s) ∧ (Fits e items j s) ∧ (∀ (k : Nat), k < 32 → rd DBG_WP_BASE_valid k s = 0) ∧ (∀ (i : Nat), i < items.length → protOk 3 (accWord (gdOf e s) (iOf e j s + i)) 72 true true s = true) ∧ (protOk 3 (accTag (gdOf e s) (iOf e j s)) items.length true true s = true) ∧ (zget (coll (e.pkt.tag % 256) s).counts (j / 256) + items.length ≠ gM (gdOf e s) * gNb (gdOf e s) (j / 256)) ∧ (SumsOpen (gdOf e s) (iOf e j s) items.length s)) ∧
    (∃ (w : Bool) (e : QPkt) (l : List QPkt) (s : State) (items : List (Int × Byte)) (j : Nat), (Came w e l s) ∧ (Live e s) ∧ (Elements w e items j s) ∧ (Fits e items j s) ∧ (∀ (k : Nat), k < 32 → rd DBG_WP_BASE_valid k s = 0) ∧ (∀ (i : Nat), i < items.length → protOk 3 (accWord (gdOf e s) (iOf e j s + i)) 72 true true s = true) ∧ (protOk 3 (accTag (gdOf e s) (iOf e j s)) items.length true true s = true) ∧ (zget (coll (e.pkt.tag % 256) s).counts (j / 256) + items.length = gM (gdOf e s) * gNb (gdOf e s) (j / 256)) ∧ (SumsOpen (gdOf e s) (i0Of e j s) (gNb (gdOf e s) (j / 256)) s) ∧ (gRank (gdOf e s) < gM (gdOf e s)) ∧ (Map.get (fun x => none) (coll (e.pkt.tag % 256) s).ents (j / 256) = some (entOf e j s)) ∧ (((sums w e items j s).any fun y => outOfWindow (entOf e j s) y.fst) = true) ∧ (bits e.pkt.tag 8 2 < 3)) ∧
    (∃ (w : Bool) (e : QPkt) (l : List QPkt) (s : State) (items : List (Int × Byte)) (j : Nat), (Came w e l s) ∧ (Live e s) ∧ (Elements w e items j s) ∧ (Fits e items j s) ∧ (∀ (k : Nat), k < 32 → rd DBG_WP_BASE_valid k s = 0) ∧ (∀ (i : Nat), i < items.length → protOk 3 (accWord (gdOf e s) (iOf e j s + i)) 72 true true s = true) ∧ (protOk 3 (accTag (gdOf e s) (iOf e j s)) items.length true true s = true) ∧ (zget (coll (e.pkt.tag % 256) s).counts (j / 256) + items.length = gM (gdOf e s) * gNb (gdOf e s) (j / 256)) ∧ (SumsOpen (gdOf e s) (i0Of e j s) (gNb (gdOf e s) (j / 256)) s) ∧ (gRank (gdOf e s) < gM (gdOf e s)) ∧ (Map.get (fun x => none) (coll (e.pkt.tag % 256) s).ents (j / 256) = some (entOf e j s)) ∧ (((sums w e items j s).any fun y => outOfWindow (entOf e j s) y.fst) = false ∨ bits e.pkt.tag 8 2 = 3) ∧ (gKind (gdOf e s) = 0) ∧ (ctlCensus (gConv (gdOf e s)) = false) ∧ (ctlTscale (gConv (gdOf e s)) = false) ∧ ((coll (e.pkt.tag % 256) s).wq = []) ∧ ((coll (e.pkt.tag % 256) s).outst = []) ∧ (∀ (p : Nat × List Byte), p ∈ resultParts (gdOf e s) (256 * (j / 256)) (List.map (fun x => x.enc) (els w e items j s)) (List.map (fun x => x.tag) (els w e items j s)) → mapped p.fst p.snd.length s = true ∧ anyDown p.fst p.snd.length s = false)) ∧
    (∃ (s : State), (Sound s)) :=
  ⟨⟨false, (qp w32 3), lz, (st w32 gd { phase := 1 }), by decide +kernel⟩,
   ⟨false, (qp w32 3), lz, ({ st w32 gd { phase := 1 } with heldq := List.replicate 1000 big }), by decide +kernel⟩,
   ⟨false, (qp rp 3), lz, (st rp gd { phase := 2 }), by decide +kernel⟩,
   ⟨false, (qp odd 3), lz, (st odd gd { phase := 2 }), by decide +kernel⟩,
   ⟨true, (qp whole 3), lz, (st whole gd { phase := 2 }), by decide +kernel⟩,
   ⟨false, (qp w32 3), lz, (st w32 gd { phase := 2, rounds := [(0, 1)] }), its, 0, by decide +kernel⟩,
   ⟨false, (qp late 3), lz, (st late gd { phase := 2 }), its, 0, by decide +kernel⟩,
   ⟨false, (qp off 3), lz, (st off gd { phase := 2 }), (accItems false off.payload).getD [], 0, by decide +kernel⟩,
   ⟨false, (qp w32 3), lz, (wr MST_PROT_LO_wr_mask 0 (63 - 8) (st w32 gd { phase := 2 })), its, 0, by decide +kernel, by decide +kernel, by decide +kernel, by decide +kernel, by decide +kernel⟩,
   ⟨false, (qp w32 3), lz, (st w32 gd { phase := 2 }), its, 0, by decide +kernel, by decide +kernel, by decide +kernel, by decide +kernel, by decide +kernel⟩,
   ⟨false, (qp w32 3), lz, (full [(0x40000, List.replicate 71 0 ++ [0x40])]), its, 0, by decide +kernel, by decide +kernel, by decide +kernel, by decide +kernel, by decide +kernel⟩,
   ⟨false, (qp w32 3), lz, (full []), its, 0, by decide +kernel, by decide +kernel, by decide +kernel, by decide +kernel, by decide +kernel⟩,
   ⟨(wr CUT_RTIME_rtime 0 1000101 { st w32 gd { phase := 1 } with heldq := [big, big, { big with at_ := 101}] }), by decide +kernel⟩⟩

theorem test_meets_CollectivesEnd :
    (∃ (k : Fin 512) (s : State) (slot : Nat) (rep : Nat) (o : Bool) (l : List (Nat × Nat × Bool)), (Calm s) ∧ (PlainMem s) ∧ (s.cut.restored = false) ∧ ((coll (↑k) s).reports = (slot, rep, o) :: l) ∧ ((coll (↑k) s).phase ≥ 2) ∧ (gKind (coll (↑k) s).desc = 2) ∧ (rep.testBit 22 = true) ∧ (Map.get (fun x => false) (coll (↑k) s).fins slot = false) ∧ ((coll (↑k) s).finals + 1 ≠ gM (coll (↑k) s).desc) ∧ (SlotOpen (gReport (coll (↑k) s).desc + 8 * slot) o s) ∧ (↑k < 256) ∧ (mapped (gReport (coll (↑k) s).desc + 8 * slot) 8 s = true) ∧ (anyDown (gReport (coll (↑k) s).desc + 8 * slot) 8 s = false)) ∧
    (∃ (k : Fin 512) (s : State) (slot : Nat) (rep : Nat) (o : Bool) (l : List (Nat × Nat × Bool)), (Calm s) ∧ (PlainMem s) ∧ (s.cut.restored = false) ∧ ((coll (↑k) s).reports = (slot, rep, o) :: l) ∧ ((coll (↑k) s).phase ≥ 2) ∧ (gKind (coll (↑k) s).desc < 2) ∧ (rep.testBit 21 = true) ∧ (Map.get (fun x => false) (coll (↑k) s).fins slot = false) ∧ ((coll (↑k) s).finals + 1 ≠ gB (coll (↑k) s).desc)) ∧
    (∃ (k : Fin 512) (s : State) (slot : Nat) (rep : Nat) (o : Bool) (l : List (Nat × Nat × Bool)) (c : Cmd), (Calm s) ∧ (PlainMem s) ∧ (s.cut.restored = false) ∧ ((coll (↑k) s).reports = (slot, rep, o) :: l) ∧ ((coll (↑k) s).phase = 2 ∨ (coll (↑k) s).phase = 3) ∧ (CollEnds (↑k) c s) ∧ ((coll (↑k) s).code ≤ 4) ∧ (Map.get (fun x => false) (coll (↑k) s).fins slot = false) ∧ (SlotOpen (gReport (coll (↑k) s).desc + 8 * slot) o s) ∧ (gKind (coll (↑k) s).desc = 2) ∧ (rep.testBit 22 = true) ∧ ((coll (↑k) s).finals + 1 = gM (coll (↑k) s).desc)) ∧
    (∃ (k : Fin 512) (s : State) (slot : Nat) (rep : Nat) (o : Bool) (l : List (Nat × Nat × Bool)) (c : Cmd), (Calm s) ∧ (PlainMem s) ∧ (s.cut.restored = false) ∧ ((coll (↑k) s).reports = (slot, rep, o) :: l) ∧ ((coll (↑k) s).phase = 2 ∨ (coll (↑k) s).phase = 3) ∧ (CollEnds (↑k) c s) ∧ ((coll (↑k) s).code ≤ 4) ∧ (Map.get (fun x => false) (coll (↑k) s).fins slot = false) ∧ (SlotOpen (gReport (coll (↑k) s).desc + 8 * slot) o s) ∧ (gKind (coll (↑k) s).desc < 2) ∧ (ctlTscale (gConv (coll (↑k) s).desc) = false) ∧ (rep.testBit 21 = true) ∧ ((coll (↑k) s).finals + 1 = gB (coll (↑k) s).desc) ∧ (protOk 0 (gFloors (coll (↑k) s).desc + 8 * slot) 8 true true s = true) ∧ (anyDown (gFloors (coll (↑k) s).desc + 8 * slot) 8 s = false)) ∧
    (∃ (k : Fin 512) (s : State) (slot : Nat) (rep : Nat) (o : Bool) (l : List (Nat × Nat × Bool)) (c : Cmd), (Calm s) ∧ (PlainMem s) ∧ (s.cut.restored = false) ∧ ((coll (↑k) s).reports = (slot, rep, o) :: l) ∧ ((coll (↑k) s).phase = 2 ∨ (coll (↑k) s).phase = 3) ∧ (CollEnds (↑k) c s) ∧ ((coll (↑k) s).code ≤ 4) ∧ (Map.get (fun x => false) (coll (↑k) s).fins slot = false) ∧ (SlotOpen (gReport (coll (↑k) s).desc + 8 * slot) o s) ∧ (gKind (coll (↑k) s).desc < 2) ∧ (rep.testBit 21 = false) ∧ (gReplay (coll (↑k) s).desc = 0) ∧ ((coll (↑k) s).finals ≠ gB (coll (↑k) s).desc) ∧ (protOk 0 (gFloors (coll (↑k) s).desc + 8 * slot) 8 true true s = true) ∧ (anyDown (gFloors (coll (↑k) s).desc + 8 * slot) 8 s = false)) ∧
    (∃ (k : Fin 512) (s : State) (slot : Nat) (rep : Nat) (l : List (Nat × Nat × Bool)) (c : Cmd), (Calm s) ∧ (PlainMem s) ∧ (s.cut.restored = false) ∧ ((coll (↑k) s).reports = (slot, rep, true) :: l) ∧ ((coll (↑k) s).phase = 2) ∧ (CollEnds (↑k) c s) ∧ ((coll (↑k) s).code ≤ 4) ∧ (Map.get (fun x => false) (coll (↑k) s).fins slot = false) ∧ (gKind (coll (↑k) s).desc = 2) ∧ (rep.testBit 22 = true) ∧ ((coll (↑k) s).finals + 1 = gM (coll (↑k) s).desc) ∧ (mapped (gReport (coll (↑k) s).desc + 8 * slot) 8 s = true) ∧ (protOk 3 (gReport (coll (↑k) s).desc + 8 * slot) 8 false true s = false)) ∧
    (∃ (k : Fin 512) (s : State) (slot : Nat) (rep : Nat) (o : Bool) (l : List (Nat × Nat × Bool)), (Calm s) ∧ (PlainMem s) ∧ (s.cut.restored = false) ∧ ((coll (↑k) s).reports = (slot, rep, o) :: l) ∧ ((coll (↑k) s).phase ≥ 2) ∧ (gKind (coll (↑k) s).desc = 3) ∧ (rep.testBit 21 = true) ∧ ((coll (↑k) s).wq = []) ∧ ((coll (↑k) s).due = [])) ∧
    (∃ (k : Fin 512) (s : State) (slot : Nat) (rep : Nat) (o : Bool) (l : List (Nat × Nat × Bool)), (Calm s) ∧ (PlainMem s) ∧ (s.cut.restored = false) ∧ ((coll (↑k) s).reports = (slot, rep, o) :: l) ∧ ((coll (↑k) s).phase ≥ 2) ∧ (gKind (coll (↑k) s).desc < 2) ∧ (rep.testBit 21 = false) ∧ (gReplay (coll (↑k) s).desc ≠ 0)) ∧
    (∃ (k : Fin 512) (s : State), (Calm s) ∧ (PlainMem s) ∧ (s.cut.restored = false) ∧ ((coll (↑k) s).ended = some 0) ∧ ((coll (↑k) s).rbusy = true) ∧ ((coll (↑k) s).rlist.length ≤ (coll (↑k) s).rrun.length)) ∧
    (∃ (k : Fin 512) (s : State), (Calm s) ∧ (PlainMem s) ∧ (s.cut.restored = false) ∧ ((coll (↑k) s).ended = none)) ∧
    (∃ (k : Fin 512) (s : State), (Calm s) ∧ (PlainMem s) ∧ (s.cut.restored = false) ∧ ((coll (↑k) s).phase = 0 ∨ gTimeout (coll (↑k) s).desc = 0)) ∧
    (∃ (k : Fin 512) (s : State) (c : Cmd), (Calm s) ∧ (PlainMem s) ∧ (s.cut.restored = false) ∧ ((coll (↑k) s).phase ≠ 0) ∧ (gTimeout (coll (↑k) s).desc ≠ 0) ∧ (CollEnds (↑k) c s)) :=
  ⟨⟨k9, (cs gd2 { phase := 2, reports := [(1, 2^22+2^21, true), (2,5, false)] }), 1, (2^22 + 2^21), true, [(2,5, false)], by decide +kernel⟩,
   ⟨k9, (cs gd { phase := 2, reports := [(1, 2^21+2^18 + 0x1203, true), (2,5, true)] }), 1, (2^21 + 2^18 + 0x1203), true, [(2,5, true)], by decide +kernel⟩,
   ⟨k9, (ce gd2 { reports := [(1, 2^22, true), (2, 5, false)], finals := 2 }), 1, 2^22, true, [(2, 5, false)], ccmd, by decide +kernel, by decide +kernel, by decide +kernel, by decide +kernel, by decide +kernel, ⟨by decide +kernel, ⟨4, by decide +kernel⟩, by decide +kernel⟩, by decide +kernel⟩,
   ⟨k9, (ce gd { reports := [(1, 2^21 + 2^18 + 0x1203, false), (2, 5, false)], finals := 1 }), 1, 2^21 + 2^18 + 0x1203, false, [(2, 5, false)], ccmd, by decide +kernel, by decide +kernel, by decide +kernel, by decide +kernel, by decide +kernel, ⟨by decide +kernel, ⟨4, by decide +kernel⟩, by decide +kernel⟩, by decide +kernel⟩,
   ⟨k9, (ce (gdr 0) { reports := [(1, 0x1203, true)], finals := 1, code := 2 }), 1, 0x1203, true, [], ccmd, by decide +kernel, by decide +kernel, by decide +kernel, by decide +kernel, by decide +kernel, ⟨by decide +kernel, ⟨4, by decide +kernel⟩, by decide +kernel⟩, by decide +kernel⟩,
   ⟨k9, wr MST_PROT_LO_wr_mask 0 (63 - 8) (ce gd2 { reports := [(1, 2^22, true), (2, 5, false)], finals := 2 }), 1, 2^22, [(2, 5, false)], ccmd, by decide +kernel, by decide +kernel, by decide +kernel, by decide +kernel, by decide +kernel, ⟨by decide +kernel, ⟨4, by decide +kernel⟩, by decide +kernel⟩, by decide +kernel⟩,
   ⟨k9, (ce gv { reports := [(0, 2^21 + 2^18, false)] }), 0, 2^21 + 2^18, false, [], by decide +kernel⟩,
   ⟨k9, (ce gdw { reports := [(1, 0x1203, true), (2, 5, false)] }), 1, 0x1203, true, [(2, 5, false)], by decide +kernel⟩,
   ⟨k9, (cs gd { phase := 3, rbusy := true, ended := some 0, rlist := [1], rrun := [1] }), by decide +kernel⟩,
   ⟨k9, (cs gd2 { phase := 2, reports := [(1, 2^22+2^21, true), (2,5, false)] }), by decide +kernel⟩,
   ⟨k9, (cs gd {}), by decide +kernel⟩,
   ⟨k9, (ce gd {}), ccmd, by decide +kernel, by decide +kernel, by decide +kernel, by decide +kernel, by decide +kernel, ⟨by decide +kernel, ⟨4, by decide +kernel⟩, by decide +kernel⟩⟩⟩

end Contribute

namespace Express

def ld : List Byte := leBytes 0x10000 8 ++ leBytes (512 + 0*2^24 + 3*2^31 + 1*2^35) 8 ++ leBytes 0 16
def lcmd : Cmd := { id := 4, entry := leBytes 2 8 ++ List.replicate 16 0 ++ leBytes 0x9000 8 ++ List.replicate (128-32) 0 }
def ls : State := { withC (base []) with host := { cmds := [{ id := 3, entry := leBytes 4 8, phase := 1 }, lcmd] }, mem := memOf [(0x9000, ld), (0x10000, [1,2,3]), (0x10200+510, [1, 2])], expVec := [(32768*3+300, 7), (32768*4, 9)], expK := [(3, 512)] }
def md : List Byte := leBytes (0x100000 + 0*2^48) 8 ++ leBytes 0 8 ++ leBytes (299 + 31*2^20 + 1*2^27 + 3*2^31 + 4*2^35 + 127*2^47) 8 ++ leBytes 0x10000 8 ++ leBytes (2048 + 400*2^40) 8 ++ leBytes 0 8 ++ leBytes 1 8 ++ leBytes 0 8 ++ List.replicate 64 0
def xcm : Cmd := { lcmd with entry := leBytes 3 8 ++ List.replicate 16 0 ++ leBytes 0x9000 8 ++ List.replicate (128-32) 0 }
def xs : State := { ls with host := { cmds := [{ id := 3, entry := leBytes 4 8, phase := 1 }, xcm] }, mem := memOf [(0x9000, md), (0x100000, [0x80,0x3F,0x80,0x40,0x40])], expK := [(3, 8192), (4, 8192)], expVec := [(32768*3+1, 0x3F80), (32768*3+3, 0x4000), (32768*4, 0x3F80)] }
def ex : State := { xs with xcmds := [(0, some { desc := md, cmd := 4 })] }
def u0 := xOwner md 0 0
def un : StationN := Fin.ofNat 28 u0
def st1 : State := after (execExpressSlabStart un ex)
def xcur : XCmd := (xcmd 0 st1).getD {desc := [], cmd := 0}
def p1 : XPart := { q := 0, dst := u0, row := 0, v := 1, word := 77, tag := 4 }
def md3 : List Byte := md.take 16 ++ leBytes (767 + 31*2^20 + 1*2^27 + 3*2^31 + 4*2^35 + 127*2^47) 8 ++ md.drop 24
def st3 : State := setXcmd 0 (some { xcur with desc := md3, next := (Map.set (fun _ => 0) xcur.next u0 2) }) (setXunit u0 { halves := [(0, 0, false)] } st1)
abbrev cLen (x : XCmd) (c : Nat) : Nat := min (4096 * 8 / fmtBits (xFmt x.desc)) (xK x.desc - c * (4096 * 8 / fmtBits (xFmt x.desc))) * fmtBits (xFmt x.desc) / 8
abbrev cA (x : XCmd) (r c : Nat) : Nat := xW x.desc + r * xPitch x.desc + c * 4096
abbrev sLen (x : XCmd) (c : Nat) : Nat := if fmtBlock (xFmt x.desc) = true then min (4096 * 8 / fmtBits (xFmt x.desc)) (xK x.desc - c * (4096 * 8 / fmtBits (xFmt x.desc))) / 32 else 0
abbrev sA (x : XCmd) (r c : Nat) : Nat := xS x.desc + r * (xK x.desc / 32) + c * (4096 * 8 / fmtBits (xFmt x.desc)) / 32
abbrev Reads (q a n : Nat) (s : State) : Prop := mapped a n s = true ∧ protOk q a n true false s = true ∧ wpHits 3 a n true false s = [] ∧ anyDown a n s = false
abbrev SlabFull (k : Nat) (p : XPart) (x : XCmd) (sc : Nat) (s : State) : Prop :=
  Calm s ∧ PlainMem s ∧ s.xparts[k]? = some p ∧ p.dst < 28 ∧ p.q < 2 ∧ xcmd p.q s = some x ∧ (xunit p.dst s).halves = [(p.q, p.row / 256, true)]
    ∧ p.row ∈ slabMine x.desc p.dst (p.row / 256) ∧ p.v < xVecs x.desc
    ∧ (∀ r : Nat, r ∈ slabMine x.desc p.dst (p.row / 256) → ∀ v : Nat, v < xVecs x.desc → (Map.get (fun _ => 0) x.got (16 * r + v) + if r = p.row ∧ v = p.v then 1 else 0) = (rowOwners x.desc r).length)
    ∧ (∀ w : Nat × Nat, w ∈ slabPlaces x.desc p.dst (p.row / 256) → MayAccess p.q 3 w.fst w.snd false true s) ∧ (if ctlTscale (xConv x.desc) = true then x.scale else some 127) = some sc
def last : Nat × Nat := ((xunit u0 st1).chunks.filter fun e => collector md e.1 != u0).headD (0, 0)
def stL : State := setXunit u0 { xunit u0 st1 with chunks := [last] } st1
def xcurB : XCmd := { xcur with desc := leBytes (0x100000 + 5 * 2 ^ 48) 8 ++ md.drop 8 }
def mdS : List Byte := md.take 16 ++ leBytes (31*2^20 + 3*2^31 + 4*2^35 + 127*2^47) 8 ++ md.drop 24
def xS6 (nx : List (Nat × Nat)) : XCmd := { desc := mdS, cmd := 4, got := [(0, (rowOwners mdS 0).length - 1)], next := nx }
def p0 : XPart := { q := 0, dst := u0, row := 0, v := 0, word := 77, tag := 4 }
def st6 (nx : List (Nat × Nat)) : State := setXcmd 0 (some (xS6 nx)) (setXunit u0 { halves := [(0, 0, true)] } { xs with xparts := [p0] })
def allOne : List (Nat × Nat) := (List.range 28).map fun n => (n, 1)

theorem test_meets_ExpressPath :
    (∃ (q : CmdSel) (c : Cmd) (d : List Byte) (s : State), (Calm s) ∧ (PlainMem s) ∧ (frontCmd q 2 s = some c) ∧ (CanEnd c s) ∧ (oneDescOk c 32 = true) ∧ (smRead c.a18 32 s = (0, d, s)) ∧ (loadLegal d = true) ∧ (lastChunkRead (expQueue c.ring s) s = true) ∧ (∀ (v : Nat), v < lCount d → mapped (lSrc d + v * lPitch d) (2 * lK d) s = true ∧ protOk (expQueue c.ring s) (lSrc d + v * lPitch d) (2 * lK d) true false s = true ∧ wpHits 3 (lSrc d + v * lPitch d) (2 * lK d) true false s = [] ∧ anyDown (lSrc d + v * lPitch d) (2 * lK d) s = false)) ∧
    (∃ (q : CmdSel) (c : Cmd) (d : List Byte) (s : State), (Calm s) ∧ (frontCmd q 3 s = some c) ∧ (oneDescOk c 128 = true) ∧ (smRead c.a18 128 s = (0, d, s)) ∧ (mvLegal (expQueue c.ring s) d s = true) ∧ (xcmd (expQueue c.ring s) s = none) ∧ (smTracing (c.ring % 4) s = false)) ∧
    (∃ (n : StationN) (q : Nat) (f : Nat) (x : XCmd) (s : State), (Sound s) ∧ (isl (↑n) s = 0) ∧ ((xunit (↑n) s).cur = none) ∧ ((xunit (↑n) s).halves.length < 2) ∧ (∀ (h : Nat × Nat × Bool), h ∈ (xunit (↑n) s).halves → h.snd.snd = false) ∧ (chooseQueue (↑n) s = some q) ∧ (xcmd q s = some x) ∧ (slabFloor (↑n) q (Map.get (fun x => 0) x.next ↑n) x s = (0, f, s)) ∧ (slabChunks x.desc (↑n) (Map.get (fun x => 0) x.next ↑n) ≠ []) ∧ (∀ (h : Nat × Nat × Bool), h ∈ (xunit (↑n) s).halves → h.fst = q → Map.get (fun x => 0) x.next ↑n < h.snd.fst + 2)) ∧
    (∃ (n : StationN) (q : Nat) (x : XCmd) (s : State), (Sound s) ∧ ((xunit (↑n) s).cur = none) ∧ (chooseQueue (↑n) s = some q) ∧ (xcmd q s = some x) ∧ (∃ h, h ∈ (xunit (↑n) s).halves ∧ h.fst = q ∧ h.snd.fst + 2 ≤ Map.get (fun x => 0) x.next ↑n)) ∧
    (∃ (n : StationN) (q : Nat) (b : Nat) (r : Nat) (c : Nat) (rest : List (Nat × Nat)) (x : XCmd) (s : State), (Sound s) ∧ (PlainMem s) ∧ ((xunit (↑n) s).cur = some (q, b)) ∧ ((xunit (↑n) s).chunks = (r, c) :: rest) ∧ (xcmd q s = some x) ∧ (∀ (h : Nat × Nat × Bool), h ∈ (xunit (↑n) s).halves → h.snd.snd = false) ∧ (q < 2) ∧ (Reads q (cA x r c) (cLen x c) s) ∧ (fmtBlock (xFmt x.desc) = true → Reads q (sA x r c) (sLen x c) s) ∧ (rest = [] → ∃ r', r' ∈ slabMine x.desc (↑n) b ∧ collector x.desc r ≠ ↑n ∧ ∃ v, v < xVecs x.desc ∧ Map.get (fun x => 0) x.got (16 * r' + v) ≠ (rowOwners x.desc r').length)) ∧
    (∃ (n : StationN) (q : Nat) (b : Nat) (r : Nat) (c : Nat) (rest : List (Nat × Nat)) (x : XCmd) (s : State), (Sound s) ∧ (PlainMem s) ∧ ((xunit (↑n) s).cur = some (q, b)) ∧ ((xunit (↑n) s).chunks = (r, c) :: rest) ∧ (xcmd q s = some x) ∧ (∀ (h : Nat × Nat × Bool), h ∈ (xunit (↑n) s).halves → h.snd.snd = false) ∧ (q < 2) ∧ (Reads q (cA x r c) (cLen x c) s) ∧ (fmtBlock (xFmt x.desc) = true → Reads q (sA x r c) (sLen x c) s) ∧ (rest = [] → ∃ r', r' ∈ slabMine x.desc (↑n) b ∧ collector x.desc r ≠ ↑n ∧ ∃ v, v < xVecs x.desc ∧ Map.get (fun x => 0) x.got (16 * r' + v) ≠ (rowOwners x.desc r').length)) ∧
    (∃ (n : StationN) (q : Nat) (b : Nat) (r : Nat) (c : Nat) (rest : List (Nat × Nat)) (x : XCmd) (s : State), (Sound s) ∧ (PlainMem s) ∧ ((xunit (↑n) s).cur = some (q, b)) ∧ ((xunit (↑n) s).chunks = (r, c) :: rest) ∧ (xcmd q s = some x) ∧ (∀ (h : Nat × Nat × Bool), h ∈ (xunit (↑n) s).halves → h.snd.snd = false) ∧ (q < 2) ∧ (Reads q (cA x r c) (cLen x c) s) ∧ (fmtBlock (xFmt x.desc) = true → Reads q (sA x r c) (sLen x c) s) ∧ (rest = [] → ∃ r', r' ∈ slabMine x.desc (↑n) b ∧ collector x.desc r ≠ ↑n ∧ ∃ v, v < xVecs x.desc ∧ Map.get (fun x => 0) x.got (16 * r' + v) ≠ (rowOwners x.desc r').length)) ∧
    (∃ (k : Nat) (p : XPart) (x : XCmd) (s : State), (Sound s) ∧ (isl p.dst s = 0) ∧ (s.xparts[k]? = some p) ∧ (xcmd p.q s = some x) ∧ (∃ h, h ∈ (xunit p.dst s).halves ∧ h.fst = p.q ∧ h.snd.fst = p.row / 256) ∧ (∀ (h : Nat × Nat × Bool), h ∈ (xunit p.dst s).halves → h.snd.snd = false)) ∧
    (∃ (k : Nat) (p : XPart) (x : XCmd) (s : State) (sc : Nat), (SlabFull k p x sc s) ∧ (lastChunkRead p.q s = false ∨ ∃ m, m < 28 ∧ m ≠ p.dst ∧ ∃ h, h ∈ (xunit m s).halves ∧ h.fst = p.q)) ∧
    (∃ (k : Nat) (p : XPart) (x : XCmd) (s : State) (sc : Nat) (c : Cmd), (SlabFull k p x sc s) ∧ (lastChunkRead p.q s = true) ∧ (¬∃ m, m < 28 ∧ m ≠ p.dst ∧ ∃ h, h ∈ (xunit m s).halves ∧ h.fst = p.q) ∧ (ctlCensus (xConv x.desc) = false) ∧ (s.xparts = [p]) ∧ (x.status = 0 ∨ x.status = 3) ∧ (cmdOf x.cmd s = some c) ∧ (CanEnd c s)) :=
  ⟨⟨ring0, lcmd, ld, ls, by decide +kernel⟩,
   ⟨ring0, xcm, md, xs, by decide +kernel⟩,
   ⟨un, 0, 400, { desc := md, cmd := 4 }, ex, by decide +kernel⟩,
   ⟨un, 0, (xcmd 0 st3).getD xcur, st3, by decide +kernel⟩,
   ⟨un, 0, 0, ((xunit u0 st1).chunks.head!.1), ((xunit u0 st1).chunks.head!.2), ((xunit u0 st1).chunks.tail), xcur, st1, by decide +kernel⟩,
   ⟨un, 0, 0, last.1, last.2, [], xcur, stL, by decide +kernel⟩,
   ⟨un, 0, 0, ((xunit u0 st1).chunks.head!.1), ((xunit u0 st1).chunks.head!.2), ((xunit u0 st1).chunks.tail), xcurB, setXcmd 0 (some xcurB) st1, by decide +kernel⟩,
   ⟨0, p1, xcur, ({ st1 with xparts := [p1] }), by decide +kernel⟩,
   ⟨0, p0, xS6 [], st6 [], 127, by decide +kernel⟩,
   ⟨0, p0, xS6 allOne, st6 allOne, 127, xcm, by decide +kernel, by decide +kernel, by decide +kernel, by decide +kernel, by decide +kernel⟩⟩

end Express

namespace Rail

def bs (l : List (Fld × Nat × Nat)) : State := base l
def tpk (kind : Nat) (t1 t2 t3 : Nat) (depth : Nat) (lk : Nat) : Pkt := { typ := 0x59, vc := 4, tt := 0, dst := 0, src := 0, payload := leBytes t1 8 ++ leBytes t2 8 ++ leBytes t3 8 ++ leBytes (kind + depth*4 + lk * 512) 8 }
def inP (p : Nat) (q : Pkt) (s : State) : State := setPort p { port p s with cells := (pcells q).map fun c => { c with rt := 508 } } s
def tst (q : Pkt) (good : Nat) (now : Nat) : State := let s := bs [(CUT_RTIME_rtime, 0, now), (CUT_RT_CONFIG_parent, 0, 3), (CUT_RT_EXCHANGES_count, 0, 2^32-1)]; inP 3 q { s with cut := { s.cut with asked := true, goodRow := good } }
def hk (p : Nat) (s : State) : RxFound := found (localPacket p 0x59 s)
def T (q : Pkt) (g now : Nat) : State := tst q g now
def q1 := tpk 1 400 452 460 3 1

theorem test_meets_RailwayTime :
    (∃ (v : U64) (s : State), (Sound s) ∧ (Answers s) ∧ (isRoot s = true) ∧ (now s ≤ BitVec.toNat v)) ∧
    (∃ (v : U64) (s : State), (Sound s) ∧ (Answers s) ∧ (¬(isRoot s = true ∧ now s ≤ BitVec.toNat v))) ∧
    (∃ (s : State), (Calm s) ∧ (isRoot s = true)) ∧
    (∃ (s : State), (Calm s) ∧ (isRoot s = false) ∧ (timePort s < 16) ∧ (portState (timePort s) s = 6)) ∧
    (∃ (n : PortN) (f : RxFound) (s : State), (Calm s) ∧ (portState (↑n) s = 6) ∧ (localPacket (↑n) 89 s = some f) ∧ (bits (recNat (pktOf f.hdr f.data).payload 24 8) 0 2 = 0)) ∧
    (∃ (n : PortN) (f : RxFound) (s : State), (Calm s) ∧ (portState (↑n) s = 6) ∧ (localPacket (↑n) 89 s = some f) ∧ (bits (recNat (pktOf f.hdr f.data).payload 24 8) 0 2 ≠ 0) ∧ (isRoot s = false) ∧ (↑n = timePort s) ∧ (s.cut.asked = true) ∧ ((((recNat (pktOf f.hdr f.data).payload 8 8 : Nat) : Int) - ((recNat (pktOf f.hdr f.data).payload 0 8 : Nat) : Int) - ((f.head.rt : Int) - ((recNat (pktOf f.hdr f.data).payload 16 8 : Nat) : Int))).natAbs ≤ 4)) ∧
    (∃ (s : State), (Sound s) ∧ (isRoot s = true)) ∧
    (∃ (s : State), (Sound s) ∧ (isRoot s = false)) :=
  ⟨⟨1000, (bs [(CUT_RT_CONFIG_root, 0, 1), (CUT_RTIME_rtime, 0, 500)]), by decide +kernel⟩,
   ⟨100, (bs [(CUT_RT_CONFIG_root, 0, 1), (CUT_RTIME_rtime, 0, 500)]), by decide +kernel⟩,
   ⟨(bs [(CUT_RT_CONFIG_root, 0, 1), (CUT_RTIME_rtime, 0, 500)]), by decide +kernel⟩,
   ⟨(bs [(CUT_RTIME_rtime, 0, 500), (CUT_RT_CONFIG_parent, 0, 3)]), by decide +kernel⟩,
   ⟨3, (hk 3 (tst (tpk 0 7 0 0 0 0) 0 500)), (tst (tpk 0 7 0 0 0 0) 0 500), by decide +kernel⟩,
   ⟨3, (hk 3 (T q1 3 508)), (T q1 3 508), by decide +kernel⟩,
   ⟨(bs [(CUT_RT_CONFIG_root, 0, 1)]), by decide +kernel⟩,
   ⟨(bs [(CUT_RT_CONFIG_parent, 0, 3), (CUT_STATUS_rt_ok, 0, 1), (ULP_STATUS_state, 3, 9), (CUT_RT_CONFIG_alt_valid, 0, 1)]), by decide +kernel⟩⟩

end Rail

namespace Cuts

def bs (l : List (Fld × Nat × Nat)) : State := base l
def sd (v : Nat) : List Byte := leBytes v 8 ++ leBytes 0 8 ++ leBytes 0 8 ++ leBytes 0x100000 8 ++ leBytes (2^19) 8 ++ List.replicate 280 0
def co (l : List (Fld × Nat × Nat)) (d : List Byte) : State := { bs ([(CUT_RTIME_rtime, 0, 500), (CUT_ORDER_TIME_cut_time, 0, 60000), (CUT_ORDER_SNAP_snap, 0, 0x4000), (CUT_REFUSALS_count, 0, 2^32-1)] ++ l) with mem := memOf [(0x4000, d)] }
def wt (s : State) : State := { s with cut := { s.cut with tails := [(3,7),(4,8)] } }
def allOut (s : State) : State := fl ((List.range 168).reverse.map (fun t => (ITG_TILE_CTRL_state, t, 1)) ++ (List.range 16).reverse.map (fun p => (ULP_STATUS_state, p, 5))) s
def cp (l : List (Fld × Nat × Nat)) : State := let s := allOut (bs ([(CUT_RTIME_rtime, 0, 60001), (CUT_STATUS_state, 0, 1), (CUT_STATUS_cut_id, 0, 7), (CUT_STATUS_rt_ok, 0, 1)] ++ l)); { s with cut := { s.cut with snap := sd 1, time := 60000 }, ejq := [qp (pk 1 [1,2]) 3] }
def tlp (id : Nat) : Pkt := { typ := 0x58, vc := 4, tt := 0, dst := 0, src := 0, payload := leBytes id 8 ++ leBytes 60000 8 }
def inP (p : Nat) (q : Pkt) (s : State) : State := setPort p { port p s with cells := pcells q } s
def hk (p : Nat) (s : State) : RxFound := found (localPacket p 0x58 s)
def ts : State := inP 3 (tlp 7) (bs [(CUT_STATUS_state, 0, 1), (CUT_STATUS_cut_id, 0, 9)])
def ts2 : State := { ts with cut := { ts.cut with ignore := [7] } }
def ts3 : State := { bs [(CUT_STATUS_state, 0, 0), (CUT_STATUS_cut_id, 0, 9)] with cut := { ts.cut with tails := [(5,8),(3,7),(6,7)] } }
def sdr : List Byte := leBytes (1 + 2 ^ 16) 8 ++ leBytes 0 8 ++ leBytes 0 8 ++ leBytes 0x100000 8 ++ leBytes (2^19) 8 ++ List.replicate 24 0 ++ leBytes 0x200000 8 ++ leBytes 0x200FFF 8 ++ leBytes 0x5000 8 ++ leBytes (2^18 + 0x103) 8 ++ List.replicate 224 0
def cpt : State := let s := fl [(ITG_TILE_CTRL_state, 3, 0), (ULP_STATUS_state, 5, 6)] (cp []); setCore 3 { ctl := 0, replay := [⟨1, 2, 3, 4⟩] } (setLr 3 { queue := [⟨5, 6, 7, 8⟩] } { s with cut := { s.cut with snap := sdr } })

theorem test_meets_CutsOrderedAndTaken :
    (∃ (id : BitVec 16) (s : State), (Calm s) ∧ (PlainMem s) ∧ (Answers s) ∧ (cutBusy s = true)) ∧
    (∃ (id : BitVec 16) (s : State), (Calm s) ∧ (PlainMem s) ∧ (Answers s) ∧ (cutBusy s = false) ∧ (rtOk s = false)) ∧
    (∃ (id : BitVec 16) (s : State), (Calm s) ∧ (PlainMem s) ∧ (Answers s) ∧ (cutBusy s = false) ∧ (rtOk s = true) ∧ (∀ (e : Nat × Nat), e ∈ s.cut.tails → e.snd ≠ id.toNat) ∧ (rd CUT_ORDER_TIME_cut_time 0 s < now s + 50000)) ∧
    (∃ (id : BitVec 16) (s : State) (d : List Byte), (Calm s) ∧ (PlainMem s) ∧ (Answers s) ∧ (cutBusy s = false) ∧ (rtOk s = true) ∧ (∀ (e : Nat × Nat), e ∈ s.cut.tails → e.snd ≠ id.toNat) ∧ (now s + 50000 ≤ rd CUT_ORDER_TIME_cut_time 0 s) ∧ (rd CUT_ORDER_SNAP_snap 0 s % 64 = 0) ∧ (memRead 6 9 (rd CUT_ORDER_SNAP_snap 0 s) 320 s = (0, d, s)) ∧ (snLegal (unitState (cutTileStates s) s).length d s = false)) ∧
    (∃ (id : BitVec 16) (s : State) (d : List Byte), (Calm s) ∧ (PlainMem s) ∧ (Answers s) ∧ (cutBusy s = false) ∧ (rtOk s = true) ∧ (∀ (e : Nat × Nat), e ∈ s.cut.tails → e.snd ≠ id.toNat) ∧ (now s + 50000 ≤ rd CUT_ORDER_TIME_cut_time 0 s) ∧ (rd CUT_ORDER_SNAP_snap 0 s % 64 = 0) ∧ (memRead 6 9 (rd CUT_ORDER_SNAP_snap 0 s) 320 s = (0, d, s)) ∧ (snLegal (unitState (cutTileStates s) s).length d s = true) ∧ (∀ (n : Nat), n < 28 → snRegions d ≤ freeRecords n s)) ∧
    (∃ (s : State), (Calm s) ∧ (PlainMem s) ∧ (rd CUT_STATUS_state 0 s ≠ 1 ∨ on CUT_STATUS_sweeping 0 s = true ∨ now s < s.cut.time)) ∧
    (∃ (s : State), (Calm s) ∧ (PlainMem s) ∧ (rd CUT_STATUS_state 0 s = 1) ∧ (on CUT_STATUS_sweeping 0 s = false) ∧ (s.cut.time ≤ now s) ∧ (rtOk s = true) ∧ (s.heldq = []) ∧ (s.checks = []) ∧ (s.sweep = []) ∧ (∀ (p : Nat), p < 16 → portState p s ≠ 7 ∧ portState p s ≠ 8) ∧ (∀ (d : Nat), d < 2 → (poss d s).st < 2) ∧ (snLegal 0 s.cut.snap s = true) ∧ (snKind (recNat s.cut.snap 32 8) = 2) ∧ (∀ (t : Nat), t ∈ cutTiles s → coreState t s ≤ 3 ∧ (Machine.core t s).outst = [] ∧ pendingDefer t s = none ∧ on TIL_LR_STATUS_suspended t s = false ∧ (lrow t s).suspBusy = none ∧ (lrow t s).restBusy = none ∧ saveAddr t s % 512 = 0 ∧ mapped (saveAddr t s) 337408 s = true ∧ protOk (tileClass t s) (saveAddr t s) 337408 false true s = true ∧ progLocked (saveAddr t s) 337408 s = false)) ∧
    (∃ (s : State), (Calm s) ∧ (PlainMem s) ∧ (rd CUT_STATUS_state 0 s = 1) ∧ (on CUT_STATUS_sweeping 0 s = false) ∧ (s.cut.time ≤ now s) ∧ (rtOk s = true) ∧ (s.heldq = []) ∧ (s.checks = []) ∧ (s.sweep = []) ∧ (∀ (p : Nat), p < 16 → portState p s ≠ 7 ∧ portState p s ≠ 8) ∧ (∀ (d : Nat), d < 2 → (poss d s).st < 2) ∧ (snLegal 0 s.cut.snap s = true) ∧ (snKind (recNat s.cut.snap 32 8) = 2) ∧ (∀ (t : Nat), t ∈ cutTiles s → coreState t s ≤ 3 ∧ (Machine.core t s).outst = [] ∧ pendingDefer t s = none ∧ on TIL_LR_STATUS_suspended t s = false ∧ (lrow t s).suspBusy = none ∧ (lrow t s).restBusy = none ∧ saveAddr t s % 512 = 0 ∧ mapped (saveAddr t s) 337408 s = true ∧ protOk (tileClass t s) (saveAddr t s) 337408 false true s = true ∧ progLocked (saveAddr t s) 337408 s = false)) ∧
    (∃ (n : PortN) (f : RxFound) (s : State), (Calm s) ∧ (localPacket (↑n) 88 s = some f) ∧ (¬(recNat f.data 0 2 = rd CUT_STATUS_cut_id 0 s ∧ rd CUT_STATUS_state 0 s = 1 ∧ on CUT_STATUS_sweeping 0 s = false)) ∧ (recNat f.data 0 2 ∈ s.cut.ignore ∨ recNat f.data 0 2 = rd CUT_STATUS_cut_id 0 s ∧ on CUT_STATUS_sweeping 0 s = true ∧ (rd CUT_STATUS_state 0 s = 1 ∨ rd CUT_STATUS_reason 0 s = 7))) ∧
    (∃ (n : PortN) (f : RxFound) (s : State), (Calm s) ∧ (localPacket (↑n) 88 s = some f) ∧ (¬(recNat f.data 0 2 = rd CUT_STATUS_cut_id 0 s ∧ rd CUT_STATUS_state 0 s = 1 ∧ on CUT_STATUS_sweeping 0 s = false)) ∧ (¬(recNat f.data 0 2 ∈ s.cut.ignore ∨ recNat f.data 0 2 = rd CUT_STATUS_cut_id 0 s ∧ on CUT_STATUS_sweeping 0 s = true ∧ (rd CUT_STATUS_state 0 s = 1 ∨ rd CUT_STATUS_reason 0 s = 7)))) ∧
    (∃ (n : PortN) (s : State), (Calm s) ∧ (∀ (e : Nat × Nat), e ∈ s.cut.tails → e.fst ≠ n.val)) ∧
    (∃ (n : PortN) (s : State) (e : Nat × Nat), (Calm s) ∧ (List.find? (fun e => e.fst == ↑n) s.cut.tails = some e) ∧ (List.count e s.cut.tails = 1) ∧ (cutBusy s = false)) :=
  ⟨⟨7, (wt (co [(CUT_STATUS_state, 0, 1), (CUT_STATUS_cut_id, 0, 9)] (sd 2))), by decide +kernel⟩,
   ⟨7, (wt (co [(CUT_RTIME_rtime, 0, 10001)] (sd 2))), by decide +kernel⟩,
   ⟨7, (co [(CUT_STATUS_rt_ok, 0, 1),(CUT_RTIME_rtime, 0, 10001)] (sd 2)), by decide +kernel⟩,
   ⟨7, (co [(CUT_STATUS_rt_ok, 0, 1)] (sd 2)), (sd 2), by decide +kernel⟩,
   ⟨7, (co [(CUT_STATUS_rt_ok, 0, 1)] (sd 1)), (sd 1), by decide +kernel⟩,
   ⟨(cp [(CUT_RTIME_rtime, 0, 59999)]), by decide +kernel⟩,
   ⟨(cp []), by decide +kernel⟩,
   ⟨cpt, by decide +kernel⟩,
   ⟨3, (hk 3 ts), ts2, by decide +kernel⟩,
   ⟨3, (hk 3 ts), ts, by decide +kernel⟩,
   ⟨2, ts3, by decide +kernel⟩,
   ⟨3, ts3, (3, 7), by decide +kernel⟩⟩

end Cuts

namespace CutDrain

def bs (l : List (Fld × Nat × Nat)) : State := base l
def cs (l : List (Fld × Nat × Nat)) (c : CutSt) : State := { bs ([(CUT_STATUS_cut_id, 0, 9), (CUT_CUTS_count, 0, 2^32-1)] ++ l) with cut := c }
def tq (id : Nat) : QPkt := qp { typ := 0x58, vc := 4, tt := 0, dst := 0, src := 0, payload := leBytes id 8 ++ leBytes 60000 8 } 16
def q2 (s : State) : State := setPort 4 { port 4 s with outq := [tq 9, tq 8, qp (pk 1 [1]) 3] } s
def man (q tot : Nat) : List Byte := leBytes (1 + 9*2^16 + 2^51) 8 ++ leBytes 0 (8*5) ++ leBytes q 8 ++ leBytes tot 8 ++ List.replicate (4096-64) 0
def rs (l : List (Fld × Nat × Nat)) (m : List Byte) : State := { bs ([(CUT_RESTORE_rec, 0, 0x4000)] ++ l) with mem := memOf [(0x4000, m)] }
def rsm (l : List (Fld × Nat × Nat)) : State := { bs ([(TIL_CORE_STATUS_state, 3, 3), (CUT_RTIME_rtime, 0, 1000), (CUT_RESUME_TIME_resume, 0, 999), (TIL_CS_EPC_val, 3, 77)] ++ l) with cut := {resumeSet := true, own := some { area := 0, placed := [(3,5)], prior := [(4,2),(5,1)] }} }
def mk (l : List (Fld × Nat × Nat)) : State := let s := bs ([(CUT_CONTROL_mirror_en, 0, 1), (CUT_MIR_BASE_base, 2, 1), (CUT_MIR_LIMIT_limit, 2, 5), (CUT_MIR_BASE_valid, 2, 1)] ++ l); setStation 4 { station 4 s with mirOut := 3 } { s with tags := [(17, some { who := .mirror 2 4 0x2040, at_ := 5 })] }
def full (s : State) : State := setStation (stOf 4096) { station (stOf 4096) s with mirOut := 64 } s
def dsn : List Byte := List.replicate 0x20 0 ++ leBytes (2 ^ 19) 8 ++ List.replicate 280 0
def drn (l : List (Fld × Nat × Nat)) (c : CutSt) : State := cs ((CUT_STATUS_state, 0, 3) :: l) { c with snap := dsn }

theorem test_meets_CutsDrainedAndRestored :
    (∃ (s : State), (Sound s) ∧ (NoneWaits s) ∧ (rd CUT_STATUS_sweeping 0 s = 0) ∧ (s.sweep = []) ∧ (∀ (n : Nat), n < 28 → rd MST_STATUS_armed n s = 0) ∧ (rd CUT_STATUS_log_open 0 s ≠ 0) ∧ (rd CUT_STATUS_state 0 s = 2 ∨ rd CUT_STATUS_state 0 s = 3)) ∧
    (∃ (s : State), (Sound s) ∧ (NoneWaits s) ∧ (rd CUT_STATUS_sweeping 0 s = 0) ∧ (s.sweep = []) ∧ (∀ (n : Nat), n < 28 → rd MST_STATUS_armed n s = 0) ∧ (Answers s) ∧ (rd CUT_STATUS_state 0 s = 1 ∨ rd CUT_STATUS_state 0 s = 2 ∨ rd CUT_STATUS_state 0 s = 3)) ∧
    (∃ (s : State) (k : Fin 179), (Sound s) ∧ (NoneWaits s) ∧ (rd CUT_STATUS_sweeping 0 s = 0) ∧ (s.sweep = []) ∧ (∀ (n : Nat), n < 28 → rd MST_STATUS_armed n s = 0) ∧ (rd CUT_STATUS_state 0 s = 3) ∧ (rd CUT_STATUS_log_open 0 s = 0) ∧ (↑k ∈ s.cut.parts) ∧ (↑k ∈ s.cut.begun)) ∧
    (∃ (k : Fin 179) (s : State), (Sound s) ∧ (Draining s) ∧ (s.cut.out = []) ∧ (↑k ∈ s.cut.parts) ∧ (↑k ∈ s.cut.begun) ∧ (↑k < 170) ∧ (¬170 ∈ s.cut.begun) ∧ (List.filter (fun x => x != ↑k) s.cut.parts ≠ [170] ∨ imagesDone s = false)) ∧
    (∃ (k : Fin 179) (s : State), (Sound s) ∧ (Draining s) ∧ (s.cut.out = []) ∧ (↑k ∈ s.cut.parts) ∧ (↑k ∈ s.cut.begun) ∧ (↑k < 170) ∧ (¬170 ∈ s.cut.begun) ∧ (List.filter (fun x => x != ↑k) s.cut.parts ≠ [170] ∨ imagesDone s = false)) ∧
    (∃ (k : Fin 179) (s : State), (Sound s) ∧ (Draining s) ∧ (s.cut.out = []) ∧ (↑k ∈ s.cut.parts) ∧ (↑k ∈ s.cut.begun) ∧ (170 < ↑k) ∧ (¬170 ∈ s.cut.begun) ∧ (imagesDone s = true) ∧ (List.filter (fun x => x != ↑k) s.cut.parts ≠ [170])) ∧
    (∃ (k : Fin 179) (s : State), (Sound s) ∧ (Draining s) ∧ (s.cut.out = []) ∧ (↑k ∈ s.cut.parts) ∧ (↑k ∈ s.cut.begun) ∧ (170 < ↑k) ∧ (imagesDone s = false)) ∧
    (∃ (k : Fin 179) (s : State), (Sound s) ∧ (Draining s) ∧ (s.cut.out = []) ∧ (↑k ∈ s.cut.parts) ∧ (↑k ∈ s.cut.begun) ∧ (↑k ≠ 170) ∧ (¬170 ∈ s.cut.begun) ∧ (List.filter (fun x => x != ↑k) s.cut.parts = [170]) ∧ (imagesDone s = true) ∧ (snKind (recW s) = 2) ∧ (s.boot.masterOff = false)) ∧
    (∃ (k : Fin 179) (s : State), (Sound s) ∧ (Draining s) ∧ (s.cut.out = []) ∧ (↑k ∈ s.cut.parts) ∧ (↑k ∈ s.cut.begun) ∧ (↑k ≠ 170) ∧ (¬170 ∈ s.cut.begun) ∧ (List.filter (fun x => x != ↑k) s.cut.parts = [170]) ∧ (imagesDone s = true) ∧ (snKind (recW s) = 2) ∧ (s.boot.masterOff = false)) ∧
    (∃ (k : Fin 179) (s : State), (Sound s) ∧ (Draining s) ∧ (s.cut.out = []) ∧ (↑k ∈ s.cut.parts) ∧ (↑k ∈ s.cut.begun) ∧ (↑k = 170)) ∧
    (∃ (m : List Byte) (s : State), (Calm s) ∧ (PlainMem s) ∧ (Answers s) ∧ (memRead 6 9 (rd CUT_RESTORE_rec 0 s) 4096 s = (0, m, s)) ∧ (¬(bits (recNat m 0 8) 0 16 = 1 ∧ bit (recNat m 0 8) 51 = true)) ∧ (cutBusy s = false)) ∧
    (∃ (m : List Byte) (s : State), (Calm s) ∧ (PlainMem s) ∧ (Answers s) ∧ (memRead 6 9 (rd CUT_RESTORE_rec 0 s) 4096 s = (0, m, s)) ∧ (bits (recNat m 0 8) 0 16 = 1) ∧ (bit (recNat m 0 8) 51 = true) ∧ (moduleIdle (on CUT_RESTORE_adopt 0 s) s = true) ∧ (bits (recNat m 48 8) 0 48 = 0) ∧ (bits (recNat m 56 8) 0 48 = 0)) ∧
    (∃ (s : State), (Calm s) ∧ (s.cut.restored = false ∨ s.cut.resumeSet = false ∨ now s < rd CUT_RESUME_TIME_resume 0 s)) ∧
    (∃ (s : State) (t : TileN) (t0 : Nat) (r : Restore), (Calm s) ∧ (s.cut.own = some r) ∧ (s.cut.twin = none) ∧ (s.cut.resumeSet = true) ∧ (rd CUT_RESUME_TIME_resume 0 s ≤ now s) ∧ (s.host.cmds = []) ∧ (s.colls = []) ∧ (r.chans = []) ∧ (r.xpend = []) ∧ (r.inject = []) ∧ (s.power.rows = []) ∧ (r.placed = [(↑t, t0)]) ∧ (List.find? (fun x => x.fst == t0) r.prior = some (t0, 1)) ∧ (failedTile (↑t) s = false) ∧ (coreState (↑t) s = 3)) ∧
    (∃ (k : BitVec 12) (r : Nat) (st : Nat) (x : Nat) (t0 : Nat) (s : State), (Calm s) ∧ (Map.get (fun x => none) s.tags k.toNat = some { who := Requester.mirror r st x, at_ := t0 }) ∧ ((station st s).mirq = [])) ∧
    (∃ (s : State), (Calm s) ∧ (on CUT_CONTROL_mirror_en 0 s = false ∨ List.filter (fun k => on CUT_MIR_BASE_valid k s && on CUT_MIR_BASE_gap k s) (List.range 8) = [])) ∧
    (∃ (s : State) (r : Nat), (Calm s) ∧ (Answers s) ∧ (on CUT_CONTROL_mirror_en 0 s = true) ∧ (List.filter (fun k => on CUT_MIR_BASE_valid k s && on CUT_MIR_BASE_gap k s) (List.range 8) = [r]) ∧ (rd CUT_MIR_BASE_base r s ≤ rd CUT_MIR_LIMIT_limit r s) ∧ (whereOf (rd CUT_MIR_BASE_base r s * 4096) s = Where.gddr) ∧ (unitDown (rd CUT_MIR_BASE_base r s * 4096) s = false) ∧ ((station (stOf (rd CUT_MIR_BASE_base r s * 4096)) s).mirOut ≥ 64)) :=
  ⟨⟨(cs [(CUT_STATUS_log_open, 0, 1), (CUT_STATUS_state, 0, 2)] {}), by decide +kernel⟩,
   ⟨(cs [(CUT_STATUS_log_open, 0, 1), (CUT_STATUS_state, 0, 2)] {}), by decide +kernel⟩,
   ⟨(q2 (cs [(CUT_STATUS_state, 0, 3)] {parts := [168,170], begun := [168,169,170]})), 168, by decide +kernel⟩,
   ⟨168, drn [(MST_STATUS_armed, 5, 4)] { parts := [168, 170], begun := [168, 169] }, by decide +kernel⟩,
   ⟨168, drn [] { parts := [167, 168, 170], begun := [167, 168, 169] }, by decide +kernel⟩,
   ⟨172, drn [] { parts := [169, 170, 172], begun := [172, 168, 169] }, by decide +kernel⟩,
   ⟨172, drn [(MST_STATUS_armed, 5, 4)] { parts := [170, 172], begun := [172, 168, 169] }, by decide +kernel⟩,
   ⟨172, drn [] { parts := [170, 172], begun := [172, 168, 169] }, by decide +kernel⟩,
   ⟨169, drn [] { parts := [169, 170], begun := [168, 169] }, by decide +kernel⟩,
   ⟨170, drn [] { parts := [170], begun := [168, 169, 170] }, by decide +kernel⟩,
   ⟨(List.replicate 4096 0), (rs [] (List.replicate 4096 0)), by decide +kernel⟩,
   ⟨(man 0 0), (rs [] (man 0 0)), by decide +kernel⟩,
   ⟨(bs []), by decide +kernel⟩,
   ⟨(rsm []), 3, 5, { area := 0, placed := [(3,5)], prior := [(4,2),(5,1)] }, by decide +kernel⟩,
   ⟨17, 2, 4, 0x2040, 5, (mk []), by decide +kernel⟩,
   ⟨(bs []), by decide +kernel⟩,
   ⟨(full (mk [(CUT_MIR_BASE_gap, 2, 1)])), 2, by decide +kernel⟩⟩

end CutDrain

namespace Checks

def bs (l : List (Fld × Nat × Nat)) : State := base l
def ck (l : List (Fld × Nat × Nat)) (c : CheckSlot) : State := setCheck 2 c (bs ([(ITG_DUP_MISMATCH_count, 0, 2^32-1), (ITG_DUP_DROPPED_count, 0, 2^32-1), (ITG_DUP_BASE_base, 0, 1)] ++ l))
def flips : List (Fin 2048 × L576) := [(0, 1#576), (7, 5#576)]
def c2 : CheckSlot := { st := 2, tile := 5, set := 1, steps := 3 }
def c6 : CheckSlot := { c2 with st := 6, checker := 7, second := 8, flips := [(0, 1#576),(7, 5#576)] }
def c4 : State := ck [] { c2 with st := 4, steps := 0, checker := 7 }
def ckAt (k : Nat) (s : State) : Nat := if (checkSlot k s).st = 4 then (checkSlot k s).checker else (checkSlot k s).second
abbrev Own (k : Nat) (flips : List (Fin 2048 × L576)) (s : State) : Prop := flipped (setImage (ckAt k s) (checkSlot k s).set (checkRun k (ckAt k s) s).2).fst (flips.map fun e => (↑e.fst, e.snd)) = flipped (setImage (ckAt k s) (checkSlot k s).set (checkRun k (ckAt k s) s).2).fst (checkSlot k s).flips
abbrev namedOf (k : Nat) (flips : List (Fin 2048 × L576)) (s : State) : List Nat :=
  if Own k flips s then [(checkSlot k s).tile]
  else if flipped (setImage (ckAt k s) (checkSlot k s).set (checkRun k (ckAt k s) s).2).fst (flips.map fun e => (↑e.fst, e.snd)) = (closingImage k s).fst ∧ (setImage (ckAt k s) (checkSlot k s).set (checkRun k (ckAt k s) s).2).snd = (closingImage k s).snd then [(checkSlot k s).checker]
  else [(checkSlot k s).tile, (checkSlot k s).checker]

theorem own_of {k : Nat} {s : State} {fs : List (Fin 2048 × L576)} (h : (fs.map fun e => ((e.fst : Nat), e.snd)) = (checkSlot k s).flips) : Own k fs s := congrArg (flipped _) h
theorem named_own {k : Nat} {s : State} {fs : List (Fin 2048 × L576)} (h : Own k fs s) : namedOf k fs s = [(checkSlot k s).tile] := if_pos h
def sus (n st : Nat) : State := setPoss 0 { st := st, tile := 9 } (ck [(ITG_TILE_CTRL_suspect_count, 5, n), (ITG_CONTROL_suspect_limit, 0, 4), (ITG_STATUS_enabled, 0, 160)] c6)

theorem test_meets_ChecksOfSampledPasses :
    (∃ (k : Fin 16) (s : State), (Calm s) ∧ ((checkSlot (k.val) s).st = 2) ∧ (PlainMem s) ∧ ((lrow (checkSlot (k.val) s).tile s).accErr = []) ∧ ((checkSlot (k.val) s).tile < 168) ∧ (mapped (slotAddr (k.val) s + 337408) (wordBytes (lrow (checkSlot (k.val) s).tile s) (checkSlot (k.val) s).set ++ tagBytes (lrow (checkSlot (k.val) s).tile s) (checkSlot (k.val) s).set ++ leBytes ((checkSlot (k.val) s).tile % 256 + (checkSlot (k.val) s).steps * 2 ^ 8) 8 ++ leBytes (countOf (checkSlot (k.val) s).tile (checkSlot (k.val) s).set s) 8 ++ floorBytes (lrow (checkSlot (k.val) s).tile s) (checkSlot (k.val) s).set ++ leBytes ((checkSlot (k.val) s).cmd.getD 0) 8).length s = true)) ∧
    (∃ (k : Fin 16) (s : State), (Calm s) ∧ ((checkSlot (k.val) s).st ≠ 2)) ∧
    (∃ (k : Fin 16) (s : State) (x : Nat), (Calm s) ∧ ((checkSlot (k.val) s).st = 3 ∨ (checkSlot (k.val) s).st = 5) ∧ (PlainMem s) ∧ (chooseChecker (k.val) s = some x) ∧ (rd PWR_TILE_state x s = 0)) ∧
    (∃ (k : Fin 16) (s : State), (Calm s) ∧ ((checkSlot (k.val) s).st ≠ 3 ∧ (checkSlot (k.val) s).st ≠ 5 ∨ chooseChecker (k.val) s = none)) ∧
    (∃ (k : Fin 16) (s : State) (flips : List (Fin 2048 × L576)), (Calm s) ∧ ((checkSlot (↑k) s).st = 4 ∨ (checkSlot (↑k) s).st = 6) ∧ (checkHeld (ckAt (↑k) s) s = true)) ∧
    (∃ (k : Fin 16) (s : State) (flips : List (Fin 2048 × L576)), (Calm s) ∧ ((checkSlot (↑k) s).st = 4) ∧ ((ckAt (↑k) s) < 168) ∧ (checkHeld (ckAt (↑k) s) s = false) ∧ ((lrow (ckAt (↑k) s) s).sample = none) ∧ ((lrow (ckAt (↑k) s) s).accErr = []) ∧ (PlainMem s)) ∧
    (∃ (k : Fin 16) (s : State) (flips : List (Fin 2048 × L576)), (Calm s) ∧ ((checkSlot (↑k) s).st = 6) ∧ ((ckAt (↑k) s) < 168) ∧ (checkHeld (ckAt (↑k) s) s = false) ∧ ((lrow (ckAt (↑k) s) s).sample = none) ∧ ((lrow (ckAt (↑k) s) s).accErr = []) ∧ (PlainMem s) ∧ (Own (↑k) flips s) ∧ ((checkSlot (↑k) s).tile < 168) ∧ (ctrl (checkSlot (↑k) s).tile s = 4) ∧ ((checkSlot (↑k) s).cmd = none)) ∧
    (∃ (k : Fin 16) (s : State) (flips : List (Fin 2048 × L576)), (Calm s) ∧ ((checkSlot (↑k) s).st = 6) ∧ ((ckAt (↑k) s) < 168) ∧ (checkHeld (ckAt (↑k) s) s = false) ∧ ((lrow (ckAt (↑k) s) s).sample = none) ∧ ((lrow (ckAt (↑k) s) s).accErr = []) ∧ (PlainMem s) ∧ ((checkSlot (↑k) s).tile < 168) ∧ ((checkSlot (↑k) s).checker < 168) ∧ ((checkSlot (↑k) s).checker ≠ (checkSlot (↑k) s).tile) ∧ (∀ (y : Nat), (y ∈ namedOf (↑k) flips s) → ctrl y s = 0 ∨ ctrl y s = 3) ∧ (∀ (y : Nat), (y ∈ namedOf (↑k) flips s) → min (rd ITG_TILE_CTRL_suspect_count y s + 1) (2 ^ ITG_TILE_CTRL_suspect_count.w - 1) < rd ITG_CONTROL_suspect_limit 0 s ∧ (poss (dieOfTile y) s).st ≥ 2 ∧ (poss (dieOfTile y) s).tile ≠ y)) ∧
    (∃ (k : Fin 16) (s : State) (flips : List (Fin 2048 × L576)), (Calm s) ∧ ((checkSlot (↑k) s).st = 6) ∧ ((ckAt (↑k) s) < 168) ∧ (checkHeld (ckAt (↑k) s) s = false) ∧ ((lrow (ckAt (↑k) s) s).sample = none) ∧ ((lrow (ckAt (↑k) s) s).accErr = []) ∧ (PlainMem s) ∧ ((checkSlot (↑k) s).tile < 168) ∧ ((checkSlot (↑k) s).checker < 168) ∧ ((checkSlot (↑k) s).checker ≠ (checkSlot (↑k) s).tile) ∧ (∀ (y : Nat), (y ∈ namedOf (↑k) flips s) → ctrl y s = 0 ∨ ctrl y s = 3) ∧ (Own (↑k) flips s) ∧ (min (rd ITG_TILE_CTRL_suspect_count (checkSlot (↑k) s).tile s + 1) (2 ^ ITG_TILE_CTRL_suspect_count.w - 1) < rd ITG_CONTROL_suspect_limit 0 s) ∧ ((poss (dieOfTile (checkSlot (↑k) s).tile) s).st ≤ 1) ∧ ((ckAt (↑k) s) ≠ (checkSlot (↑k) s).tile) ∧ ((lrow (checkSlot (↑k) s).tile s).sample = none) ∧ (checking (checkSlot (↑k) s).tile s = false) ∧ (coreState (checkSlot (↑k) s).tile s ≤ 3) ∧ ((lrow (checkSlot (↑k) s).tile s).restBusy = none) ∧ (rd PWR_TILE_state (checkSlot (↑k) s).tile s = 0) ∧ ((lrow (checkSlot (↑k) s).tile s).suspBusy = none) ∧ (on TIL_LR_STATUS_suspended (checkSlot (↑k) s).tile s = false) ∧ (recCheck (checkSlot (↑k) s).tile (saveAddr (checkSlot (↑k) s).tile s) s = 0)) ∧
    (∃ (k : Fin 16) (s : State) (flips : List (Fin 2048 × L576)), (Calm s) ∧ ((checkSlot (↑k) s).st = 6) ∧ ((ckAt (↑k) s) < 168) ∧ (checkHeld (ckAt (↑k) s) s = false) ∧ ((lrow (ckAt (↑k) s) s).sample = none) ∧ ((lrow (ckAt (↑k) s) s).accErr = []) ∧ (PlainMem s) ∧ ((checkSlot (↑k) s).tile < 168) ∧ ((checkSlot (↑k) s).checker < 168) ∧ ((checkSlot (↑k) s).checker ≠ (checkSlot (↑k) s).tile) ∧ (∀ (y : Nat), (y ∈ namedOf (↑k) flips s) → ctrl y s = 0 ∨ ctrl y s = 3) ∧ (Own (↑k) flips s) ∧ (min (rd ITG_TILE_CTRL_suspect_count (checkSlot (↑k) s).tile s + 1) (2 ^ ITG_TILE_CTRL_suspect_count.w - 1) ≥ rd ITG_CONTROL_suspect_limit 0 s) ∧ ((poss (dieOfTile (checkSlot (↑k) s).tile) s).st = 0 ∨ (poss (dieOfTile (checkSlot (↑k) s).tile) s).tile ≠ (checkSlot (↑k) s).tile) ∧ (Unserved (checkSlot (↑k) s).tile s) ∧ (∀ (j : Nat), j < 16 → j ≠ ↑k → checkSlot j s = { }) ∧ ((ckAt (↑k) s) ≠ (checkSlot (↑k) s).tile) ∧ ((lrow (checkSlot (↑k) s).tile s).sample = none)) ∧
    (∃ (k : Fin 16) (s : State), (Calm s) ∧ ((checkSlot (↑k) s).st ≥ 3) ∧ (∀ (x : Nat), runner (checkSlot (↑k) s) = some x → x < 168 ∧ (lrow x s).sample = none)) ∧
    (∃ (k : Fin 16) (s : State), (Calm s) ∧ ((checkSlot (k.val) s).st < 3)) :=
  ⟨⟨2, (ck [] c2), by decide +kernel, by decide +kernel, by decide +kernel, by decide +kernel, by decide +kernel, by simp only [List.length_append, wordBytes_length, tagBytes_length, floorBytes_length, leBytes_length]; decide +kernel⟩,
   ⟨2, (ck [] { c2 with st := 3}), by decide +kernel⟩,
   ⟨2, (ck [] { c2 with st := 3}), (((chooseChecker 2 (ck [] { c2 with st := 3})).getD 0)), by decide +kernel⟩,
   ⟨2, (ck [] c2), by decide +kernel⟩,
   ⟨2, (ck [(TIL_CORE_STATUS_state, 7, 1)] { c2 with st := 4, steps := 0, checker := 7}), [], by decide +kernel⟩,
   ⟨2, c4, [], by decide +kernel⟩,
   ⟨2, (ck [(ITG_TILE_CTRL_state, 5, 4)] c6), flips, by decide +kernel, by decide +kernel, by decide +kernel, by decide +kernel, by decide +kernel, by decide +kernel, by decide +kernel, own_of (by decide +kernel), by decide +kernel⟩,
   ⟨2, (sus 1 3), flips, by decide +kernel, by decide +kernel, by decide +kernel, by decide +kernel, by decide +kernel, by decide +kernel, by decide +kernel, by decide +kernel, by decide +kernel, by decide +kernel, by rw [named_own (own_of (by decide +kernel))]; decide +kernel⟩,
   ⟨2, (sus 1 0), flips, by decide +kernel, by decide +kernel, by decide +kernel, by decide +kernel, by decide +kernel, by decide +kernel, by decide +kernel, by decide +kernel, by decide +kernel, by decide +kernel, by rw [named_own (own_of (by decide +kernel))]; decide +kernel, own_of (by decide +kernel), by decide +kernel⟩,
   ⟨2, (sus 3 0), flips, by decide +kernel, by decide +kernel, by decide +kernel, by decide +kernel, by decide +kernel, by decide +kernel, by decide +kernel, by decide +kernel, by decide +kernel, by decide +kernel, by rw [named_own (own_of (by decide +kernel))]; decide +kernel, own_of (by decide +kernel), by decide +kernel⟩,
   ⟨2, (ck [] { c2 with st := 3}), by decide +kernel⟩,
   ⟨2, (ck [] c2), by decide +kernel⟩⟩

end Checks

namespace Possess

def bs (l : List (Fld × Nat × Nat)) : State := base l
def ps (d : Nat) (l : List (Fld × Nat × Nat)) (p : Poss) : State := setPoss d p (bs ([(ITG_POSSESSIONS_count, 0, 2^32-1), (ITG_POSS_BASE_base, 0, 200), (ITG_POSS_BASE_base, 1, 201), (ITG_STATUS_enabled, 0, 168)] ++ l))
def np (s : State) : State := { s with storeErr := [(1,2)] }
def pt (d : Nat) (s : State) := (possNext d s).getD (0,false,false)

theorem test_meets_PossessionsAndFailedTiles :
    (∃ (d : Fin 2) (s : State) (x : Nat) (f : Bool) (c : Bool), (Calm s) ∧ ((poss (d.val) s).st = 0) ∧ (possNext (d.val) s = some (x, f, c))) ∧
    (∃ (d : Fin 2) (s : State), (Calm s) ∧ ((poss (d.val) s).st = 1) ∧ ((poss (d.val) s).rounds = 0)) ∧
    (∃ (d : Fin 2) (s : State), (Calm s) ∧ ((poss (d.val) s).st = 1) ∧ ((poss (d.val) s).rounds ≥ 1)) ∧
    (∃ (d : Fin 2) (s : State), (Calm s) ∧ ((poss (d.val) s).st ≥ 2)) ∧
    (∃ (d : Fin 2) (s : State), (Calm s) ∧ ((poss (d.val) s).st = 1) ∧ ((poss (d.val) s).tile < 168) ∧ ((lrow (poss (d.val) s).tile s).sample = none) ∧ (checking (poss (d.val) s).tile s = false) ∧ (coreState (poss (d.val) s).tile s = 0) ∧ ((holder (poss (d.val) s).tile s).isNone = true) ∧ ((lrow (poss (d.val) s).tile s).restBusy = none) ∧ (rd PWR_TILE_state (poss (d.val) s).tile s = 0) ∧ ((lrow (poss (d.val) s).tile s).suspBusy = none) ∧ (on TIL_LR_STATUS_suspended (poss (d.val) s).tile s = false) ∧ (recCheck (poss (d.val) s).tile (saveAddr (poss (d.val) s).tile s) s = 0)) ∧
    (∃ (d : Fin 2) (s : State), (Calm s) ∧ ((poss (d.val) s).st ≠ 1)) ∧
    (∃ (d : Fin 2) (s : State) (g : Byte) (tr : BitVec 5) (dr : Byte), (Calm s) ∧ ((poss (d.val) s).st = 3) ∧ ((poss (d.val) s).tile < 168) ∧ (dieOfTile (poss (d.val) s).tile = d.val) ∧ (PlainMem s)) ∧
    (∃ (d : Fin 2) (s : State) (g : Byte) (tr : BitVec 5) (dr : Byte), (Calm s) ∧ ((poss (↑d) s).st = 3) ∧ ((poss (↑d) s).tile < 168) ∧ (dieOfTile (poss (↑d) s).tile = ↑d) ∧ (ctrl (poss (↑d) s).tile s = 2) ∧ ((poss (↑d) s).cal = true → 4 ≤ BitVec.toNat g) ∧ (Unserved (poss (↑d) s).tile s) ∧ (s.checks = []) ∧ ((lrow (poss (↑d) s).tile s).sample = none)) ∧
    (∃ (d : Fin 2) (s : State), (Calm s) ∧ ((poss (d.val) s).st = 4) ∧ ((poss (d.val) s).tile < 168) ∧ ((poss (d.val) s).core < 4) ∧ (restorable (poss (d.val) s).tile s = true)) ∧
    (∃ (d : Fin 2) (s : State), (Calm s) ∧ ((poss (d.val) s).st ≠ 4)) ∧
    (∃ (d : Fin 2) (s : State) (x : Byte) (f : Bool) (c : Bool), (Calm s) ∧ (Answers s) ∧ (BitVec.toNat x ≥ 168 ∨ ctrl (BitVec.toNat x) s = 4 ∨ ctrl (BitVec.toNat x) s = 5)) ∧
    (∃ (d : Fin 2) (s : State) (x : Byte) (f : Bool) (c : Bool), (Calm s) ∧ (Answers s) ∧ (BitVec.toNat x < 168) ∧ (ctrl (BitVec.toNat x) s ≠ 4) ∧ (ctrl (BitVec.toNat x) s ≠ 5) ∧ (f = false)) ∧
    (∃ (d : Fin 2) (s : State), (Sound s) ∧ (Quiet (setPoss ↑d { st := (poss (↑d) s).st, tile := (poss (↑d) s).tile, prev := (poss (↑d) s).prev, core := (poss (↑d) s).core, cal := (poss (↑d) s).cal, rounds := (poss (↑d) s).rounds, trim := (poss (↑d) s).trim, droop := (poss (↑d) s).droop, away := (poss (↑d) s).away, epc := (poss (↑d) s).epc, step := (poss (↑d) s).step, defer := (poss (↑d) s).defer, bad := (poss (↑d) s).bad, takes := (poss (↑d) s).takes } s)) ∧ ((poss (↑d) s).st = 1) ∧ ((poss (↑d) s).forced = true) ∧ ((poss (↑d) s).tile < 168) ∧ ((lrow (poss (↑d) s).tile s).sample = none) ∧ (checking (poss (↑d) s).tile s = false) ∧ (coreState (poss (↑d) s).tile s ≤ 3) ∧ ((lrow (poss (↑d) s).tile s).restBusy = none) ∧ (rd PWR_TILE_state (poss (↑d) s).tile s = 0) ∧ ((lrow (poss (↑d) s).tile s).suspBusy = none) ∧ (on TIL_LR_STATUS_suspended (poss (↑d) s).tile s = false) ∧ (recCheck (poss (↑d) s).tile (saveAddr (poss (↑d) s).tile s) s = 0)) ∧
    (∃ (t : TileN) (s : State), (Calm s) ∧ (ctrl (↑t) s = 0 ∨ ctrl (↑t) s = 3) ∧ ((poss (dieOfTile ↑t) s).st = 0 ∨ (poss (dieOfTile ↑t) s).tile ≠ ↑t) ∧ (Unserved (↑t) s) ∧ (s.checks = []) ∧ ((lrow (↑t) s).sample = none) ∧ (Answers s)) ∧
    (∃ (t : TileN) (s : State), (Calm s) ∧ (ctrl (↑t) s = 0 ∨ ctrl (↑t) s = 3) ∧ ((poss (dieOfTile ↑t) s).st = 0 ∨ (poss (dieOfTile ↑t) s).tile ≠ ↑t) ∧ (Unserved (↑t) s) ∧ (s.checks = []) ∧ ((lrow (↑t) s).sample = none) ∧ (coreState (↑t) s = 1 ∨ coreState (↑t) s = 2 ∨ coreState (↑t) s = 4 ∨ ↑t ∈ s.itg.halting)) ∧
    (∃ (t : TileN) (s : State), (Calm s) ∧ (ctrl (t.val) s = 4 ∨ ctrl (t.val) s = 5)) ∧
    (∃ (t : TileN) (s : State), (Calm s) ∧ (coreState (↑t) s = 0 ∨ coreState (↑t) s = 3 ∨ coreState (↑t) s = 5) ∧ (¬↑t ∈ s.itg.halting)) ∧
    (∃ (t : TileN) (s : State), (Calm s) ∧ (Answers s)) :=
  ⟨⟨0, (ps 0 [] {}), ((pt 0 (ps 0 [] {})).1), ((pt 0 (ps 0 [] {})).2.1), ((pt 0 (ps 0 [] {})).2.2), by decide +kernel⟩,
   ⟨1, (ps 1 [] {st := 1, tile := 88}), by decide +kernel⟩,
   ⟨1, (ps 1 [] {st := 1, tile := 88, rounds := 1}), by decide +kernel⟩,
   ⟨1, (ps 1 [(ITG_TILE_CTRL_state, 99, 4)] {st := 2, tile := 88, rounds := 1, forced := true}), by decide +kernel⟩,
   ⟨1, (ps 1 [] {st := 1, tile := 88}), by decide +kernel⟩,
   ⟨0, (ps 0 [] {}), by decide +kernel⟩,
   ⟨1, (ps 1 [(ITG_TILE_CTRL_state, 88, 2)] {st := 3, tile := 88, rounds := 1, forced := true}), 1, 31, 255, by decide +kernel⟩,
   ⟨1, (ps 1 [(ITG_TILE_CTRL_state, 88, 2)] {st := 3, tile := 88, rounds := 1, forced := true}), 1, 31, 255, by decide +kernel⟩,
   ⟨0, (ps 0 [(ITG_TILE_CTRL_state, 10, 2), (TIL_CORE_STATUS_state, 10, 5)] {st := 4, tile := 10, prev := 1}), by decide +kernel⟩,
   ⟨0, (ps 0 [] {}), by decide +kernel⟩,
   ⟨1, (ps 1 [(ITG_TILE_CTRL_state, 99, 4)] {st := 2, tile := 88, rounds := 1, forced := true}), 99, false, false, by decide +kernel⟩,
   ⟨0, (ps 0 [] {}), ((pt 0 (ps 0 [] {})).1), ((pt 0 (ps 0 [] {})).2.1), ((pt 0 (ps 0 [] {})).2.2), by decide +kernel⟩,
   ⟨1, (ps 1 [(TIL_CORE_STATUS_state, 88, 1)] {st := 1, tile := 88, rounds := 1, forced := true}), by decide +kernel⟩,
   ⟨8, (ps 0 [(TIL_CORE_STATUS_state, 8, 1), (ITG_TILE_CTRL_state, 84, 1), (ITG_TILE_CTRL_state, 85, 1)] {}), by decide +kernel⟩,
   ⟨8, (ps 0 [(TIL_CORE_STATUS_state, 8, 1), (ITG_TILE_CTRL_state, 84, 1), (ITG_TILE_CTRL_state, 85, 1)] {}), by decide +kernel⟩,
   ⟨88, (ps 0 [(TIL_CORE_STATUS_state, 88, 3), (ITG_TILE_CTRL_state, 88, 4), (ITG_STATUS_replay_pending, 0, 1)] {}), by decide +kernel⟩,
   ⟨88, (ps 0 [(TIL_CORE_STATUS_state, 88, 3), (ITG_TILE_CTRL_state, 88, 4), (ITG_STATUS_replay_pending, 0, 1)] {}), by decide +kernel⟩,
   ⟨8, (ps 0 [(TIL_CORE_STATUS_state, 8, 1), (ITG_TILE_CTRL_state, 84, 1), (ITG_TILE_CTRL_state, 85, 1)] {}), by decide +kernel⟩⟩

end Possess

namespace Boxes

def bs (l : List (Fld × Nat × Nat)) : State := base l
def ps (l : List (Fld × Nat × Nat)) (i : List (Nat × Nat)) : State := { bs ((PWR_WAKES_count, 0, 2^32-1) :: (MST_RETRAINS_count, 4, 2^64-1) :: l) with power := { (bs []).power with isl := i } }

theorem test_meets_BoxesAndTrace :
    (∃ (n : Fin 224) (s : State), (Sound s) ∧ (Answers s)) ∧
    (∃ (n : Fin 224) (s : State) (j : Nat), (Sound s) ∧ (j < 256)) ∧
    (∃ (n : Fin 224) (s : State) (code : Nat) (detail : Nat) (arg : Nat), (Sound s) ∧ (on DBG_BOX_HEAD_freeze (n.val) s = true)) ∧
    (∃ (n : Fin 224) (s : State) (code : Nat) (detail : Nat) (arg : Nat), (Sound s) ∧ (on DBG_BOX_HEAD_freeze (↑n) s = false)) ∧
    (∃ (n : Fin 224) (s : State) (code : Nat) (detail : Nat) (arg : Nat) (j : Nat), (Sound s) ∧ (on DBG_BOX_HEAD_freeze (n.val) s = false) ∧ (j < 256) ∧ (j ≠ rd DBG_BOX_HEAD_count (n.val) s % 256)) ∧
    (∃ (d : Fin 2) (s : State), (Sound s) ∧ (Answers s)) :=
  ⟨⟨223, bs [(DBG_BOX_HEAD_freeze, 223, 1)], by decide +kernel⟩,
   ⟨223, (bs [(DBG_BOX_HEAD_count, 223, 2^32-1), (DBG_BOX_HEAD_lost, 223, 7)]), 255, by decide +kernel⟩,
   ⟨3, (bs [(DBG_BOX_HEAD_freeze, 3, 1), (DBG_BOX_HEAD_lost, 3, 2^24-1), (DBG_BOX_HEAD_lost, 4, 3)]), 3, 5, 3, by decide +kernel⟩,
   ⟨3, (bs [(DBG_BOX_HEAD_lost, 3, 2^24-1)]), 3, 5, 3, by decide +kernel⟩,
   ⟨223, (bs [(DBG_BOX_HEAD_count, 223, 2^32-1), (DBG_BOX_HEAD_lost, 223, 7)]), 300, 5, (2^48+3), 254, by decide +kernel⟩,
   ⟨1, (bs [(DBG_TRACE_WP_offset, 1, 99), (DBG_TRACE_WP_wrapped, 1, 1)]), by decide +kernel⟩⟩

theorem test_meets_PowerControl :
    (∃ (t : TileN) (s : State), (Sound s)) ∧
    (∃ (x : Island) (s : State), (Sound s) ∧ (season s < 4) ∧ (stationClock s = true) ∧ (islState x s ≠ 4) ∧ (islState x s < seasonState x (season s)) ∧ (islIdle x s = true) ∧ (cutHolds x s = false)) ∧
    (∃ (x : Island) (s : State), (Sound s) ∧ (season s < 4) ∧ (stationClock s = false ∨ islState x s = 4 ∨ seasonState x (season s) ≤ islState x s ∨ islIdle x s = false ∨ cutHolds x s = true)) ∧
    (∃ (x : Island) (s : State), (Sound s) ∧ (season s < 4) ∧ (stationClock s = true) ∧ (islState x s ≠ 0) ∧ (islState x s ≠ 4)) ∧
    (∃ (x : Island) (s : State), (Sound s) ∧ (season s < 4) ∧ (stationClock s = false ∨ islState x s = 0 ∨ islState x s = 4)) ∧
    (∃ (x : Island) (s : State), (Sound s) ∧ (season s < 4) ∧ (stationClock s = true) ∧ (islState x s = 4)) ∧
    (∃ (x : Island) (s : State), (Sound s) ∧ (season s < 4) ∧ (stationClock s = false ∨ islState x s ≠ 4)) :=
  ⟨⟨7, ({ bs [] with power := { (bs []).power with droop := [(7, true), (9, true)] } }), by decide +kernel⟩,
   ⟨(.tile 3), (ps [(PWR_STATUS_season, 0, 3)] []), by decide +kernel⟩,
   ⟨(.tile 3), (ps [(PWR_STATUS_season, 0, 3), (TIL_CORE_STATUS_state, 3, 1)] []), by decide +kernel⟩,
   ⟨(.tile 3), (ps [(PWR_STATUS_season, 0, 3), (PWR_TILE_state, 3, 3)] [(4, 2)]), by decide +kernel⟩,
   ⟨(.tile 3), (ps [(PWR_STATUS_season, 0, 3)] []), by decide +kernel⟩,
   ⟨(.cxl 1), (ps [(PWR_STATUS_season, 0, 3), (SHN_CH_STATUS_state, 3, 1)] [(33, 4)]), by decide +kernel⟩,
   ⟨(.tile 3), (ps [(PWR_STATUS_season, 0, 3)] []), by decide +kernel⟩⟩

end Boxes

namespace Supply

def bs (l : List (Fld × Nat × Nat)) : State := base l
def pb (l : List (Fld × Nat × Nat)) (p : PowerSt) : State := { bs ([(PWR_CONTROL_sustain_w, 0, 1000), (PWR_CONTROL_peak_w, 0, 1500)] ++ l) with power := p }
def sen (now : BitVec 12) (w e : Byte) : Sensors := { now := now, west := 1, east := 2, hotW := w, hotE := e, temps := [(3, 44)], inlet := 45, outlet := 50, flow := 240, vin := 500 }
def ph (p : PhysSt) : State := { bs [] with phys := p, boot := { pcie := true, fuses := { svn := 3 } }, host := { cmds := [{ id := 1, entry := [] }] } }

theorem test_meets_PowerControl :
    (∃ (x : Sensors) (s : State), (Calm s) ∧ (stationClock s = false)) ∧
    (∃ (x : Sensors) (s : State), (Calm s) ∧ (stationClock s = true) ∧ (tripNow x = true)) ∧
    (∃ (x : Sensors) (s : State), (Calm s) ∧ (stationClock s = true) ∧ (tripNow x = false) ∧ (BitVec.toNat x.hotW < rd PWR_THERMAL_suspend_c 0 s ∧ BitVec.toNat x.hotE < rd PWR_THERMAL_suspend_c 0 s) ∧ (s.power.rows = []) ∧ (rd PWR_STATUS_susp_w 0 s = 0) ∧ (rd PWR_STATUS_susp_e 0 s = 0) ∧ (season s ≤ min (tolSeason (rd PWR_WAKE_tol_ns 0 s)) (rd PWR_CONTROL_max_season 0 s)) ∧ (BitVec.toNat x.hotW < rd PWR_THERMAL_throttle_c 0 s ∧ BitVec.toNat x.hotE < rd PWR_THERMAL_throttle_c 0 s) ∧ (BitVec.toNat x.hotW < rd PWR_THERMAL_warn_c 0 s ∧ BitVec.toNat x.hotE < rd PWR_THERMAL_warn_c 0 s) ∧ (240 ≤ x.flow.toNat) ∧ (BitVec.toNat x.inlet ≤ 45) ∧ (x.now.toNat ≤ rd PWR_CONTROL_sustain_w 0 s) ∧ (x.now.toNat < rd PWR_CONTROL_sustain_w 0 s ∨ s.power.overTicks < 8000) ∧ (x.now.toNat ≤ rd PWR_CONTROL_peak_w 0 s) ∧ (List.foldl (fun x1 x2 => x1 + x2) 0 (x.now.toNat :: List.take 999999 s.power.draws) * 100 ≤ 98 * rd PWR_CONTROL_sustain_w 0 s * (x.now.toNat :: List.take 999999 s.power.draws).length) ∧ (level 0 s < 15) ∧ (level 1 s < 15)) ∧
    (∃ (x : Sensors) (s : State), (Calm s) ∧ (stationClock s = true) ∧ (tripNow x = false) ∧ (BitVec.toNat x.hotW < rd PWR_THERMAL_suspend_c 0 s ∧ BitVec.toNat x.hotE < rd PWR_THERMAL_suspend_c 0 s) ∧ (s.power.rows = []) ∧ (rd PWR_STATUS_susp_w 0 s = 0) ∧ (rd PWR_STATUS_susp_e 0 s = 0) ∧ (season s ≤ min (tolSeason (rd PWR_WAKE_tol_ns 0 s)) (rd PWR_CONTROL_max_season 0 s)) ∧ (rd PWR_CONTROL_peak_w 0 s < x.now.toNat) ∧ (Map.get (fun x => 0) s.power.top 0 < 999) ∧ (Map.get (fun x => 0) s.power.top 1 < 999)) :=
  ⟨⟨(sen 1501 60 115), ({ pb [] {} with phys := { refs := 6 }, boot := { attach := some (1, [], false), flash := [3] } }), by decide +kernel⟩,
   ⟨(sen 1501 60 115), (pb [(PWR_STATUS_level_w, 0, 15)] {top := [(0, 998)]}), by decide +kernel⟩,
   ⟨(sen 900 60 60), (pb [] {}), by decide +kernel⟩,
   ⟨(sen 1501 60 60), (pb [(PWR_STATUS_level_w, 0, 14)] {top := [(0, 998)]}), by decide +kernel⟩⟩

theorem test_meets_SupplyAndBoard :
    (∃ (s : State), (s.phys.conv = 0) ∧ (s.phys.overV = false)) ∧
    (∃ (s : State), (s.phys.conv ≠ 0 ∨ s.phys.overV = true)) ∧
    (∃ (s : State), (s.phys.conv = 1)) ∧
    (∃ (s : State), (s.phys.conv ≠ 1)) ∧
    (∃ (s : State), (s.phys.overV = true)) ∧
    (∃ (s : State), (s.phys.overV = false)) ∧
    (∃ (s : State), (s.phys.trip = false)) ∧
    (∃ (s : State), (s.phys.trip = true)) ∧
    (∃ (s : State) (o : BusAt) (n : Byte), (o.addr.toNat ≠ 96 + s.phys.straps % 4 ∨ s.phys.conv ≠ 2 ∨ s.phys.trip = true)) ∧
    (∃ (s : State) (o : BusAt) (n : Byte), (o.addr.toNat = 96 + s.phys.straps % 4) ∧ (s.phys.conv = 2) ∧ (s.phys.trip = false)) ∧
    (∃ (s : State), (Sound s) ∧ (s.phys.conv = 2) ∧ (s.phys.trip = false)) ∧
    (∃ (s : State), (Sound s) ∧ (s.phys.trip = false)) ∧
    (∃ (s : State), (s.phys.conv ≠ 2 ∨ s.phys.trip = true)) ∧
    (∃ (s : State), (Calm s)) ∧
    (∃ (s : State), (Calm s) ∧ (s.boot.pcie = false)) ∧
    (∃ (s : State), (Calm s) ∧ (s.boot.pcie = true)) ∧
    (∃ (s : State), (Calm s) ∧ (∀ (q : Nat), q < 16 → portState q s = 0)) :=
  ⟨⟨(ph {conv := 0}), by decide +kernel⟩,
   ⟨(ph {}), by decide +kernel⟩,
   ⟨(ph {conv := 1}), by decide +kernel⟩,
   ⟨(ph {}), by decide +kernel⟩,
   ⟨(ph {conv := 0, overV := true, low := true, refs := 3}), by decide +kernel⟩,
   ⟨(ph {}), by decide +kernel⟩,
   ⟨(ph {}), by decide +kernel⟩,
   ⟨(ph {conv := 2, trip := true, leak := true, refs := 0}), by decide +kernel⟩,
   ⟨ph { straps := 2 }, ⟨0x60, 0⟩, 4, by decide +kernel⟩,
   ⟨ph { straps := 3 }, ⟨0x63, 0x13⟩, 2, by decide +kernel⟩,
   ⟨(ph {}), by decide +kernel⟩,
   ⟨(ph {}), by decide +kernel⟩,
   ⟨(ph {conv := 0}), by decide +kernel⟩,
   ⟨(ph {conv := 0}), by decide +kernel⟩,
   ⟨({ State.reset with phys := {conv := 2, leak := true} }), by decide +kernel⟩,
   ⟨(ph {}), by decide +kernel⟩,
   ⟨({ State.reset with phys := {conv := 2, leak := true} }), by decide +kernel⟩⟩

end Supply

namespace Boots

def bt (st : Nat) (l : List (Fld × Nat × Nat)) (b : BootSt) : State := { fl ((BTC_STATUS_stage, 0, st) :: l) State.reset with boot := b }
def tz : Trained := { bridge := true, devices := 15, ids := [0,0,0,0], cxlUp := 0, cxlSlow := 0, cxlIds := [], cxlCap := [], firmware := 15 }

theorem test_meets_BootStages :
    (∃ (s : State), (Sound s) ∧ (stage s = 0) ∧ (s.phys.conv = 2) ∧ (s.phys.trip = false) ∧ (s.phys.perst = false)) ∧
    (∃ (s : State), (Sound s) ∧ (stage s ≠ 0 ∨ s.phys.conv ≠ 2 ∨ s.phys.trip = true ∨ s.phys.perst = true)) ∧
    (∃ (s : State), (Sound s) ∧ (stage s ≠ 0) ∧ (s.phys.refs.testBit 1 = true)) ∧
    (∃ (s : State), (Sound s) ∧ (stage s = 1 ∨ stage s = 2)) ∧
    (∃ (s : State), (Sound s) ∧ (stage s = 1 ∨ stage s = 2) ∧ ((s.boot.flash.all fun x => x == 255#8) = true)) ∧
    (∃ (s : State), (Sound s) ∧ (stage s = 1 ∨ stage s = 2) ∧ ((s.boot.flash.all fun x => x == 255#8) = false)) ∧
    (∃ (s : State), (Sound s) ∧ (stage s = 1 ∨ stage s = 2) ∧ (s.boot.flash.length ≤ 201326592)) ∧
    (∃ (s : State) (p : PortN) (n : StationN) (t : TileN) (ch : ChanN) (b : Bool) (x : Fin 224) (d : Fin 2) (v : U64) (m : U64) (e : Option (Fin 64)) (id : BitVec 16) (y : Byte) (i : Instr), (Sound s) ∧ (Calm s) ∧ (stage s = 7) ∧ (i ∈ [Instr.portEnable p b, Instr.portRetrain p, Instr.freezeAll, Instr.thawAll, Instr.boxFreezeWrite x b, Instr.traceEnable d b, Instr.scrubKick n, Instr.retrainReq n, Instr.consumed n, Instr.mapLatch b, Instr.stampWrite d, Instr.timetableWrite d e v m, Instr.rtimeWrite v, Instr.cutOrder id, Instr.cutAbandon, Instr.cutRestore, Instr.resync, Instr.itgPossReq y b b, Instr.tileFail t, Instr.replayDone, Instr.coreRun t, Instr.coreHalt t, Instr.coreSave t, Instr.coreRestore t, Instr.coreStep t, Instr.tilLrSuspendSuspend t, Instr.tilLrSuspendRestore t, Instr.shnStart ch, Instr.shnStartChain ch, Instr.shnStop ch, Instr.shnResume ch, Instr.shnClear ch])) ∧
    (∃ (s : State) (cal : List (TileN × BitVec 5 × Byte)), (Sound s) ∧ (stage s = 4)) ∧
    (∃ (s : State) (cal : List (TileN × BitVec 5 × Byte)) (t : TileN), (Sound s) ∧ (stage s = 4) ∧ (ctrl (t.val) s = 0) ∧ (∀ (x : Nat), x < 168 → ctrl x s ≠ 1) ∧ (129 ≤ enabledTiles s) ∧ (enabledTiles s < 256)) ∧
    (∃ (s : State) (x : Trained), (Sound s) ∧ (Calm s) ∧ (stage s = 5) ∧ (x.bridge = false)) ∧
    (∃ (s : State) (x : Trained), (Sound s) ∧ (Calm s) ∧ (stage s = 5) ∧ (x.bridge = true) ∧ (∀ (n : Nat), n < 28 → ((List.range 4).all fun d => x.devices.getLsbD (4 * n + d) && BitVec.toNat (x.ids.getD (4 * n + d) 0#64) == recNat (imRecord s.boot.image) (520 + 8 * (4 * n + d)) 8) = false)) ∧
    (∃ (s : State) (x : Trained), (Sound s) ∧ (Calm s) ∧ (stage s = 5) ∧ (x.bridge = true) ∧ (∃ n, n < 28 ∧ ((List.range 4).all fun d => x.devices.getLsbD (4 * n + d) && BitVec.toNat (x.ids.getD (4 * n + d) 0#64) == recNat (imRecord s.boot.image) (520 + 8 * (4 * n + d)) 8) = true)) ∧
    (∃ (s : State), (Sound s) ∧ (stage s = 6) ∧ (s.boot.fw ≠ 15) ∧ (rd BTC_STATUS_ready 0 s = 0)) ∧
    (∃ (s : State), (Sound s) ∧ (stage s ≠ 6 ∨ s.boot.fw = 15)) ∧
    (∃ (s : State) (d : List Byte), (Sound s) ∧ (stage s = 7)) ∧
    (∃ (s : State) (d : List Byte), (Sound s) ∧ (stage s = 7) ∧ (s.boot.fetched = some d)) ∧
    (∃ (s : State), (Sound s) ∧ (s.boot.fetched = none)) :=
  ⟨⟨(bt 0 [] {fuses := {serial := 2^64+5, svn := 70}}), by decide +kernel⟩,
   ⟨({ bt 0 [] {} with phys := {conv := 1} }), by decide +kernel⟩,
   ⟨(bt 1 [] {}), by decide +kernel⟩,
   ⟨(bt 1 [] {}), by decide +kernel⟩,
   ⟨(bt 1 [] {}), by decide +kernel⟩,
   ⟨(bt 2 [] {flash := [0xFF, 0xFE]}), by decide +kernel⟩,
   ⟨(bt 1 [] {}), by decide +kernel⟩,
   ⟨bt 7 [] {}, 5, 5, 3, 99, true, 223, 1, 0, 0, none, 7, 0, (.portEnable 5 true), by decide +kernel⟩,
   ⟨bt 4 [] {}, [(3, 31, 9)], by decide +kernel⟩,
   ⟨(bt 4 [(ITG_STATUS_enabled, 0, 160)] {flash := [0xFF, 0xFE]}), [(5, 3, 7)], 4, by decide +kernel⟩,
   ⟨(bt 5 [] {}), ({ tz with bridge := false }), by decide +kernel⟩,
   ⟨(bt 5 [(ULP_CONTROL_enable, 3, 1)] {}), ({ tz with ids := [0,0,0,1] }), by decide +kernel⟩,
   ⟨(bt 5 [(ITG_STATUS_enabled, 0, 127)] {flash := [0xFF, 0xFE]}), tz, by decide +kernel⟩,
   ⟨(bt 6 [] {}), by decide +kernel⟩,
   ⟨(bt 0 [] {fuses := {serial := 2^64+5, svn := 70}}), by decide +kernel⟩,
   ⟨(bt 7 [(BTC_REC_LEN_len, 0, 1), (BTC_REC_CONTROL_done, 0, 1)] {fw := 15, fetched := some [1,2]}), [1,2], by decide +kernel⟩,
   ⟨(bt 7 [(BTC_REC_LEN_len, 0, 1), (BTC_REC_CONTROL_done, 0, 1)] {fw := 15, fetched := some [1,2]}), [1,2], by decide +kernel⟩,
   ⟨(bt 0 [] {fuses := {serial := 2^64+5, svn := 70}}), by decide +kernel⟩⟩

end Boots

namespace Rings

def bs (l : List (Fld × Nat × Nat)) : State := withC (base ((BTC_STATUS_ready, 0, 1) :: l))
def en (op : Nat) : BitVec 1024 := BitVec.ofNat 1024 op
def cm : Cmd := { id := 3*2^58 + 4, entry := leBytes 1 8 ++ List.replicate 120 0, phase := 1 }
def rst (c : Cmd) (l : List (Fld × Nat × Nat)) : State := { bs l with host := { cmds := [c], seqs := [(3, 5)] }, mem := memOf [(64, [1,2])] }
def rg (l : List (Fld × Nat × Nat)) (cs : List Cmd) : State := { bs l with host := { cmds := cs }, mem := memOf [(64, [1,2])] }
def bw : State := { openAll (bs []) with bar2Size := 256, mem := [⟨255, 7⟩] }
def held1 : State := fl [(HST_CQ_TAIL_tail, 3, 255), (HST_RING_CONTROL_cq_log2_size, 3, 4)] { bs [] with host := { cqq := [(3, [⟨3, 0, 7, 0, false⟩])] } }

theorem test_meets_RingsResetsAndWindow :
    (∃ (k : RingN) (v : BitVec 16) (s : State), (Calm s)) ∧
    (∃ (k : RingN) (v : BitVec 16) (s : State), (Calm s) ∧ (cqWaiting (k.val % 4) s = [])) ∧
    (∃ (k : RingN) (v : BitVec 16) (s : State) (e : CqEnt), (Calm s) ∧ (cqWaiting (↑k % 4) s = [e]) ∧ (e.ring = ↑k) ∧ (cqHeld (↑k % 4) (wr HST_CQ_HEAD_head (↑k) v.toNat s) = false) ∧ (s.boot.masterOff = false)) ∧
    (∃ (k : RingN) (v : BitVec 16) (s : State) (entry : BitVec 1024), (Calm s) ∧ (fetchable (k.val) s = false)) ∧
    (∃ (k : RingN) (v : BitVec 16) (s : State) (entry : BitVec 1024), (Calm s) ∧ (fetchable (↑k) s = true) ∧ (seqOf (↑k) s < 2 ^ 58) ∧ (smTracing (↑k % 4) s = false)) ∧
    (∃ (k : RingN) (v : BitVec 16) (s : State) (c : Cmd), (Calm s) ∧ (s.host.cmds = [c]) ∧ (c.ranks = []) ∧ (CanEnd c s) ∧ (c.ring = k.val)) ∧
    (∃ (k : RingN) (v : BitVec 16) (s : State) (c : Cmd), (Calm s) ∧ (s.host.cmds = [c]) ∧ (c.ranks = []) ∧ (CanEnd c s)) ∧
    (∃ (down : Bool) (s : State), (Calm s) ∧ (s.cfgVals = [])) ∧
    (∃ (s : State) (o : Nat) (n : Nat), (Calm s) ∧ (PlainMem s) ∧ (bar2Open s = true) ∧ (o + n ≤ s.bar2Size ∧ mapped (rd HST_BAR2_BASE_base 0 s * 2 ^ 36 + o) n s = true ∧ protOk 2 (rd HST_BAR2_BASE_base 0 s * 2 ^ 36 + o) n true false s = true ∧ (false && progLocked (rd HST_BAR2_BASE_base 0 s * 2 ^ 36 + o) n s) = false ∧ wpHits 5 (rd HST_BAR2_BASE_base 0 s * 2 ^ 36 + o) n true false s = [] ∧ anyDown (rd HST_BAR2_BASE_base 0 s * 2 ^ 36 + o) n s = false)) ∧
    (∃ (s : State) (o : Nat) (d : List Byte), (Calm s) ∧ (PlainMem s) ∧ (bar2Open s = true) ∧ (o + d.length ≤ s.bar2Size ∧ mapped (rd HST_BAR2_BASE_base 0 s * 2 ^ 36 + o) d.length s = true ∧ protOk 2 (rd HST_BAR2_BASE_base 0 s * 2 ^ 36 + o) d.length false true s = true ∧ (true && progLocked (rd HST_BAR2_BASE_base 0 s * 2 ^ 36 + o) d.length s) = false ∧ wpHits 5 (rd HST_BAR2_BASE_base 0 s * 2 ^ 36 + o) d.length false true s = [] ∧ anyDown (rd HST_BAR2_BASE_base 0 s * 2 ^ 36 + o) d.length s = false)) ∧
    (∃ (s : State) (o : Nat) (n : Nat) (d : List Byte) (p : Bool), (Calm s) ∧ (PlainMem s) ∧ (bar2Open s = false) ∧ (o + n ≤ s.bar2Size)) ∧
    (∃ (s : State) (o : Nat) (n : Nat) (d : List Byte) (p : Bool), (Calm s) ∧ (PlainMem s) ∧ (bar2Open s = false) ∧ (o + d.length ≤ s.bar2Size)) ∧
    (∃ (s : State) (o : Nat) (n : Nat), (Calm s) ∧ (PlainMem s) ∧ (bar2Open s = true) ∧ (o + n ≤ s.bar2Size) ∧ (mapped (rd HST_BAR2_BASE_base 0 s * 2 ^ 36 + o) n s = false)) ∧
    (∃ (s : State) (b : Bool), (s.phys.trip = true ∨ b = false)) ∧
    (∃ (s : State), (s.phys.trip = false)) :=
  ⟨⟨3, 3, (rst cm [(HST_CQ_BASE_base, 3, 9), (HST_RING_TAIL_tail, 3, 9), (HST_CQ_TAIL_tail, 3, 9)]), by decide +kernel⟩,
   ⟨3, 3, (rst cm [(HST_CQ_BASE_base, 3, 9), (HST_RING_TAIL_tail, 3, 9), (HST_CQ_TAIL_tail, 3, 9)]), by decide +kernel⟩,
   ⟨3, 5, held1, ⟨3, 0, 7, 0, false⟩, by decide +kernel⟩,
   ⟨3, 3, (rst cm [(HST_CQ_BASE_base, 3, 9), (HST_RING_TAIL_tail, 3, 9), (HST_CQ_TAIL_tail, 3, 9)]), (en 1), by decide +kernel⟩,
   ⟨63, 0xFFFF, (rg [(HST_RING_CONTROL_log2_size, 63, 4), (HST_RING_CONTROL_cq_log2_size, 63, 4), (HST_RING_CONTROL_enable, 63, 1), (HST_RING_TAIL_tail, 63, 3)] []), (en 11), by decide +kernel⟩,
   ⟨3, 3, (rst cm [(HST_CQ_BASE_base, 3, 9), (HST_RING_TAIL_tail, 3, 9), (HST_CQ_TAIL_tail, 3, 9)]), cm, by decide +kernel⟩,
   ⟨3, 3, (rst cm [(HST_CQ_BASE_base, 3, 9), (HST_RING_TAIL_tail, 3, 9), (HST_CQ_TAIL_tail, 3, 9)]), cm, by decide +kernel⟩,
   ⟨true, (rst cm [(HST_CQ_BASE_base, 3, 9), (HST_RING_TAIL_tail, 3, 9), (HST_CQ_TAIL_tail, 3, 9)]), by decide +kernel⟩,
   ⟨bw, 248, 8, by decide +kernel⟩,
   ⟨bw, 248, [1#8, 2#8], by decide +kernel⟩,
   ⟨({ State.reset with bar2Size := 256 }), 248, 8, [1#8, 2#8], true, by decide +kernel⟩,
   ⟨({ State.reset with bar2Size := 256 }), 248, 8, [1#8, 2#8], true, by decide +kernel⟩,
   ⟨(fl [(HST_BAR2_BASE_base, 0, 0x1F)] bw), 248, 8, by decide +kernel⟩,
   ⟨{ bs [] with phys := { trip := true } }, true, by decide +kernel⟩,
   ⟨bs [], by decide +kernel⟩⟩

end Rings

namespace Runs

def bs (l : List (Fld × Nat × Nat)) : State := withC (base ((BTC_STATUS_ready, 0, 1) :: l))
def ent (op prog w20 tl ab st g w58 w60 w68 : Nat) : List Byte := leBytes op 8 ++ leBytes 0 8 ++ leBytes 0 8 ++ leBytes prog 8 ++ leBytes w20 8 ++ leBytes tl 8 ++ leBytes ab 8 ++ leBytes st 8 ++ leBytes g 8 ++ leBytes 0 8 ++ leBytes 0 8 ++ leBytes w58 8 ++ leBytes w60 8 ++ leBytes w68 8 ++ leBytes 0 16
def cmd (e : List Byte) : Cmd := { id := 4, entry := e }
def prog : List Byte := leBytes 0x100 128
def rs (c : Cmd) (l : List (Fld × Nat × Nat)) (m : List (Nat × List Byte)) : State := { bs l with host := { cmds := [c] }, mem := memOf ([(0x10000, prog), (0x20000, [5, 100, 7])] ++ m) }
def c1 := cmd (ent 1 0x10000 (1 + 2*2^11 + 5*2^19) 0 0x300 64 0 0 0 0)
def rrOf (c : Cmd) (s : State) : RunReads := match runReads c s with | (.inr r, _) => r | _ => { prog := [], list := none, sched := [] }
def tsOf (c : Cmd) (s : State) : List Nat := (runResources c (rrOf c s).list s).getD []
def c3 := cmd (ent 1 0x10001 (1 + 2*2^11 + 2047*2^19) 0x20000 0x300 64 3 0 0 0)
def ad : List Byte := leBytes 0 8 ++ leBytes 0 8 ++ leBytes 0x3F800000 8 ++ List.replicate 40 0
def c5 := cmd (ent 5 0x10000 (1 + 2*2^11 + 5*2^19) 0 0x300 64 0 0x30000 0 0)
def c6 := cmd (ent 6 0x10000 (1 + 2*2^11 + 5*2^19) 0 0x300 64 0 0x30000 0 1)
def sl : List Byte := leBytes 0x40000 8 ++ leBytes 0x40008 8
def so (a b : Nat) (l : List (Fld × Nat × Nat)) : State := rs c6 l [(0x30000, sl), (0x40000, leBytes a 8 ++ leBytes b 8)]
def c9 := cmd (ent 9 7 0 0 0 0 0 0 0 0)
def h9 : Cmd := { id := 7, entry := leBytes 1 128, phase := 3, ranks := [{tile := 4}, {tile := 9}, {tile := 500}] }

theorem test_meets_RunsDispatched :
    (∃ (q : CmdSel) (c : Cmd) (s : State) (rr : RunReads) (ts : List Nat), (Calm s) ∧ (PlainMem s) ∧ (smTracing (c.ring % 4) s = false) ∧ (frontCmd q 1 s = some c) ∧ (runFieldsOk c = true ∧ runReads c s = (Sum.inr rr, s) ∧ runResources c rr.list s = some ts ∧ c.schedAddr = 0 ∧ ts.length = c.nRanks ∧ ts.Nodup ∧ ∀ (t : Nat), t ∈ ts → t < 168 ∧ rd PWR_TILE_state t s = 0)) ∧
    (∃ (q : CmdSel) (c : Cmd) (s : State), (Calm s) ∧ (PlainMem s) ∧ (smTracing (c.ring % 4) s = false) ∧ (frontCmd q 1 s = some c) ∧ (CanEnd c s) ∧ (runFieldsOk c = false)) ∧
    (∃ (q : CmdSel) (c : Cmd) (s : State) (rr : RunReads) (ts : List Nat) (d : List Byte), (Calm s) ∧ (PlainMem s) ∧ (smTracing (c.ring % 4) s = false) ∧ (frontCmd q 5 s = some c) ∧ (runFieldsOk c = true ∧ runReads c s = (Sum.inr rr, s) ∧ runResources c rr.list s = some ts ∧ c.schedAddr = 0 ∧ ts.length = c.nRanks ∧ ts.Nodup ∧ ∀ (t : Nat), t ∈ ts → t < 168 ∧ rd PWR_TILE_state t s = 0) ∧ (c.fld 88 0 48 % 64 = 0) ∧ (smRead (c.fld 88 0 48) 64 s = (0, d, s)) ∧ (attnLegal d = true)) ∧
    (∃ (q : CmdSel) (c : Cmd) (s : State) (rr : RunReads) (ts : List Nat) (d : List Byte) (ws : List Nat), (Calm s) ∧ (PlainMem s) ∧ (smTracing (c.ring % 4) s = false) ∧ (frontCmd q 6 s = some c) ∧ (sidingRing c.ring s = false) ∧ (runFieldsOk c = true ∧ runReads c s = (Sum.inr rr, s) ∧ runResources c rr.list s = some ts ∧ c.schedAddr = 0 ∧ ts.length = c.nRanks ∧ ts.Nodup ∧ ∀ (t : Nat), t ∈ ts → t < 168 ∧ rd PWR_TILE_state t s = 0) ∧ (on ITG_STATUS_replay_pending 0 s = false) ∧ (smRead (c.fld 88 0 48) (8 * (c.fld 104 0 6 + 1)) s = (0, d, s)) ∧ (∀ (a : Nat), a ∈ List.map (fun i => recNat d (8 * i) 8 % 2 ^ 48) (List.range (c.fld 104 0 6 + 1)) → summaryPending c a s = false) ∧ (readWords (List.map (fun i => recNat d (8 * i) 8 % 2 ^ 48) (List.range (c.fld 104 0 6 + 1))) s = (Sum.inr ws, s)) ∧ ((gateDecide ws).fst = 0) ∧ ((gateDecide ws).snd ≠ 0) ∧ (mapped c.argBase 8 s = true) ∧ (anyDown c.argBase 8 s = false) ∧ (whereOf c.argBase s = Where.gddr)) ∧
    (∃ (q : CmdSel) (c : Cmd) (s : State) (rr : RunReads) (ts : List Nat) (d : List Byte) (ws : List Nat), (Calm s) ∧ (PlainMem s) ∧ (smTracing (c.ring % 4) s = false) ∧ (frontCmd q 6 s = some c) ∧ (sidingRing c.ring s = false) ∧ (runFieldsOk c = true ∧ runReads c s = (Sum.inr rr, s) ∧ runResources c rr.list s = some ts ∧ c.schedAddr = 0 ∧ ts.length = c.nRanks ∧ ts.Nodup ∧ ∀ (t : Nat), t ∈ ts → t < 168 ∧ rd PWR_TILE_state t s = 0) ∧ (on ITG_STATUS_replay_pending 0 s = false) ∧ (smRead (c.fld 88 0 48) (8 * (c.fld 104 0 6 + 1)) s = (0, d, s)) ∧ (∀ (a : Nat), a ∈ List.map (fun i => recNat d (8 * i) 8 % 2 ^ 48) (List.range (c.fld 104 0 6 + 1)) → summaryPending c a s = false) ∧ (readWords (List.map (fun i => recNat d (8 * i) 8 % 2 ^ 48) (List.range (c.fld 104 0 6 + 1))) s = (Sum.inr ws, s)) ∧ ((gateDecide ws).fst ≠ 0 ∨ (gateDecide ws).snd = 0) ∧ (CanEnd c s)) ∧
    (∃ (q : CmdSel) (c : Cmd) (s : State), (Calm s) ∧ (PlainMem s) ∧ (smTracing (c.ring % 4) s = false) ∧ (frontCmd q 6 s = some c) ∧ (CanEnd c s) ∧ (runFieldsOk c = true) ∧ (sidingRing c.ring s = false) ∧ (on ITG_STATUS_replay_pending 0 s = true)) ∧
    (∃ (q : CmdSel) (c : Cmd) (s : State), (Calm s) ∧ (PlainMem s) ∧ (smTracing (c.ring % 4) s = false) ∧ (frontCmd q 6 s = some c) ∧ (CanEnd c s) ∧ (sidingRing c.ring s = true)) ∧
    (∃ (q : CmdSel) (c : Cmd) (s : State), (Calm s) ∧ (PlainMem s) ∧ (smTracing (c.ring % 4) s = false) ∧ (frontCmd q 9 s = some c) ∧ (CanEnd c s) ∧ (c.reservedOk = true) ∧ (List.filter (fun x => x.phase == 3 && x.name == c.fld 24 0 64 && bit x.id 65 == bit c.id 65 && sidingRing x.ring s == sidingRing c.ring s) s.host.cmds = [])) ∧
    (∃ (q : CmdSel) (c : Cmd) (s : State), (Calm s) ∧ (PlainMem s) ∧ (smTracing (c.ring % 4) s = false) ∧ (frontCmd q 9 s = some c) ∧ (CanEnd c s) ∧ (c.reservedOk = true) ∧ (List.filter (fun x => x.phase == 3 && x.name == c.fld 24 0 64 && bit x.id 65 == bit c.id 65 && sidingRing x.ring s == sidingRing c.ring s) s.host.cmds ≠ [])) :=
  ⟨⟨ring0, c1, (rs c1 [] []), (rrOf c1 (rs c1 [] [])), (tsOf c1 (rs c1 [] [])), by decide +kernel⟩,
   ⟨ring0, c3, (rs c3 [] []), by decide +kernel⟩,
   ⟨ring0, c5, (rs c5 [] [(0x30000, ad)]), (rrOf c5 (rs c5 [] [])), (tsOf c5 (rs c5 [] [])), ad, by decide +kernel⟩,
   ⟨ring0, c6, (so 0 0 []), (rrOf c6 (so 0 0 [])), (tsOf c6 (so 0 0 [])), sl, [0,0], by decide +kernel⟩,
   ⟨ring0, c6, (so 256 0 []), (rrOf c6 (so 256 0 [])), (tsOf c6 (so 256 0 [])), sl, [256,0], by decide +kernel, by decide +kernel, by decide +kernel, by decide +kernel, by decide +kernel⟩,
   ⟨ring0, c6, (so 0 0 [(ITG_STATUS_replay_pending, 0, 1)]), by decide +kernel⟩,
   ⟨ring0, c6, (so 0 0 [(HST_RING_CONTROL_siding, 0, 1)]), by decide +kernel⟩,
   ⟨ring0, c9, (rs c9 [] []), by decide +kernel⟩,
   ⟨ring0, c9, ({ rs c9 [(TIL_CORE_STATUS_state, 9, 3)] [] with host := { cmds := [h9, c9, {h9 with id := 8}] } }), by decide +kernel⟩⟩

end Runs

namespace Orders

def bs (l : List (Fld × Nat × Nat)) : State := withC (base ((BTC_STATUS_ready, 0, 1) :: l))
def rs (c : Cmd) (l : List (Fld × Nat × Nat)) (m : List (Nat × List Byte)) : State := { bs l with host := { cmds := [c] }, mem := memOf m }
def shc : Cmd := { id := 4, entry := leBytes 7 8 ++ List.replicate 16 0 ++ leBytes 0x10000 8 ++ leBytes 77 8 ++ List.replicate 88 0 }
def mo (off : Nat) (rdw : Bool) (v m : Nat) : List Byte := leBytes (off + (if rdw then 2^32 else 0)) 8 ++ leBytes v 8 ++ leBytes m 8
def mgc (dst at_ n : Nat) : Cmd := { id := 4, entry := leBytes 8 8 ++ List.replicate 16 0 ++ leBytes 0x10000 8 ++ leBytes (n-1 + at_*16 + dst*32) 8 ++ leBytes 0x20000 8 ++ List.replicate 80 0 }
def dd : List Byte := mo 0x100 true 0 0 ++ mo 0x108 false 3 7
def db : List Byte := mo 0x100 true 0 0 ++ mo (TIL_CORE_START.off 3 0) false 3 7
def runc : Cmd := { mgc 0x20042 0 1 with phase := 1 }
def rg : Reg := RTR_RATE_CONFIG
def ml (mas : Nat) (o : MOrder) : MList := { master := mas, orders := [o], atomic := true, src := 0x1234, tag := 7, echo := true }
def os (mas : Nat) (o : MOrder) : State := { bs [] with host := { arb := [ml mas o] } }

theorem test_meets_ShuntAndManagementCommands :
    (∃ (q : CmdSel) (c : Cmd) (s : State), (Calm s) ∧ (smTracing (c.ring % 4) s = false) ∧ (frontCmd q 7 s = some c) ∧ (oneDescOk c 1 = true) ∧ ((heldChans s).testBit (c.fld 32 0 7) = false) ∧ (chState (c.fld 32 0 7) s = 0) ∧ (islState (Island.shunt (if c.fld 32 0 7 < 64 then 0 else 1)) s = 0)) ∧
    (∃ (q : CmdSel) (c : Cmd) (s : State) (d : List Byte), (Calm s) ∧ (smTracing (c.ring % 4) s = false) ∧ (frontCmd q 8 s = some c) ∧ (oneDescOk c 1 = true) ∧ (c.fld 32 0 4 + 1 ≤ 10) ∧ (smRead c.a18 (24 * (c.fld 32 0 4 + 1)) s = (0, d, s)) ∧ (∃ o, o ∈ ordersOf (c.fld 32 0 4 + 1) d ∧ orderBarred (sidingRing c.ring s) (c.fld 32 5 18 == ownCoord s) o s = true) ∧ (CanEnd c s)) ∧
    (∃ (q : CmdSel) (c : Cmd) (s : State) (d : List Byte), (Calm s) ∧ (smTracing (c.ring % 4) s = false) ∧ (frontCmd q 8 s = some c) ∧ (oneDescOk c 1 = true) ∧ (c.fld 32 0 4 + 1 ≤ 10) ∧ (smRead c.a18 (24 * (c.fld 32 0 4 + 1)) s = (0, d, s)) ∧ (∀ (o : MOrder), o ∈ ordersOf (c.fld 32 0 4 + 1) d → orderBarred (sidingRing c.ring s) (c.fld 32 5 18 == ownCoord s) o s = false) ∧ (c.fld 32 5 18 = ownCoord s)) ∧
    (∃ (q : CmdSel) (c : Cmd) (s : State) (d : List Byte) (k : Nat), (Calm s) ∧ (smTracing (c.ring % 4) s = false) ∧ (frontCmd q 8 s = some c) ∧ (oneDescOk c 1 = true) ∧ (c.fld 32 0 4 + 1 ≤ 10) ∧ (smRead c.a18 (24 * (c.fld 32 0 4 + 1)) s = (0, d, s)) ∧ (∀ (o : MOrder), o ∈ ordersOf (c.fld 32 0 4 + 1) d → orderBarred (sidingRing c.ring s) (c.fld 32 5 18 == ownCoord s) o s = false) ∧ (c.fld 32 5 18 ≠ ownCoord s) ∧ (freeTag s = some k)) ∧
    (∃ (k : BitVec 12) (id : Nat) (t0 : Nat) (c : Cmd) (s : State), (Calm s) ∧ (Map.get (fun x => none) s.tags k.toNat = some { who := Requester.mgt id, at_ := t0 }) ∧ (cmdOf id s = some c) ∧ (CanEnd c s)) ∧
    (∃ (ms : BitVec 4) (l : MList) (o : MOrder) (r : Reg) (i : Nat) (j : Nat) (s : State), (Calm s) ∧ (s.host.arb = [l]) ∧ (s.host.hold = none) ∧ (l.master < 4) ∧ (ms.getLsbD l.master = true) ∧ (l.orders = [o]) ∧ (l.results = []) ∧ (l.cmd = none) ∧ (o.read = false) ∧ (findReg o.reg = some (r, i, j)) ∧ (plainReg r = true) ∧ (r ≠ RTR_INJ) ∧ (r ≠ RTR_ECHO_SENT) ∧ (mayOrder l.master o = true)) ∧
    (∃ (ms : BitVec 4) (l : MList) (o : MOrder) (r : Reg) (i : Nat) (j : Nat) (s : State), (Calm s) ∧ (s.host.arb = [l]) ∧ (s.host.hold = none) ∧ (l.master < 4) ∧ (ms.getLsbD l.master = true) ∧ (l.orders = [o]) ∧ (l.results = []) ∧ (l.cmd = none) ∧ (o.read = false) ∧ (findReg o.reg = some (r, i, j)) ∧ (plainReg r = true) ∧ (r ≠ RTR_INJ) ∧ (r ≠ RTR_ECHO_SENT) ∧ (mayOrder l.master o = false)) :=
  ⟨⟨ring0, shc, (rs shc [] []), by decide +kernel⟩,
   ⟨ring0, (mgc 0x20041 1 2), (rs (mgc 0x20041 1 2) [(ITG_TILE_CTRL_siding, 3, 1)] [(0x10000, db)]), db, by decide +kernel⟩,
   ⟨ring0, (mgc 0x20041 1 2), (rs (mgc 0x20041 1 2) [] [(0x10000, dd)]), dd, by decide +kernel⟩,
   ⟨ring0, (mgc 0x20042 1 2), (rs (mgc 0x20042 1 2) [] [(0x10000, dd)]), dd, ((freeTag (bs [])).getD 0), by decide +kernel⟩,
   ⟨300, 4, 7, runc, ({ rs runc [] [] with tags := [(300, some { who := .mgt 4, at_ := 7 })] }), by decide +kernel⟩,
   ⟨5, (ml 0 { off := rg.off 0 0 + 3, read := false, value := 5, mask := 0xFFFF }), { off := rg.off 0 0 + 3, read := false, value := 5, mask := 0xFFFF }, rg, 0, 0, (os 0 { off := rg.off 0 0 + 3, read := false, value := 5, mask := 0xFFFF }), by decide +kernel⟩,
   ⟨15, (ml 2 { off := rg.off 0 0 + 3, read := false, value := 5, mask := 0xFFFF }), { off := rg.off 0 0 + 3, read := false, value := 5, mask := 0xFFFF }, rg, 0, 0, (os 2 { off := rg.off 0 0 + 3, read := false, value := 5, mask := 0xFFFF }), by decide +kernel⟩⟩

end Orders

namespace Attach

def bs (l : List (Fld × Nat × Nat)) : State := withC (base ((BTC_STATUS_ready, 0, 1) :: l))
def rs (c : Cmd) (l : List (Fld × Nat × Nat)) (m : List (Nat × List Byte)) : State := { bs l with host := { cmds := [c] }, mem := memOf m }
def at_ (sub a n o : Nat) : Cmd := { id := 4, entry := leBytes 10 8 ++ List.replicate 16 0 ++ leBytes sub 8 ++ leBytes a 8 ++ leBytes n 8 ++ leBytes o 8 ++ List.replicate 72 0 }
def u0 := at_ 0 0x10000 5 0
def u1 := at_ 4 0x10000 5 0
def a1 := at_ 1 0x10000 0 0x20000
def nz : List Byte := (List.range 32).map fun i => BitVec.ofNat 8 (i+1)
def u2 := { u1 with phase := 1 }
def ux := at_ 0 0x600000000000 5 0
def wr1 (c : Cmd) : State := { rs { c with phase := 1 } [] [] with boot := { attach := some (4, [1, 2, 3, 4, 5], false), pcie := true } }

theorem test_meets_AttachmentCommands :
    (∃ (k : RingN) (c : Cmd) (d : List Byte) (s : State), (Calm s) ∧ (CanEnd c s) ∧ (attachOk c s = true) ∧ (frontAttach (k.val) 0 s = some c) ∧ (c.fld 40 0 32 ≤ imLen) ∧ (smRead (c.fld 32 0 48) (c.fld 40 0 32) s = (0, d, s))) ∧
    (∃ (k : RingN) (c : Cmd) (d : List Byte) (s : State) (e : Nat), (Calm s) ∧ (CanEnd c s) ∧ (attachOk c s = true) ∧ (frontAttach (↑k) 0 s = some c) ∧ (c.fld 40 0 32 ≤ imLen) ∧ (smRead (c.fld 32 0 48) (c.fld 40 0 32) s = (e, d, s)) ∧ (e ≠ 0)) ∧
    (∃ (k : RingN) (c : Cmd) (d : List Byte) (s : State), (Calm s) ∧ (CanEnd c s) ∧ (attachOk c s = true) ∧ (frontAttach (k.val) 1 s = some c) ∧ (PlainMem s) ∧ (c.fld 48 0 48 % 64 = 0) ∧ (smRead (c.fld 32 0 48) 32 s = (0, d, s)) ∧ (mapped (c.fld 48 0 48) 512 s = true) ∧ (anyDown (c.fld 48 0 48) 512 s = false)) ∧
    (∃ (id : Nat) (d : List Byte) (enrol : Bool) (c : Cmd) (back : Option (List Byte)) (s : State), (Calm s) ∧ (s.boot.attach = some (id, d, enrol)) ∧ (cmdOf id s = some c) ∧ (CanEnd c s) ∧ (c.phase = 1) ∧ (c.op = 10) ∧ (shake256 (back.getD d) 64 = shake256 d 64)) ∧
    (∃ (id : Nat) (d : List Byte) (enrol : Bool) (c : Cmd) (back : Option (List Byte)) (s : State), (Calm s) ∧ (s.boot.attach = some (id, d, enrol)) ∧ (cmdOf id s = some c) ∧ (CanEnd c s) ∧ (c.phase = 1) ∧ (c.op = 10) ∧ (shake256 (back.getD d) 64 ≠ shake256 d 64)) ∧
    (∃ (back : Option (List Byte)) (s : State), (Calm s) ∧ (s.boot.attach = none)) :=
  ⟨⟨0, u0, [1,2,3,4,5], (rs u0 [] [(0x10000, [1,2,3,4,5])]), by decide +kernel⟩,
   ⟨0, ux, (smRead (ux.fld 32 0 48) (ux.fld 40 0 32) (rs ux [] [])).2.1, rs ux [] [], (smRead (ux.fld 32 0 48) (ux.fld 40 0 32) (rs ux [] [])).1, by decide +kernel⟩,
   ⟨0, a1, nz, (rs a1 [] [(0x10000, nz)]), by decide +kernel⟩,
   ⟨4, [1, 2, 3, 4, 5], false, { u0 with phase := 1 }, none, wr1 u0, by decide +kernel⟩,
   ⟨4, [1, 2, 3, 4, 5], false, { u0 with phase := 1 }, some [1, 2, 3, 4, 6], wr1 u0, by decide +kernel⟩,
   ⟨none, (rs u2 [] []), by decide +kernel⟩⟩

end Attach

namespace Codes

def qd : State := { r2 with pending := [.li hd3 9 0x7FFFFFFFFFFF#47, .add hd3 ⟨3,1,2⟩] }

theorem test_meets_StepLeavesNoReportWaiting :
    (∃ (s : State) (t : State), (Reported s) ∧ (step s = Host.Outcome.next t)) :=
  ⟨qd, (after (step qd)), by decide +kernel, next_of_isNext _ (by decide +kernel)⟩

theorem test_meets_StepKeepsMemoryCanonical :
    (∃ (s : State) (t : State), (Memory.wf s.mem = true) ∧ (step s = Host.Outcome.next t)) :=
  ⟨qd, (after (step qd)), by decide +kernel, next_of_isNext _ (by decide +kernel)⟩

theorem test_meets_StepKeepsTablesCanonical :
    (∃ (s : State) (t : State), (tablesWf s = true) ∧ (step s = Host.Outcome.next t)) :=
  ⟨qd, (after (step qd)), by decide +kernel, next_of_isNext _ (by decide +kernel)⟩

theorem test_meets_SlotWordRoundTrip :
    (∃ (x : SlotIn), (x.wf = true)) :=
  ⟨(sx (.sigh hd3 0xFFFF)), by decide +kernel⟩

theorem test_meets_WindowRestoresWord :
    (∃ (w : Int) (f : Nat) (n : Nat) (v : Nat), (n = 32 ∨ n = 64) ∧ (windowOf w f n = some v)) :=
  ⟨(-2147483648 * 1024 : Int), 10, 32, 0x80000000, by decide +kernel⟩

theorem test_meets_MemoryCodeCorrectsAndDetects :
    (∃ (i : Fin 68) (e : Byte), (e ≠ 0#8)) ∧
    (∃ (i : Fin 68) (j : Fin 68) (k : Fin 68) (e : Byte) (f : Byte) (g : Byte), (i ≠ j) ∧ (j ≠ k) ∧ (i ≠ k) ∧ (e ≠ 0#8) ∧ (f ≠ 0#8)) :=
  ⟨⟨67, 255, by decide +kernel⟩,
   ⟨67, 0, 33, 255, 1, 128, by decide +kernel⟩⟩

end Codes

end Sys2Proof.Tests
end

/-! ### Windows of a Leroth word (R37): proofs -/

namespace Sys2Proof.Proofs
open Sys2Proof.Machine

/-- A word fits its window (R37): no nonzero bit below the base, and the quotient a signed number of `n` bits. -/
def FitsWindow (w : Int) (f n : Nat) : Prop :=
  (2 : Int) ^ f ∣ w ∧ -(2 : Int) ^ (n - 1) ≤ w / 2 ^ f ∧ w / 2 ^ f ≤ 2 ^ (n - 1) - 1

theorem windowOf_eq_some_iff (w : Int) (f n v : Nat) :
    windowOf w f n = some v ↔ FitsWindow w f n ∧ (v : Int) = w / 2 ^ f % 2 ^ n := by
  have hnonneg : 0 ≤ w / 2 ^ f % 2 ^ n := Int.emod_nonneg _ (by positivity)
  have hdvd : w / 2 ^ f * 2 ^ f = w ↔ (2 : Int) ^ f ∣ w := ⟨Dvd.intro_left _, Int.ediv_mul_cancel⟩
  simp only [windowOf, FitsWindow, Int.shiftRight_eq_div_pow, Nat.cast_pow, Nat.cast_ofNat, hdvd,
    Option.ite_none_right_eq_some, Option.some.injEq]
  exact and_congr_right' (by omega)

theorem windowOf_isSome_iff (w : Int) (f n : Nat) : (windowOf w f n).isSome = true ↔ FitsWindow w f n := by
  rw [Option.isSome_iff_exists]
  constructor
  · rintro ⟨v, hv⟩
    exact ((windowOf_eq_some_iff w f n v).1 hv).1
  · intro hfits
    have hnonneg : 0 ≤ w / 2 ^ f % 2 ^ n := Int.emod_nonneg _ (by positivity)
    exact ⟨_, (windowOf_eq_some_iff w f n _).2 ⟨hfits, Int.toNat_of_nonneg hnonneg⟩⟩

/-- The model's `sext` (R10) is the library's balanced remainder. -/
theorem sextNat_eq_bmod (v : Nat) {n : Nat} (hn : 0 < n) : sextNat v n = (v : Int).bmod (2 ^ n) := by
  have hhalf : 2 ^ n = 2 * 2 ^ (n - 1) := by rw [← pow_succ', Nat.sub_add_cancel hn]
  have hmod : ((v % 2 ^ n : Nat) : Int) = (v : Int) % (2 ^ n : Nat) := Int.natCast_mod v (2 ^ n)
  have hpow : ((2 ^ n : Nat) : Int) = 2 ^ n := Nat.cast_pow 2 n
  simp only [sextNat, Int.bmod_def]
  split <;> split <;> omega

theorem sextNat_of_eq_emod {v n : Nat} {q : Int} (hn : 0 < n) (hlo : -(2 : Int) ^ (n - 1) ≤ q)
    (hhi : q ≤ 2 ^ (n - 1) - 1) (hv : (v : Int) = q % 2 ^ n) : sextNat v n = q := by
  have hhalf : (2 : Int) ^ n = 2 * 2 ^ (n - 1) := by rw [← pow_succ', Nat.sub_add_cancel hn]
  have hpow : ((2 ^ n : Nat) : Int) = 2 ^ n := Nat.cast_pow 2 n
  calc sextNat v n = (q % (2 ^ n : Nat)).bmod (2 ^ n) := by rw [sextNat_eq_bmod v hn, hv, hpow]
    _ = q.bmod (2 ^ n) := Int.emod_bmod q (2 ^ n)
    _ = q := Int.bmod_eq_of_le_mul_two (by omega) (by omega)

theorem unwindow_of_windowOf_eq_some {w : Int} {f n v : Nat} (hn : 0 < n) (h : windowOf w f n = some v) :
    unwindow v f n = w := by
  obtain ⟨⟨hdvd, hlo, hhi⟩, hv⟩ := (windowOf_eq_some_iff w f n v).1 h
  rw [unwindow, sextNat_of_eq_emod hn hlo hhi hv, Int.ediv_mul_cancel hdvd]

/-- Settles O29: the window is the word's quotient modulo `2 ^ n`, and the quotient's signed range makes the
sign extension undo that remainder. -/
theorem windowRestoresWord : Obligations.WindowRestoresWord := by
  intro w f n hwidth
  have hn : 0 < n := by omega
  exact ⟨windowOf_isSome_iff w f n, fun v h =>
    ⟨((windowOf_eq_some_iff w f n v).1 h).2, unwindow_of_windowOf_eq_some hn h⟩⟩

end Sys2Proof.Proofs

/-! ### Results of the scalar slots (R119, R120): proofs -/

namespace Sys2Proof.Proofs
open Sys2Proof.Machine

/-- A result differs from the exact one (R120) when that is outside the signed range of 64 bits. -/
theorem signedRes_sov (e : Int) : (signedRes e).sov = (decide (e ≥ 2 ^ (64 - 1)) || decide (e < -2 ^ (64 - 1))) := by
  rw [Bool.eq_iff_iff]
  simp only [signedRes, BitVec.toInt_ofInt, bne_iff_ne, Bool.or_eq_true, decide_eq_true_eq]
  rw [Int.bmod_def]
  split <;> omega

theorem ofInt_toInt_sub (a b : U64) : BitVec.ofInt 64 (a.toInt - b.toInt) = a - b := by
  rw [sub_eq_add_neg, sub_eq_add_neg, BitVec.ofInt_add, BitVec.ofInt_neg, BitVec.ofInt_toInt, BitVec.ofInt_toInt]

theorem signedRes_tdiv_v (a b : U64) : (signedRes (a.toInt.tdiv b.toInt)).v = a.sdiv b :=
  BitVec.eq_of_toInt_eq (by rw [signedRes, BitVec.toInt_ofInt, BitVec.toInt_sdiv])

/-- The one quotient that 64 bits do not hold is that of the least value by -1. -/
theorem signedRes_tdiv_sov (a b : U64) :
    (signedRes (a.toInt.tdiv b.toInt)).sov = (a == BitVec.intMin 64 && b == BitVec.allOnes 64) := by
  by_cases h : a = BitVec.intMin 64 ∧ b = BitVec.allOnes 64
  · obtain ⟨rfl, rfl⟩ := h
    decide
  · have hfits : (a.sdiv b).toInt = a.toInt.tdiv b.toInt := BitVec.toInt_sdiv_of_ne_or_ne a b (not_and_or.1 h)
    rw [← hfits]
    simpa [signedRes] using h

theorem toInt_le_iff_slt {a b : U64} (h : a ≠ b) : a.toInt ≤ b.toInt ↔ a.slt b = true := by
  rw [BitVec.slt_iff_toInt_lt]
  exact ⟨fun hle => lt_of_le_of_ne hle (mt BitVec.eq_of_toInt_eq h), le_of_lt⟩

theorem toNat_le_iff_lt {a b : U64} (h : a ≠ b) : a.toNat ≤ b.toNat ↔ a < b := by
  rw [BitVec.lt_def]
  exact ⟨fun hle => lt_of_le_of_ne hle (mt BitVec.eq_of_toNat_eq h), le_of_lt⟩

theorem signExtend_mul_signExtend (a b : U64) :
    a.signExtend 128 * b.signExtend 128 = BitVec.ofInt 128 (a.toInt * b.toInt) := by
  rw [BitVec.ofInt_mul, ← BitVec.signExtend, ← BitVec.signExtend]

theorem ofInt_mul_high (a b : U64) :
    BitVec.ofInt 64 (a.toInt * b.toInt / 2 ^ 64) = (a.signExtend 128 * b.signExtend 128).extractLsb' 64 64 := by
  rw [signExtend_mul_signExtend]
  apply BitVec.eq_of_toNat_eq
  simp only [BitVec.extractLsb'_toNat, BitVec.toNat_ofInt, Nat.shiftRight_eq_div_pow]
  omega

theorem ofNat_mul_high (a b : U64) :
    BitVec.ofNat 64 (a.toNat * b.toNat / 2 ^ 64) = (a.setWidth 128 * b.setWidth 128).extractLsb' 64 64 := by
  apply BitVec.eq_of_toNat_eq
  simp only [BitVec.extractLsb'_toNat, BitVec.toNat_ofNat, BitVec.toNat_mul, BitVec.toNat_setWidth, Nat.shiftRight_eq_div_pow,
    ← Nat.mul_mod]
  omega

/-- A run of indexes that do not meet `p` ends at the first that does. -/
theorem length_takeWhile_not_range (p : Nat → Bool) (n : Nat) :
    ((List.range n).takeWhile fun i => !p i).length = ((List.range n).find? p).getD n := by
  cases h : (List.range n).find? p with
  | none => rw [List.takeWhile_eq_self_iff.2 (by simpa using h), List.length_range, Option.getD_none]
  | some i =>
    obtain ⟨hp, hi, hbelow⟩ := List.find?_range_eq_some.1 h
    have hidx : (List.range n).findIdx (fun a => !!p a) = i := by
      rw [List.findIdx_eq (by simpa using hi)]
      simpa [hp] using hbelow
    rw [List.takeWhile_eq_take_findIdx_not, List.length_take, List.length_range, hidx, Option.getD_some]
    exact min_eq_left (List.mem_range.1 hi).le

theorem find?_leading_one {a : U64} (h : a.toNat ≠ 0) :
    (List.range 64).find? (fun i => a.getLsbD (63 - i)) = some (63 - a.toNat.log2) := by
  have hlog : a.toNat.log2 < 64 := (Nat.log2_lt h).2 a.isLt
  rw [List.find?_range_eq_some, List.mem_range]
  refine ⟨?_, by omega, fun j hj => ?_⟩
  · rw [show 63 - (63 - a.toNat.log2) = a.toNat.log2 by omega]
    exact Nat.testBit_log2 h
  · have hbelow : a.toNat < 2 ^ (63 - j) := (Nat.log2_lt h).1 (by omega)
    simp [BitVec.getLsbD, Nat.testBit_lt_two_pow hbelow]

theorem clz64_eq_length (a : U64) : clz64 a = ((List.range 64).takeWhile fun i => !a.getLsbD (63 - i)).length := by
  rw [length_takeWhile_not_range, clz64]
  split
  case isTrue h => rw [List.find?_eq_none.2 (by simp [BitVec.getLsbD, h]), Option.getD_none]
  case isFalse h => rw [find?_leading_one h, Option.getD_some, topBit]

theorem ctz64_eq_length (a : U64) : ctz64 a = ((List.range 64).takeWhile fun i => !a.getLsbD i).length :=
  (length_takeWhile_not_range _ _).symm

/-- The model's scalar results are those of R119 and R120. -/
theorem srRes_v (o : SrOp) (a b : U64) : (srRes o a b).v = srSays o a b := by
  cases o
  case add => simp only [srRes, srSays, signedRes, BitVec.ofInt_add, BitVec.ofInt_toInt]
  case sub => exact ofInt_toInt_sub a b
  case mul => simp only [srRes, srSays, signedRes, BitVec.ofInt_mul, BitVec.ofInt_toInt]
  case mulhs => exact ofInt_mul_high a b
  case mulhu => exact ofNat_mul_high a b
  case min =>
    obtain rfl | hne := eq_or_ne a b
    · simp [srRes, srSays]
    · simp [srRes, srSays, toInt_le_iff_slt hne]
  case max =>
    obtain rfl | hne := eq_or_ne a b
    · simp [srRes, srSays]
    · simp [srRes, srSays, toInt_le_iff_slt hne]
  case minu =>
    obtain rfl | hne := eq_or_ne a b
    · simp [srRes, srSays]
    · simp [srRes, srSays, toNat_le_iff_lt hne]
  case maxu =>
    obtain rfl | hne := eq_or_ne a b
    · simp [srRes, srSays]
    · simp [srRes, srSays, toNat_le_iff_lt hne]
  case div =>
    simp only [srRes, srSays, apply_ite SRes.v, signedRes_tdiv_v]
  case divu =>
    have hquot : BitVec.ofNat 64 (a.toNat / b.toNat) = a / b := BitVec.eq_of_toNat_eq (by simp [← BitVec.toNat_udiv])
    simp only [srRes, srSays, apply_ite SRes.v, hquot]
  case rem =>
    simp only [srRes, srSays, apply_ite SRes.v, ← BitVec.toInt_srem, BitVec.ofInt_toInt]
  case remu =>
    have hrem : BitVec.ofNat 64 (a.toNat % b.toNat) = a % b := BitVec.eq_of_toNat_eq (by simp [← BitVec.toNat_umod])
    simp only [srRes, srSays, apply_ite SRes.v, hrem]
  case clz => exact congrArg (BitVec.ofNat 64) (clz64_eq_length a)
  case ctz => exact congrArg (BitVec.ofNat 64) (ctz64_eq_length a)
  case popc => exact congrArg (BitVec.ofNat 64) List.countP_eq_length_filter.symm
  all_goals rfl

/-- sov is set where R120 sets it: a division by zero leaves it, as 0 is not -1. -/
theorem srRes_sov (o : SrOp) (a b : U64) : (srRes o a b).sov = srOverflows o a b := by
  cases o
  case add => exact signedRes_sov _
  case sub => exact signedRes_sov _
  case mul => exact signedRes_sov _
  case div =>
    simp only [srRes, srOverflows, apply_ite SRes.sov, signedRes_tdiv_sov]
    split
    case isTrue h => simp [h]
    case isFalse => rfl
  case divu => exact (apply_ite SRes.sov _ _ _).trans (ite_self _)
  case rem => exact (apply_ite SRes.sov _ _ _).trans (ite_self _)
  case remu => exact (apply_ite SRes.sov _ _ _).trans (ite_self _)
  all_goals rfl

theorem srRes_dzero (o : SrOp) (a b : U64) : (srRes o a b).dzero = (srDivides o && b == 0#64) := by
  cases o
  case div => simp [srRes, srDivides, signedRes, apply_ite SRes.dzero, beq_eq_decide]
  case divu => simp [srRes, srDivides, apply_ite SRes.dzero, beq_eq_decide]
  case rem => simp [srRes, srDivides, apply_ite SRes.dzero, beq_eq_decide]
  case remu => simp [srRes, srDivides, apply_ite SRes.dzero, beq_eq_decide]
  all_goals rfl

/-- No immediate form divides (R119). -/
theorem srDivides_siBase (o : SiOp) : srDivides (siBase o) = false := by cases o <;> rfl

theorem lihRes_eq_append (old : U64) (imm : BitVec 17) : lihRes old imm = imm ++ old.extractLsb' 0 47 := by
  apply BitVec.eq_of_toNat_eq
  rw [lihRes, BitVec.toNat_ofNat, BitVec.toNat_append, BitVec.extractLsb'_toNat, Nat.shiftRight_zero,
    ← Nat.shiftLeft_add_eq_or_of_lt (Nat.mod_lt _ (by decide)), Nat.shiftLeft_eq]
  omega

end Sys2Proof.Proofs

/-! ### A slot that stands alone in its long word, and the scalar slots (R110, R114 to R122): proofs -/

namespace Sys2Proof.Proofs
open Sys2Proof.Machine Sys2Proof.Laws

/-! ### What a slot leaves alone -/

section
variable {t : Nat} {ss : List (BitVec 5)} {as : List (BitVec 4)} {ps : List (BitVec 3)} {vs : List (BitVec 5)} {ws ks : List Nat} {s u : State}

theorem slotKept_refl : SlotKept t ss as ps vs ws ks s s :=
  ⟨⟨fun _ _ => rfl, fun _ _ => rfl, fun _ _ => rfl, fun _ _ => rfl, fun _ _ _ => ⟨rfl, fun _ _ => ⟨rfl, rfl⟩⟩⟩,
    rfl, rfl, fun _ _ => rfl, fun _ _ _ _ => rfl, fun _ => rfl, rfl⟩

theorem slotKept_mono_fields {ks' : List Nat} (h : SlotKept t ss as ps vs ws ks s u) (hsub : ks ⊆ ks') :
    SlotKept t ss as ps vs ws ks' s u := by
  obtain ⟨hregs, hrow, hout, htiles, hflds, hrest⟩ := h
  exact ⟨hregs, hrow, hout, htiles, fun k hk => hflds k (mt (@hsub k) hk), hrest⟩

/-- A field may be written whose key is among those let go, or that holds the tile's next index or state. -/
theorem slotKept_wr (hw : tablesWf u = true) {f : Fld} {i : Nat}
    (hk : f.key i ∈ TIL_CORE_STATUS_next_index.key t :: TIL_CORE_STATUS_state.key t :: ks)
    (v : Nat) (h : SlotKept t ss as ps vs ws ks s u) : SlotKept t ss as ps vs ws ks s (wr f i v u) := by
  obtain ⟨hregs, hrow, hout, htiles, hflds, hmem, hsame⟩ := h
  refine ⟨hregs, hrow, hout, htiles, fun k hks hnext hstate => ?_, hmem, hsame⟩
  have hne : k ≠ f.key i := by
    rintro rfl
    simp [hks, hnext, hstate] at hk
  exact (map_get_set_ne _ (tablesWf_flds hw) hne _).trans (hflds k hks hnext hstate)

/-- The core may change in its bookkeeping, its register files and its accesses as they were. -/
theorem slotKept_setCore (hw : tablesWf u = true) {c : Core} (hregs : RegsKept t ss as ps vs ws s (setCore t c u))
    (hout : c.outst = (Machine.core t u).outst) (h : SlotKept t ss as ps vs ws ks s u) :
    SlotKept t ss as ps vs ws ks s (setCore t c u) := by
  obtain ⟨-, hrow, houtu, htiles, hflds, hmem, hsame⟩ := h
  have htw := tablesWf_tiles hw
  refine ⟨hregs, (lrow_setCore htw t t c).trans hrow, ?_, fun r hr => ?_, hflds, hmem, hsame⟩
  · rw [core_setCore htw, if_pos rfl, hout, houtu]
  · rw [setCore, tile_setTile htw, if_neg hr]
    exact htiles r hr

theorem core_modCore_self (hw : tablesWf u = true) (g : Core → Core) : Machine.core t (modCore t g u) = g (Machine.core t u) :=
  (core_setCore (tablesWf_tiles hw) t t _).trans (if_pos rfl)

theorem slotKept_setS (hw : tablesWf s = true) (i : BitVec 5) (v : U64) :
    SlotKept t [i] [] [] [] [] ks s (modCore t (fun c => c.setS i v) s) := by
  refine slotKept_setCore hw ?_ (outst_setS _ _ _) slotKept_refl
  have hcore := core_modCore_self (t := t) hw (fun c => c.setS i v)
  rw [modCore] at hcore
  simp only [RegsKept, hcore]
  refine ⟨fun j hj => ?_, by simp⟩
  rw [sg_setS (tablesWf_core hw t), if_neg (show ¬ j = i by simpa using hj)]
  split
  case isTrue hzero => rw [hzero, Core.sg, if_pos rfl]
  case isFalse => rfl

end

/-! ### The end of a long word (R114, R121, R122) -/

/-- The bookkeeping of a core at the end of a long word that leaves loops `ls` held. -/
def wordEnded (ls : List Loop) (c : Core) : Core :=
  { c with loops := ls, longWords := c.longWords + 1, heldTotal := c.heldTotal + c.heldCycles, heldCycles := 0, hold := none }

/-- Tile `t` goes on behind the long word of state `s`, whose effects have led to `u`. -/
def advanceWord (t : Nat) (s u : State) : State :=
  let e := loopEnds (nextIx t s) (Machine.core t s).loops
  setCoreState t 1 (setNext t e.1 (modCore t (wordEnded e.2) u))

theorem wordEnded_coreWf {c : Core} (h : coreWf c = true) (ls : List Loop) : coreWf (wordEnded ls c) = true :=
  coreWf_of (coreWf_parts h)

section
variable {t : Nat} {ss : List (BitVec 5)} {as : List (BitVec 4)} {ps : List (BitVec 3)} {vs : List (BitVec 5)} {ws ks : List Nat} {s u : State}

@[simp] theorem advanceWord_notices : (advanceWord t s u).notices = u.notices := rfl

theorem core_advanceWord (hw : tablesWf u = true) :
    Machine.core t (advanceWord t s u) = wordEnded (loopEnds (nextIx t s) (Machine.core t s).loops).2 (Machine.core t u) :=
  core_modCore_self hw _

theorem tablesWf_modCore_wordEnded (hw : tablesWf u = true) (ls : List Loop) : tablesWf (modCore t (wordEnded ls) u) = true :=
  tablesWf_setCore hw t _ (wordEnded_coreWf (tablesWf_core hw t) ls)

theorem rd_advanceWord (hw : tablesWf u = true) (ht : t < 65536) {f : Fld}
    (hnext : f.id ≠ TIL_CORE_STATUS_next_index.id) (hstate : f.id ≠ TIL_CORE_STATUS_state.id) :
    rd f t (advanceWord t s u) = rd f t u := by
  have hended := tablesWf_modCore_wordEnded (t := t) hw (loopEnds (nextIx t s) (Machine.core t s).loops).2
  have hset := tablesWf_wr hended TIL_CORE_STATUS_next_index t (min (loopEnds (nextIx t s) (Machine.core t s).loops).1 65535)
  exact (rd_wr_ne (tablesWf_flds hset) (key_ne hstate ht ht) 1).trans (rd_wr_ne (tablesWf_flds hended) (key_ne hnext ht ht) _)

theorem advanced_advanceWord (hw : tablesWf u = true) (ht : t < 65536) : Advanced t s (advanceWord t s u) := by
  have hended := tablesWf_modCore_wordEnded (t := t) hw (loopEnds (nextIx t s) (Machine.core t s).loops).2
  have hset := tablesWf_wr hended TIL_CORE_STATUS_next_index t (min (loopEnds (nextIx t s) (Machine.core t s).loops).1 65535)
  refine ⟨rd_wr_self (tablesWf_flds hset) _ _ _, ?_, congrArg Core.loops (core_advanceWord hw)⟩
  calc nextIx t (advanceWord t s u)
      = rd TIL_CORE_STATUS_next_index t (wr TIL_CORE_STATUS_next_index t _ _) := rd_wr_ne (tablesWf_flds hset) (key_ne (by decide) ht ht) 1
    _ = min (loopEnds (nextIx t s) (Machine.core t s).loops).1 65535 % 2 ^ 16 := rd_wr_self (tablesWf_flds hended) _ _ _
    _ = min (loopEnds (nextIx t s) (Machine.core t s).loops).1 65535 := Nat.mod_eq_of_lt (by omega)

theorem slotKept_advanceWord (hw : tablesWf u = true) (h : SlotKept t ss as ps vs ws ks s u) :
    SlotKept t ss as ps vs ws ks s (advanceWord t s u) := by
  have hended := tablesWf_modCore_wordEnded (t := t) hw (loopEnds (nextIx t s) (Machine.core t s).loops).2
  refine slotKept_wr (tablesWf_wr hended _ _ _) (by simp) _ (slotKept_wr hended (by simp) _ (slotKept_setCore hw ?_ rfl h))
  obtain ⟨hregs, -⟩ := h
  unfold RegsKept at hregs ⊢
  rw [core_setCore (tablesWf_tiles hw), if_pos rfl]
  exact hregs

end

/-! ### A tile whose trace is untouched (R424) -/

theorem traced_wr {s : State} (hw : tablesWf s = true) {f : Fld} {i : Nat} (hi : i < 65536)
    (hctl : DBG_TRACE_CTL_enable.id ≠ f.id) (hsel : DBG_TRACE_SEL_tile_m.id ≠ f.id) (t v : Nat) :
    traced t (wr f i v s) = traced t s := by
  have hd : dieOfTile t < 65536 := by unfold dieOfTile; split <;> omega
  simp only [traced, on, rd_wr_ne (tablesWf_flds hw) (key_ne hctl hi hd), rd_wr_ne (tablesWf_flds hw) (key_ne hsel hi hd)]

/-! ### A scalar result written with its flags (R110, R116, R120) -/

/-- Sticky flag `f` of tile `t`, set where `b`. -/
def raiseFlag (f : Fld) (t : Nat) (b : Bool) (s : State) : State := if b then wr f t 1 s else s

section
variable {f g : Fld} {t : Nat} {b : Bool} {s : State}

theorem putS_eq_raiseFlag (sd : BitVec 5) (r : SRes) :
    putS t sd r s = raiseFlag TIL_CS_STATUS_dzero t r.dzero (raiseFlag TIL_CS_STATUS_sov t r.sov (modCore t (fun c => c.setS sd r.v) s)) := rfl

@[simp] theorem core_raiseFlag (r : Nat) : Machine.core r (raiseFlag f t b s) = Machine.core r s := by cases b <;> rfl

@[simp] theorem raiseFlag_notices : (raiseFlag f t b s).notices = s.notices := by cases b <;> rfl

@[simp] theorem putS_notices (sd : BitVec 5) (r : SRes) : (putS t sd r s).notices = s.notices := by
  rw [putS_eq_raiseFlag, raiseFlag_notices, raiseFlag_notices]
  rfl

theorem tablesWf_raiseFlag (hw : tablesWf s = true) : tablesWf (raiseFlag f t b s) = true := by
  cases b
  · exact hw
  · exact tablesWf_wr hw f t 1

theorem rd_raiseFlag_self (hw : tablesWf s = true) (hbit : f.w = 1) : rd f t (raiseFlag f t b s) = if b then 1 else rd f t s := by
  cases b
  · rfl
  · exact (rd_wr_self (tablesWf_flds hw) f t 1).trans (by rw [hbit]; rfl)

theorem rd_raiseFlag_ne (hw : tablesWf s = true) (ht : t < 65536) (hid : g.id ≠ f.id) : rd g t (raiseFlag f t b s) = rd g t s := by
  cases b
  · rfl
  · exact rd_wr_ne (tablesWf_flds hw) (key_ne hid ht ht) 1

theorem traced_raiseFlag (hw : tablesWf s = true) (ht : t < 65536)
    (hctl : DBG_TRACE_CTL_enable.id ≠ f.id) (hsel : DBG_TRACE_SEL_tile_m.id ≠ f.id) (r : Nat) :
    traced r (raiseFlag f t b s) = traced r s := by
  cases b
  · rfl
  · exact traced_wr hw ht hctl hsel r 1

theorem slotKept_raiseFlag {u : State} {ss : List (BitVec 5)} {as : List (BitVec 4)} {ps : List (BitVec 3)} {vs : List (BitVec 5)}
    {ws ks : List Nat} (hw : tablesWf u = true) (hk : b = true → f.key t ∈ ks) (h : SlotKept t ss as ps vs ws ks s u) :
    SlotKept t ss as ps vs ws ks s (raiseFlag f t b u) := by
  cases b
  · exact h
  · exact slotKept_wr hw (by simp [hk rfl]) 1 h

end

/-- The keys of the flags that a result sets. -/
def flagKeys (t : Nat) (r : SRes) : List Nat :=
  (if r.sov then [TIL_CS_STATUS_sov.key t] else []) ++ (if r.dzero then [TIL_CS_STATUS_dzero.key t] else [])

section
variable {t : Nat} {s : State} (hw : tablesWf s = true) (sd : BitVec 5) (r : SRes)
include hw

theorem tablesWf_modCore_setS (v : U64) : tablesWf (modCore t (fun c => c.setS sd v) s) = true :=
  tablesWf_setCore hw t _ (setS_coreWf (tablesWf_core hw t) sd v)

theorem tablesWf_putS : tablesWf (putS t sd r s) = true :=
  tablesWf_raiseFlag (tablesWf_raiseFlag (tablesWf_modCore_setS hw sd r.v))

theorem core_putS : Machine.core t (putS t sd r s) = (Machine.core t s).setS sd r.v := by
  rw [putS_eq_raiseFlag, core_raiseFlag, core_raiseFlag, core_modCore_self hw]

theorem sov_putS (ht : t < 65536) : rd TIL_CS_STATUS_sov t (putS t sd r s) = if r.sov then 1 else rd TIL_CS_STATUS_sov t s := by
  have hset := tablesWf_modCore_setS (t := t) hw sd r.v
  rw [putS_eq_raiseFlag, rd_raiseFlag_ne (tablesWf_raiseFlag hset) ht (by decide), rd_raiseFlag_self hset rfl]
  rfl

theorem dzero_putS (ht : t < 65536) : rd TIL_CS_STATUS_dzero t (putS t sd r s) = if r.dzero then 1 else rd TIL_CS_STATUS_dzero t s := by
  have hset := tablesWf_modCore_setS (t := t) hw sd r.v
  rw [putS_eq_raiseFlag, rd_raiseFlag_self (tablesWf_raiseFlag hset) rfl, rd_raiseFlag_ne hset ht (by decide)]
  rfl

theorem traced_putS (ht : t < 65536) (q : Nat) : traced q (putS t sd r s) = traced q s := by
  have hset := tablesWf_modCore_setS (t := t) hw sd r.v
  rw [putS_eq_raiseFlag, traced_raiseFlag (tablesWf_raiseFlag hset) ht (by decide) (by decide), traced_raiseFlag hset ht (by decide) (by decide)]
  rfl

theorem slotKept_putS : SlotKept t [sd] [] [] [] [] (flagKeys t r) s (putS t sd r s) := by
  have hset := tablesWf_modCore_setS (t := t) hw sd r.v
  exact slotKept_raiseFlag (tablesWf_raiseFlag hset) (fun h => by simp [flagKeys, h])
    (slotKept_raiseFlag hset (fun h => by simp [flagKeys, h]) (slotKept_setS hw sd r.v))

end

/-! ### Scalar slots that write one register (R119) -/

/-- The command of a slot runs that slot, and the reports it left are acted on. -/
theorem exec_of_slotOf {i : Instr} {t : Nat} {x : SlotIn} (h : slotOf i = some (t, x)) (s : State) :
    exec i s = .next (settle (slot t x.k x.pg x.pn x.op s)) := by
  cases i <;> cases h <;> rfl

/-- The register that a scalar slot writes from the core's registers alone, and its result. -/
def scalarResult (c : Core) : SlotOp → Option (BitVec 5 × SRes)
  | .sr o f => some (f.sd, srRes o (c.sg f.sa) (c.sg f.sb))
  | .si o f => some (f.sd, srRes (siBase o) (c.sg f.sa) (f.imm.signExtend 64))
  | .li sd imm => some (sd, { v := imm.signExtend 64 })
  | .lih sd imm => some (sd, { v := lihRes (c.sg sd) imm })
  | _ => none

section
variable {c : Core} {x : SlotIn} {sd : BitVec 5} {r : SRes}

/-- The scalar slots that write one register: the register forms, the immediate forms, LI and LIH. -/
theorem op_of_scalarResult (h : scalarResult c x.op = some (sd, r)) :
    (∃ o f, x.op = .sr o f) ∨ (∃ o f, x.op = .si o f) ∨ (∃ d imm, x.op = .li d imm) ∨ (∃ d imm, x.op = .lih d imm) := by
  cases hop : x.op
  case sr => simp
  case si => simp
  case li => simp
  case lih => simp
  all_goals simp [scalarResult, hop] at h

theorem slot_lt_two_of_scalarResult (hwf : x.wf = true) (h : scalarResult c x.op = some (sd, r)) : x.k < 2 := by
  simp only [SlotIn.wf, Bool.and_eq_true, List.contains_iff_mem] at hwf
  obtain ⟨hmem, -⟩ := hwf
  obtain ⟨o, f, hop⟩ | ⟨o, f, hop⟩ | ⟨d, imm, hop⟩ | ⟨d, imm, hop⟩ := op_of_scalarResult h <;>
    rw [hop, SlotOp.slots] at hmem
  · split at hmem <;> simp at hmem <;> omega
  all_goals simp at hmem; omega

/-- Such a slot breaks no loop rule, raises nothing, is held by nothing and makes no access. -/
theorem issues_of_scalarResult (h : scalarResult c x.op = some (sd, r)) (t idx : Nat) (s : State) :
    loopFault c idx x = false ∧ slotFault t c x s = none ∧ slotHold t c x s = none ∧ accOf c x.op = none := by
  obtain ⟨o, f, hop⟩ | ⟨o, f, hop⟩ | ⟨d, imm, hop⟩ | ⟨d, imm, hop⟩ := op_of_scalarResult h <;>
    simp [loopFault, slotFault, slotHold, accOf, enqueued, hop]

theorem runSlot_of_scalarResult (h : scalarResult c x.op = some (sd, r)) (htakes : slotTakes c x = true) (t idx : Nat) (pre s : State) :
    runSlot t idx pre c x s = putS t sd r s := by
  obtain ⟨o, f, hop⟩ | ⟨o, f, hop⟩ | ⟨d, imm, hop⟩ | ⟨d, imm, hop⟩ := op_of_scalarResult h <;>
  · rw [hop] at h
    obtain ⟨rfl, rfl⟩ := Prod.mk.inj (Option.some.inj h)
    simp [runSlot, htakes, hop, runSr, runSi, runLi, runLih]

end

section
variable {i : Instr} {t : Nat} {x : SlotIn} {s : State} {sd : BitVec 5} {r : SRes}

/-- A scalar slot that takes effect writes its result, and the program goes on. -/
theorem slot_of_scalarResult (hready : Ready t x s) (htakes : slotTakes (Machine.core t s) x = true) (ht : t < 65536)
    (hres : scalarResult (Machine.core t s) x.op = some (sd, r)) :
    slot t x.k x.pg x.pn x.op s = advanceWord t s (putS t sd r s) := by
  obtain ⟨hloop, hfault, hhold, hacc⟩ := issues_of_scalarResult hres t (nextIx t s) s
  rw [slot_issues hready hloop hfault hhold]
  obtain ⟨⟨-, -, hw⟩, hwf, -, -, -, -, -, hstep, htrace⟩ := hready
  have hk : x.k < 2 := slot_lt_two_of_scalarResult hwf hres
  have hrun := runSlot_of_scalarResult hres htakes t (nextIx t s) s s
  have htrace' : traced t (putS t sd r s) = false := (traced_putS hw sd r ht t).trans htrace
  have hstep' : (Machine.core t (advanceWord t s (putS t sd r s))).stepping = false := by
    rw [core_advanceWord (tablesWf_putS hw sd r), core_putS hw, wordEnded, stepping_setS, hstep]
  rw [doIssue_one (by omega) (by omega) (by rw [wordWatch_none hacc, hrun, htrace']), wordWatch_none hacc, hrun]
  exact if_neg (Bool.eq_false_iff.1 hstep')

theorem exec_of_scalarResult (hfires : Fires i t x s) (ht : t < 65536) (hres : scalarResult (Machine.core t s) x.op = some (sd, r)) :
    ∃ u, exec i s = .next u
      ∧ (Machine.core t u).sg sd = (if sd = 0#5 then 0#64 else r.v)
      ∧ rd TIL_CS_STATUS_sov t u = (if r.sov then 1 else rd TIL_CS_STATUS_sov t s)
      ∧ rd TIL_CS_STATUS_dzero t u = (if r.dzero then 1 else rd TIL_CS_STATUS_dzero t s)
      ∧ Advanced t s u ∧ SlotKept t [sd] [] [] [] [] (flagKeys t r) s u := by
  obtain ⟨hslot, hready, htakes⟩ := hfires
  have hexec := exec_of_slotOf hslot s
  rw [slot_of_scalarResult hready htakes ht hres] at hexec
  obtain ⟨⟨hquiet, -, hw⟩, -⟩ := hready
  rw [settle_none (by simpa using hquiet)] at hexec
  have hput := tablesWf_putS (t := t) hw sd r
  refine ⟨_, hexec, ?_, ?_, ?_, advanced_advanceWord hput ht, slotKept_advanceWord hput (slotKept_putS hw sd r)⟩
  · rw [core_advanceWord hput, core_putS hw]
    exact (sg_setS (tablesWf_core hw t) sd sd r.v).trans (by rw [if_pos rfl])
  · rw [rd_advanceWord hput ht (by decide) (by decide), sov_putS hw sd r ht]
  · rw [rd_advanceWord hput ht (by decide) (by decide), dzero_putS hw sd r ht]

end

theorem slotOf_srInstr {o : SrOp} {h : Hd} {f : FSR} {t : Nat} {x : SlotIn} (hs : slotOf (srInstr o h f) = some (t, x)) : x.op = .sr o f := by
  cases o <;> cases hs <;> rfl

theorem slotOf_siInstr {o : SiOp} {h : Hd} {f : FSI} {t : Nat} {x : SlotIn} (hs : slotOf (siInstr o h f) = some (t, x)) : x.op = .si o f := by
  cases o <;> cases hs <;> rfl

theorem slotOf_li {h : Hd} {sd : BitVec 5} {imm : BitVec 47} {t : Nat} {x : SlotIn}
    (hs : slotOf (.li h sd imm) = some (t, x)) : x.op = .li sd imm := by
  cases hs
  rfl

theorem slotOf_lih {h : Hd} {sd : BitVec 5} {imm : BitVec 17} {t : Nat} {x : SlotIn}
    (hs : slotOf (.lih h sd imm) = some (t, x)) : x.op = .lih sd imm := by
  cases hs
  rfl

theorem flagKeys_srRes_subset (t : Nat) (o : SrOp) (a b : U64) :
    flagKeys t (srRes o a b) ⊆ [TIL_CS_STATUS_sov.key t, TIL_CS_STATUS_dzero.key t] := by
  unfold flagKeys
  split <;> split <;> simp

theorem flagKeys_srRes_siBase_subset (t : Nat) (o : SiOp) (a b : U64) :
    flagKeys t (srRes (siBase o) a b) ⊆ [TIL_CS_STATUS_sov.key t] := by
  rw [flagKeys, srRes_dzero, srDivides_siBase]
  split <;> simp

/-- Settles O8: a scalar slot writes its result with the flags it raises and the program goes on, and the model's
results are those of R119 and R120. -/
theorem scalarResults : Obligations.ScalarResults := by
  have htile : ∀ h : Hd, h.t.val < 65536 := fun h => h.t.isLt.trans (by decide)
  refine ⟨fun o h f x s hfires => ?_, fun o h f x s hfires => ?_, fun h sd imm x s hfires => ?_, fun h sd imm x s hfires => ?_⟩
  · have hop : x.op = .sr o f := slotOf_srInstr hfires.1
    obtain ⟨u, hexec, hsd, hsov, hdzero, hadv, hkept⟩ := exec_of_scalarResult hfires (htile h) (by rw [hop]; rfl)
    rw [srRes_v] at hsd
    rw [srRes_sov] at hsov
    rw [srRes_dzero] at hdzero
    exact ⟨u, hexec, hsd, hsov, hdzero, hadv, slotKept_mono_fields hkept (flagKeys_srRes_subset _ _ _ _)⟩
  · have hop : x.op = .si o f := slotOf_siInstr hfires.1
    obtain ⟨u, hexec, hsd, hsov, -, hadv, hkept⟩ := exec_of_scalarResult hfires (htile h) (by rw [hop]; rfl)
    rw [srRes_v] at hsd
    rw [srRes_sov] at hsov
    exact ⟨u, hexec, hsd, hsov, hadv, slotKept_mono_fields hkept (flagKeys_srRes_siBase_subset _ _ _ _)⟩
  · have hop : x.op = .li sd imm := slotOf_li hfires.1
    obtain ⟨u, hexec, hsd, -, -, hadv, hkept⟩ := exec_of_scalarResult hfires (htile h) (by rw [hop]; rfl)
    exact ⟨u, hexec, hsd, hadv, hkept⟩
  · have hop : x.op = .lih sd imm := slotOf_lih hfires.1
    obtain ⟨u, hexec, hsd, -, -, hadv, hkept⟩ := exec_of_scalarResult hfires (htile h) (by rw [hop]; rfl)
    rw [lihRes_eq_append] at hsd
    exact ⟨u, hexec, hsd, hadv, hkept⟩

end Sys2Proof.Proofs

/-! ### Rates, congestion maps and timetables (R275, R279 to R283): proofs -/

namespace Sys2Proof.Proofs
open Sys2Proof.Machine Sys2Proof.Laws

/-! ### Bits replaced under a mask -/

/-- `old` with the bits of `mask` as `new` has them, in the arithmetic of the model's masked write. -/
def replaceBits (old new mask : Nat) : Nat := old - (old &&& mask) + (new &&& mask)

theorem add_eq_lor_of_land_eq_zero {a b : Nat} (h : a &&& b = 0) : a + b = a ||| b := by
  have hsum : a + b < 2 ^ (a + b) := Nat.lt_two_pow_self
  have ha : a % 2 ^ (a + b) = a := Nat.mod_eq_of_lt (by omega)
  have hb : b % 2 ^ (a + b) = b := Nat.mod_eq_of_lt (by omega)
  have hdisjoint : BitVec.ofNat (a + b) a &&& BitVec.ofNat (a + b) b = 0#(a + b) := by
    rw [← BitVec.ofNat_and, h]
  have hor := congrArg BitVec.toNat (BitVec.add_eq_or_of_and_eq_zero _ _ hdisjoint)
  rwa [BitVec.toNat_add, BitVec.toNat_or, BitVec.toNat_ofNat, BitVec.toNat_ofNat, ha, hb, Nat.mod_eq_of_lt hsum] at hor

theorem sub_land_eq_ldiff (a b : Nat) : a - (a &&& b) = a.ldiff b := by
  have hdisjoint : (a &&& b) &&& a.ldiff b = 0 := Nat.zero_of_testBit_eq_false fun i => by
    cases a.testBit i <;> cases hb : b.testBit i <;> simp [Nat.testBit_ldiff, hb]
  have hunion : (a &&& b) ||| a.ldiff b = a := Nat.eq_of_testBit_eq fun i => by
    cases hb : b.testBit i <;> simp [Nat.testBit_ldiff, hb]
  have hsum := add_eq_lor_of_land_eq_zero hdisjoint
  omega

theorem testBit_replaceBits (old new mask i : Nat) :
    (replaceBits old new mask).testBit i = if mask.testBit i then new.testBit i else old.testBit i := by
  have hdisjoint : old.ldiff mask &&& (new &&& mask) = 0 := Nat.zero_of_testBit_eq_false fun j => by
    cases hm : mask.testBit j <;> simp [Nat.testBit_ldiff, hm]
  rw [replaceBits, sub_land_eq_ldiff, add_eq_lor_of_land_eq_zero hdisjoint]
  cases hm : mask.testBit i <;> simp [Nat.testBit_ldiff, hm]

theorem replaceBits_zero (old new : Nat) : replaceBits old new 0 = old := by simp [replaceBits]

theorem replaceBits_lt {old new mask w : Nat} (hold : old < 2 ^ w) (hmask : mask < 2 ^ w) : replaceBits old new mask < 2 ^ w := by
  refine Nat.lt_pow_two_of_testBit _ fun i hi => ?_
  have hpow : 2 ^ w ≤ 2 ^ i := Nat.pow_le_pow_right (by decide) hi
  rw [testBit_replaceBits, Nat.testBit_lt_two_pow (hmask.trans_le hpow), Nat.testBit_lt_two_pow (hold.trans_le hpow), if_neg Bool.false_ne_true]

theorem testBit_bits {x lo w b : Nat} (hb : b < w) : (bits x lo w).testBit b = x.testBit (lo + b) := by
  simp [bits, Nat.testBit_mod_two_pow, Nat.testBit_shiftRight, hb]

/-! ### What changes fields alone -/

section
variable {ks ks' : List Nat} {s u x : State}

theorem onlyFields_refl : OnlyFields ks s s := ⟨rfl, fun _ _ => rfl⟩

theorem onlyFields_trans (h : OnlyFields ks s u) (h' : OnlyFields ks' u x) : OnlyFields (ks ++ ks') s x := by
  obtain ⟨hsame, hflds⟩ := h
  obtain ⟨hsame', hflds'⟩ := h'
  refine ⟨(congrArg (fun y : State => { y with flds := s.flds }) hsame').trans hsame, fun k hk => ?_⟩
  rw [List.mem_append, not_or] at hk
  exact (hflds' k hk.2).trans (hflds k hk.1)

theorem onlyFields_wr (hw : Map.wf (fun _ => 0) s.flds = true) (f : Fld) (i v : Nat) : OnlyFields [f.key i] s (wr f i v s) :=
  ⟨rfl, fun _ hk => map_get_set_ne _ hw (by simpa using hk) _⟩

theorem rd_of_onlyFields (h : OnlyFields ks s u) {f : Fld} {i : Nat} (hk : f.key i ∉ ks) : rd f i u = rd f i s :=
  congrArg (· ^^^ f.rst0 i) (h.2 _ hk)

end

/-! ### A masked write of fields that take what is written (R6, R275) -/

/-- A field that software writes freely, with no rule or limit of its own. -/
def TakesWrites (f : Fld) : Prop :=
  f.acc = .RW ∧ ∀ (i new : Nat) (s : State), writeHeld f i s = false ∧ setField f i new s = wr f i new s

/-- Field `f` of value `old` after a write of `v` under mask `m` to its register. -/
def maskedField (f : Fld) (v m old : Nat) : Nat := replaceBits old (bits v f.lo f.w) (bits m f.lo f.w)

theorem maskedField_lt {f : Fld} {v m old : Nat} (hold : old < 2 ^ f.w) : maskedField f v m old < 2 ^ f.w :=
  replaceBits_lt hold (Nat.mod_lt _ (Nat.two_pow_pos _))

theorem testBit_maskedField {f : Fld} {b : Nat} (hb : b < f.w) (v m old : Nat) :
    (maskedField f v m old).testBit b = if m.testBit (f.lo + b) then v.testBit (f.lo + b) else old.testBit b := by
  rw [maskedField, testBit_replaceBits, testBit_bits hb, testBit_bits hb]

section
variable {pre s : State} {k v m : Nat}

/-- The write of one field is a plain write of its masked value: where the mask names no bit of it, that is its old value. -/
theorem writeField_of_takesWrites {f : Fld} (hf : TakesWrites f) (hw : Map.wf (fun _ => 0) s.flds = true)
    (hsame : rd f k s = rd f k pre) (hold : rd f k pre < 2 ^ f.w) (c : Nat) :
    writeField pre k v m f (c, s) = (c, wr f k (maskedField f v m (rd f k pre)) s) := by
  obtain ⟨hacc, hfree⟩ := hf
  obtain ⟨hheld, hset⟩ := hfree k (maskedField f v m (rd f k pre)) pre
  by_cases hmask : bits m f.lo f.w = 0
  · have hkeep : maskedField f v m (rd f k pre) = rd f k s := by rw [maskedField, hmask, replaceBits_zero, hsame]
    rw [hkeep, wr_same hw f k (hsame ▸ hold)]
    exact if_pos hmask
  · have hput := (hfree k (maskedField f v m (rd f k pre)) s).2
    simp only [writeField, if_neg hmask, hacc, hheld]
    exact congrArg (Prod.mk c) hput

theorem foldl_writeField_of_takesWrites {l : List Fld} (htakes : ∀ f ∈ l, TakesWrites f) (hids : (l.map Fld.id).Nodup) (hk : k < 65536)
    (hw : Map.wf (fun _ => 0) s.flds = true) (hsame : ∀ f ∈ l, rd f k s = rd f k pre) (hold : ∀ f ∈ l, rd f k pre < 2 ^ f.w) (c : Nat) :
    ∃ u, l.foldl (fun x f => writeField pre k v m f x) (c, s) = (c, u) ∧ OnlyFields (l.map fun f => f.key k) s u
      ∧ ∀ f ∈ l, rd f k u = maskedField f v m (rd f k pre) := by
  induction l generalizing s with
  | nil => exact ⟨s, rfl, onlyFields_refl, by simp⟩
  | cons f l ih =>
    rw [List.forall_mem_cons] at htakes hsame hold
    obtain ⟨hf, hl⟩ := htakes
    rw [List.map_cons, List.nodup_cons] at hids
    obtain ⟨hfresh, hids⟩ := hids
    have hkeys : ∀ g ∈ l, g.key k ≠ f.key k := fun g hg =>
      key_ne (fun hid => hfresh (List.mem_map.2 ⟨g, hg, hid⟩)) hk hk
    have hput := writeField_of_takesWrites (v := v) (m := m) hf hw hsame.1 hold.1 c
    have hsame' : ∀ g ∈ l, rd g k (wr f k (maskedField f v m (rd f k pre)) s) = rd g k pre := fun g hg =>
      (rd_wr_ne hw (hkeys g hg) _).trans (hsame.2 g hg)
    obtain ⟨u, hfold, honly, hvals⟩ := ih hl hids (wr_flds_wf hw f k _) hsame' hold.2
    refine ⟨u, by rw [List.foldl_cons, hput, hfold], onlyFields_trans (onlyFields_wr hw f k _) honly, ?_⟩
    rw [List.forall_mem_cons]
    refine ⟨?_, hvals⟩
    rw [rd_of_onlyFields honly (by simpa using hkeys), rd_wr_self hw, Nat.mod_eq_of_lt (maskedField_lt hold.1)]

end

/-! ### The registers of the timetables (R273 to R275) -/

theorem ttCtl_flds : RTR_TT_CTL.flds =
    [RTR_TT_CTL_valid, RTR_TT_CTL_dateline_x, RTR_TT_CTL_dateline_y, RTR_TT_CTL_dateline_z, RTR_TT_CTL_port_mask] := by
  decide +kernel

theorem ttRedir_flds : RTR_TT_REDIR.flds = [RTR_TT_REDIR_from, RTR_TT_REDIR_to, RTR_TT_REDIR_valid] := by
  decide +kernel

/-- A register of a timetable. -/
def IsTimetable (r : Reg) : Prop := r = RTR_TT_CTL ∨ r = RTR_TT_REDIR

section
variable {r : Reg} (hr : IsTimetable r)
include hr

theorem takesWrites_of_isTimetable : ∀ f ∈ r.flds, TakesWrites f := by
  obtain rfl | rfl := hr
  · simp only [ttCtl_flds, List.forall_mem_cons]
    exact ⟨⟨rfl, fun _ _ _ => ⟨rfl, rfl⟩⟩, ⟨rfl, fun _ _ _ => ⟨rfl, rfl⟩⟩, ⟨rfl, fun _ _ _ => ⟨rfl, rfl⟩⟩,
      ⟨rfl, fun _ _ _ => ⟨rfl, rfl⟩⟩, ⟨rfl, fun _ _ _ => ⟨rfl, rfl⟩⟩, by simp⟩
  · simp only [ttRedir_flds, List.forall_mem_cons]
    exact ⟨⟨rfl, fun _ _ _ => ⟨rfl, rfl⟩⟩, ⟨rfl, fun _ _ _ => ⟨rfl, rfl⟩⟩, ⟨rfl, fun _ _ _ => ⟨rfl, rfl⟩⟩, by simp⟩

theorem nodup_ids_of_isTimetable : (r.flds.map Fld.id).Nodup := by
  obtain rfl | rfl := hr
  · rw [ttCtl_flds]; decide
  · rw [ttRedir_flds]; decide

theorem regWrite_stamped {s : State} {i : Nat} (hstamp : i = rd RTR_CONTROL_stamp 0 s) (j v m : Nat) :
    regWrite r i j v m s = event boxRTR 0x06 i (r.off i j) s := by
  have hcontrol : r.id ≠ RTR_CONTROL.id := by
    obtain rfl | rfl := hr <;> decide
  have htimetable : r.id = RTR_TT_CTL.id ∨ r.id = RTR_TT_REDIR.id := hr.imp (congrArg Reg.id) (congrArg Reg.id)
  rw [regWrite, if_neg (fun h => hcontrol h.1), if_pos ⟨htimetable, hstamp⟩]

/-- A timetable that is not stamped is written field by field, and no field of it acts. -/
theorem regWrite_unstamped {s u : State} {i j v m : Nat} (hstamp : i ≠ rd RTR_CONTROL_stamp 0 s)
    (hfold : r.flds.foldl (fun x f => writeField s (r.ix i j) v m f x) (0, s) = (0, u)) : regWrite r i j v m s = u := by
  obtain rfl | rfl := hr
  all_goals
    rw [regWrite, if_neg (by simp [RTR_TT_CTL, RTR_TT_REDIR, RTR_CONTROL]), if_neg (by simp [hstamp])]
    simp only [hfold]
    rfl

theorem regWrite_unstamped_fields {s : State} (hw : tablesWf s = true) {i j : Nat} (hk : r.ix i j < 65536) (hstamp : i ≠ rd RTR_CONTROL_stamp 0 s)
    (hold : ∀ f ∈ r.flds, rd f (r.ix i j) s < 2 ^ f.w) (v m : Nat) :
    OnlyFields (r.flds.map fun f => f.key (r.ix i j)) s (regWrite r i j v m s)
      ∧ ∀ f ∈ r.flds, rd f (r.ix i j) (regWrite r i j v m s) = maskedField f v m (rd f (r.ix i j) s) := by
  obtain ⟨u, hfold, honly, hvals⟩ := foldl_writeField_of_takesWrites (v := v) (m := m)
    (takesWrites_of_isTimetable hr) (nodup_ids_of_isTimetable hr) hk (tablesWf_flds hw) (fun _ _ => rfl) hold 0
  rw [regWrite_unstamped hr hstamp hfold]
  exact ⟨honly, hvals⟩

end

/-- The register that TIMETABLE_WRITE names: the control register, or an entry of the redirections. -/
def timetableReg : Option (Fin 64) → Reg
  | none => RTR_TT_CTL
  | some _ => RTR_TT_REDIR

/-- The second index of that register. -/
def timetableEntry : Option (Fin 64) → Nat
  | none => 0
  | some j => j.val

theorem isTimetable_timetableReg (j : Option (Fin 64)) : IsTimetable (timetableReg j) := by
  cases j
  · exact .inl rfl
  · exact .inr rfl

theorem timetable_ix_lt (i : Fin 2) (j : Option (Fin 64)) : (timetableReg j).ix i.val (timetableEntry j) < 65536 := by
  have hi := i.isLt
  cases j with
  | none => simp only [timetableReg, timetableEntry, Reg.ix, RTR_TT_CTL]; omega
  | some j => have hj := j.isLt; simp only [timetableReg, timetableEntry, Reg.ix, RTR_TT_REDIR]; omega

theorem exec_timetableWrite {s : State} (ha : Answers s) (i : Fin 2) (j : Option (Fin 64)) (v m : U64) :
    exec (.timetableWrite i j v m) s = .next (regWrite (timetableReg j) i.val (timetableEntry j) v.toNat m.toNat s) := by
  cases j <;> exact congrArg Host.Outcome.next (answering_on ha _)

section
variable {s : State} {i : Fin 2} {j : Option (Fin 64)} {v m : U64}

theorem exec_timetableWrite_stamped (ha : Answers s) (hstamp : i.val = rd RTR_CONTROL_stamp 0 s) :
    exec (.timetableWrite i j v m) s = .next (event boxRTR 0x06 i.val ((timetableReg j).off i.val (timetableEntry j)) s) := by
  rw [exec_timetableWrite ha, regWrite_stamped (isTimetable_timetableReg j) hstamp]

theorem exec_timetableWrite_unstamped (hw : tablesWf s = true) (ha : Answers s) (hstamp : i.val ≠ rd RTR_CONTROL_stamp 0 s)
    (hold : ∀ f ∈ (timetableReg j).flds, rd f ((timetableReg j).ix i.val (timetableEntry j)) s < 2 ^ f.w) :
    ∃ u, exec (.timetableWrite i j v m) s = .next u
      ∧ OnlyFields ((timetableReg j).flds.map fun f => f.key ((timetableReg j).ix i.val (timetableEntry j))) s u
      ∧ ∀ f ∈ (timetableReg j).flds, ∀ b, b < f.w → (rd f ((timetableReg j).ix i.val (timetableEntry j)) u).testBit b
          = if m.getLsbD (f.lo + b) then v.getLsbD (f.lo + b) else (rd f ((timetableReg j).ix i.val (timetableEntry j)) s).testBit b := by
  obtain ⟨honly, hvals⟩ := regWrite_unstamped_fields (isTimetable_timetableReg j) hw (timetable_ix_lt i j) hstamp hold v.toNat m.toNat
  refine ⟨_, exec_timetableWrite ha i j v m, honly, fun f hf b hb => ?_⟩
  rw [hvals f hf]
  exact testBit_maskedField hb _ _ _

end

/-! ### The stamp (R274, R275) -/

theorem exec_stampWrite {s : State} (ha : Answers s) (v : Fin 2) : exec (.stampWrite v) s = .next (stampWrite v.val s) :=
  congrArg Host.Outcome.next (answering_on ha _)

theorem stampWrite_valid {s : State} {v : Nat} (hv : v < 2) (hvalid : on RTR_TT_CTL_valid v s = true) :
    stampWrite v s = wr RTR_CONTROL_stamp 0 v s := by
  rw [stampWrite, Nat.mod_eq_of_lt hv, if_pos hvalid]

theorem stampWrite_invalid {s : State} {v : Nat} (hv : v < 2) (hvalid : on RTR_TT_CTL_valid v s = false) :
    stampWrite v s = event boxRTR 0x06 v (RTR_CONTROL.off 0 0) s := by
  rw [stampWrite, Nat.mod_eq_of_lt hv, if_neg (Bool.eq_false_iff.1 hvalid)]

/-! ### Rates (R279) -/

/-- The rate `e` after a recovery of destination `d`: raised, and dropped where it reaches 256. -/
def recovered (d : Nat) (s : State) (e : Rate) : Option Rate :=
  if e.dst != d then some e else
  if min (e.r + rd RTR_RATE_CONFIG_inc 0 s) 256 = 256 then none
  else some { e with r := min (e.r + rd RTR_RATE_CONFIG_inc 0 s) 256, credit := e.creditAt (now s), at_ := now s }

section
variable {d : Nat} {s : State} {e y : Rate}

theorem recovered_other (h : e.dst ≠ d) : recovered d s e = some e := if_pos (by simpa using h)

theorem recovered_below (h : e.dst = d) (hr : e.r + rd RTR_RATE_CONFIG_inc 0 s < 256) :
    ∃ y, recovered d s e = some y ∧ y.dst = d ∧ y.r = e.r + rd RTR_RATE_CONFIG_inc 0 s := by
  refine ⟨_, (if_neg (by simpa using h)).trans (if_neg (by omega)), h, min_eq_left hr.le⟩

theorem recovered_full (h : e.dst = d) (hr : 256 ≤ e.r + rd RTR_RATE_CONFIG_inc 0 s) : recovered d s e = none :=
  (if_neg (by simpa using h)).trans (if_pos (min_eq_right hr))

/-- What a recovery leaves: another destination's rate as it was, or a rate of `d` raised and below 256. -/
theorem recovered_eq_some (h : recovered d s e = some y) :
    e.dst ≠ d ∧ y = e ∨ e.dst = d ∧ y.dst = d ∧ y.r = e.r + rd RTR_RATE_CONFIG_inc 0 s ∧ y.r < 256 := by
  by_cases hd : e.dst = d
  · by_cases hr : e.r + rd RTR_RATE_CONFIG_inc 0 s < 256
    · obtain ⟨z, hz, hzd, hzr⟩ := recovered_below hd hr
      obtain rfl : z = y := Option.some.inj (hz.symm.trans h)
      exact .inr ⟨hd, hzd, hzr, hzr ▸ hr⟩
    · rw [recovered_full hd (by omega)] at h
      cases h
  · rw [recovered_other hd] at h
    exact .inl ⟨hd, (Option.some.inj h).symm⟩

theorem mem_rates_rateRecovery : y ∈ (rateRecovery d s).router.rates ↔ ∃ e ∈ s.router.rates, recovered d s e = some y := List.mem_filterMap

theorem mem_rates_rateRecovery_other (h : y.dst ≠ d) : y ∈ (rateRecovery d s).router.rates ↔ y ∈ s.router.rates := by
  refine mem_rates_rateRecovery.trans ⟨fun ⟨e, he, hey⟩ => ?_, fun hmem => ⟨y, hmem, recovered_other h⟩⟩
  obtain ⟨-, rfl⟩ | ⟨-, hyd, -⟩ := recovered_eq_some hey
  · exact he
  · exact absurd hyd h

theorem rate_of_mem_rateRecovery (hmem : y ∈ (rateRecovery d s).router.rates) (h : y.dst = d) :
    y.r < 256 ∧ ∃ e ∈ s.router.rates, e.dst = d ∧ y.r = e.r + rd RTR_RATE_CONFIG_inc 0 s := by
  obtain ⟨e, he, hey⟩ := mem_rates_rateRecovery.1 hmem
  obtain ⟨hed, rfl⟩ | ⟨hed, -, hyr, hlt⟩ := recovered_eq_some hey
  · exact absurd h hed
  · exact ⟨hlt, e, he, hed, hyr⟩

theorem exists_rate_of_rateRecovery (he : e ∈ s.router.rates) (h : e.dst = d) (hr : e.r + rd RTR_RATE_CONFIG_inc 0 s < 256) :
    ∃ y ∈ (rateRecovery d s).router.rates, y.dst = d ∧ y.r = e.r + rd RTR_RATE_CONFIG_inc 0 s := by
  obtain ⟨y, hey, hyd, hyr⟩ := recovered_below h hr
  exact ⟨y, mem_rates_rateRecovery.2 ⟨e, he, hey⟩, hyd, hyr⟩

end

/-! ### Congestion maps (R280, R283) -/

/-- The bin that sample `i` (port `i / 6`, VC `i % 6`) counts in. -/
def sampleBin (s : State) (i : Nat) : Nat :=
  i * 8 + occBin (zget (port (i / 6) s).shared (i % 6) + zget (port (i / 6) s).resv (i % 6))

/-- The bins of one sample of every port and VC. -/
def sampleBins (s : State) : List Nat := (List.range 96).map (sampleBin s)

/-- One more in each bin of `ks`, up to the largest count. -/
def countBins (ks : List Nat) (m : Map Nat) : Map Nat :=
  ks.foldl (fun m k => Map.set (fun _ => 0) m k (min (2 ^ 32 - 1) (Map.get (fun _ => 0) m k + 1))) m

theorem zget_countBins {ks : List Nat} (hks : ks.Nodup) {m : Map Nat} (hw : Map.wf (fun _ => 0) m = true) (k : Nat) :
    zget (countBins ks m) k = if k ∈ ks then min (2 ^ 32 - 1) (zget m k + 1) else zget m k := by
  induction ks generalizing m with
  | nil => rfl
  | cons a ks ih =>
    rw [List.nodup_cons] at hks
    obtain ⟨hfresh, hks⟩ := hks
    have hrest := ih hks (map_set_wf _ a (min (2 ^ 32 - 1) (Map.get (fun _ => 0) m a + 1)) hw)
    refine hrest.trans ?_
    obtain rfl | hne := eq_or_ne k a
    · rw [if_neg hfresh, if_pos List.mem_cons_self]
      exact map_get_set_self _ hw k _
    · simp only [List.mem_cons, hne, false_or]
      rw [show zget (Map.set (fun _ => 0) m a _) k = zget m k from map_get_set_ne _ hw hne _]

theorem occBin_lt (n : Nat) : occBin n < 8 := by
  unfold occBin
  split_ifs <;> decide

theorem nodup_sampleBins (s : State) : (sampleBins s).Nodup := by
  refine List.nodup_range.map fun i j hij => ?_
  have hi := occBin_lt (zget (port (i / 6) s).shared (i % 6) + zget (port (i / 6) s).resv (i % 6))
  have hj := occBin_lt (zget (port (j / 6) s).shared (j % 6) + zget (port (j / 6) s).resv (j % 6))
  simp only [sampleBin] at hij
  omega

theorem sampleBin_port_vc (s : State) (p : Nat) {v : Nat} (hv : v < 6) :
    sampleBin s (6 * p + v) = (6 * p + v) * 8 + occBin (zget (port p s).shared v + zget (port p s).resv v) := by
  rw [sampleBin, Nat.mul_add_div (by decide), Nat.mul_add_mod, Nat.div_eq_of_lt hv, Nat.mod_eq_of_lt hv, Nat.add_zero]

theorem mem_sampleBins {s : State} {k : Nat} :
    k ∈ sampleBins s ↔ ∃ p v, p < 16 ∧ v < 6 ∧ k = (6 * p + v) * 8 + occBin (zget (port p s).shared v + zget (port p s).resv v) := by
  simp only [sampleBins, List.mem_map, List.mem_range]
  constructor
  · rintro ⟨i, hi, rfl⟩
    have hmod := Nat.mod_lt i (show 0 < 6 by decide)
    refine ⟨i / 6, i % 6, by omega, hmod, ?_⟩
    rw [← sampleBin_port_vc s _ hmod, Nat.div_add_mod]
  · rintro ⟨p, v, hp, hv, rfl⟩
    exact ⟨6 * p + v, by omega, sampleBin_port_vc s p hv⟩

theorem tablesWf_bins {s : State} (h : tablesWf s = true) : Map.wf (fun _ => 0) s.router.bins = true := by
  simp only [tablesWf, Bool.and_eq_true, and_assoc] at h
  obtain ⟨-, -, -, -, -, -, -, -, -, -, -, -, -, -, hbins, -⟩ := h
  exact hbins

theorem congestion_stopped {s : State} (h : stationClock s = false) : congestion s = s := if_pos (by rw [h]; rfl)

theorem congestion_running {s : State} (h : stationClock s = true) :
    congestion s = { s with router := { s.router with samples := s.router.samples + 1, bins := countBins (sampleBins s) s.router.bins } } :=
  if_neg (by rw [h]; decide)

section
variable {s : State} (hclock : stationClock s = true)
include hclock

theorem congestion_frame : { congestion s with router := s.router } = s := by rw [congestion_running hclock]

theorem congestion_samples : (congestion s).router.samples = s.router.samples + 1 := by rw [congestion_running hclock]

theorem zget_bins_congestion (hw : tablesWf s = true) (k : Nat) :
    zget (congestion s).router.bins k = if k ∈ sampleBins s then min (2 ^ 32 - 1) (zget s.router.bins k + 1) else zget s.router.bins k := by
  rw [congestion_running hclock, zget_countBins (nodup_sampleBins s) (tablesWf_bins hw)]

end

theorem exec_mapLatch {s : State} (ha : Answers s) (clear : Bool) : exec (.mapLatch clear) s = .next (mapLatch clear s) :=
  congrArg Host.Outcome.next (answering_on ha _)

/-- Settles O40: each clause by the lemma that says what the command does, the refusals of R275 with the event alone. -/
theorem ratesMapsAndTimetables : Obligations.RatesMapsAndTimetables := by
  refine ⟨fun d s _ => ?_, fun s _ hclock => ?_, fun s hs hclock => ?_, fun clear s _ ha => ?_, fun v s hs ha => ⟨fun hvalid => ?_, fun hvalid => ?_⟩,
    fun i j v m s hs ha => ?_⟩
  · exact ⟨rateRecovery d.toNat s, rfl, rfl, fun _ => mem_rates_rateRecovery_other, fun _ => rate_of_mem_rateRecovery,
      fun _ => exists_rate_of_rateRecovery⟩
  · exact congrArg Host.Outcome.next (congestion_stopped hclock)
  · obtain ⟨-, -, hw⟩ := hs
    refine ⟨congestion s, rfl, congestion_frame hclock, congestion_samples hclock, fun p v hp hv => ?_, fun k hk => ?_⟩
    · rw [zget_bins_congestion hclock hw, if_pos (mem_sampleBins.2 ⟨p, v, hp, hv, rfl⟩)]
    · rw [zget_bins_congestion hclock hw, if_neg fun hmem => ?_]
      obtain ⟨p, v, hp, hv, hbin⟩ := mem_sampleBins.1 hmem
      exact hk p v hp hv hbin
  · rw [exec_mapLatch ha]
    cases clear <;> rfl
  · obtain ⟨-, -, hw⟩ := hs
    rw [exec_stampWrite ha, stampWrite_valid v.isLt hvalid]
    exact ⟨_, rfl, (rd_wr_self (tablesWf_flds hw) _ _ _).trans (Nat.mod_eq_of_lt v.isLt), onlyFields_wr (tablesWf_flds hw) _ _ _⟩
  · rw [exec_stampWrite ha, stampWrite_invalid v.isLt hvalid]
  · obtain ⟨-, -, hw⟩ := hs
    exact ⟨exec_timetableWrite_stamped ha, exec_timetableWrite_unstamped hw ha⟩

end Sys2Proof.Proofs
